-- ==== Sys2Proof/Word.lean ====
section
/-! DEFINITION. The word types of the HR-9 and their plainest arithmetic (R3: little-endian, bit 0 least significant), the
prefixes of an instruction sequence, and the names that steps are given: cores, strands, agents and configuration registers. -/

namespace Sys2Proof

/-- A 32-bit register or memory word. -/
abbrev Word := BitVec 32
/-- One byte of memory. -/
abbrev Byte := BitVec 8
/-- A 64-bit register pair, address or configuration register. -/
abbrev W64 := BitVec 64

/-- A virtual die number (R7). -/
abbrev Die := BitVec 2
/-- A quad of a die (R2). -/
abbrev Quad := BitVec 4
/-- A context slot (R1, R40). -/
abbrev Slot := BitVec 4

/-- The word of a truth value. -/
def Word.ofBool (b : Bool) : Word := if b then 1 else 0

/-- The 64-bit value of a pair, low half first (R120). -/
def pair (lo hi : Word) : W64 := hi ++ lo

/-- The low half of a pair (R120). -/
def lo32 (x : W64) : Word := x.extractLsb' 0 32
/-- The high half of a pair (R120). -/
def hi32 (x : W64) : Word := x.extractLsb' 32 32

/-- A sparse table of numbers: a key that is not listed reads as the table's default. -/
abbrev NatMap := List (Nat × Nat)

/-- The entry of a key, or the default. -/
def NatMap.get (m : NatMap) (d k : Nat) : Nat :=
  match m.find? (·.1 == k) with
  | some e => e.2
  | none => d

/-- The table with one entry replaced. -/
def NatMap.set (m : NatMap) (k v : Nat) : NatMap := (k, v) :: m.filter (·.1 != k)

/-- The `ext` prefix word (R142, Table 4). -/
structure Ext where
  pred : BitVec 3
  pinv : Bool
  tea : Bool
  teb : Bool
  ted : Bool
  ua : Bool
  ub : Bool
  rmo : BitVec 3
  sat : Bool
  deriving DecidableEq, Repr

/-- The `rpt` prefix word (R143, Table 5). -/
structure Rpt where
  count : BitVec 8
  sd : BitVec 4
  sa : BitVec 4
  sb : BitVec 4
  deriving DecidableEq, Repr

/-- The prefixes and the literal of a sequence (R136): at most one `rpt`, one `ext`, and one literal. -/
structure Pfx where
  rpt : Option Rpt
  ext : Option Ext
  lit : Option Word
  deriving DecidableEq, Repr

/-- A sequence with no prefix and no literal. -/
def Pfx.none : Pfx := ⟨.none, .none, .none⟩

/-- A core: virtual die, quad and core of the quad (R1). -/
structure CoreId where
  die : Die
  quad : Quad
  core : BitVec 2
  deriving DecidableEq, Repr

/-- A strand by name (R77, R419): context, gang number, workgroup index and strand index. The firmware slot of a core
carries the gang number 0xFFFFFF, which is never a gang's (R379), and `widx` then holds the core. -/
structure Who where
  ctx : BitVec 12
  gang : BitVec 24
  wg : BitVec 2
  widx : BitVec 9
  deriving DecidableEq, Repr

/-- The agents that acknowledge an invalidation round (R47). -/
inductive Agent where
  | die (d : Die)
  | cacheDie
  deriving DecidableEq, Repr

/-- How a GDDR7 access attempt ends (R22, R23). -/
inductive MemOutcome where
  | ok | corrected | crcFail | eccUncorrectable | codeUncorrectable
  deriving DecidableEq, Repr

/-- How the code of a vault word checks (R93). -/
inductive VaultOutcome where
  | ok | corrected | uncorrectable
  deriving DecidableEq, Repr

/-- The bound registers of a format window (R28). -/
inductive FwBound where
  | base | limit | scale
  deriving DecidableEq, Repr

/-- The scheduling counters of a core (R417, Table 1). -/
inductive SchedCounter where
  | slip | adm | drop | rot | loss | lossc | lower | lease
  deriving DecidableEq, Repr

/-- The configuration registers, by name and index. -/
inductive CReg where
  | vdmap                                    -- R8
  | memerr (die : Die)                       -- R25
  | fwctl (die : Die) (n : BitVec 4)         -- R28
  | fwbase (die : Die) (n : BitVec 4)        -- R28
  | fwlimit (die : Die) (n : BitVec 4)       -- R28
  | fwscale (die : Die) (n : BitVec 4)       -- R28
  | trbase (s : Slot)                        -- R40
  | ftbase (die : Die)                       -- R50
  | rqbase (die : Die)                       -- R52
  | rqptr (die : Die)                        -- R52
  | swctl (die : Die)                        -- R52
  | ubpart (die : Die)                       -- R59
  | ubrsv (die : Die) (s : Slot)             -- R59
  | ubstat (die : Die)                       -- R65
  | cqctl (die : Die) (n : BitVec 6)         -- R108
  | cqhdr (die : Die) (n : BitVec 6)         -- R108
  | raytab (s : Slot)                        -- R318
  | lqctl (n : BitVec 6)                     -- R390
  | lqhdr (n : BitVec 6)                     -- R390
  | lqbud (n : BitVec 6)                     -- R403
  | lqref (n : BitVec 6)                     -- R403
  | head (die : Die)                         -- R394
  | hndbase (s : Slot)                       -- R432
  | sysmap (s : Slot)                        -- R432
  | fixring (die : Die) (q : Quad)           -- R436
  | ctxcmd                                   -- R438
  | ctxsave                                  -- R438
  | ctxstat (s : Slot)                       -- R438
  | osctl (s : Slot)                         -- R420
  | zpkg                                     -- R448
  | zroute (pkg : BitVec 9)                  -- R448
  | ztmo                                     -- R454
  | zdown (k : BitVec 3)                     -- R454
  | uinva                                    -- R459
  | uinvb                                    -- R459
  | uintstat                                 -- R460
  | uinten                                   -- R460
  | bootst                                   -- R461
  | cap                                      -- R464
  | dierst                                   -- R466
  | pwrctl                                   -- R467
  | therm (die : Die)                        -- R467
  | vat (die : Die) (q : Quad) (n : BitVec 5) -- R90
  | sched (c : CoreId) (k : SchedCounter)    -- R417
  deriving DecidableEq, Repr

end Sys2Proof
end

