-- ==== Sys2Proof/Syntax.lean ====
section
/-! DEFINITION. The syntax of the HR-9's steps: `Instr`, with one constructor for each row of the table of operations and
events. -/

namespace Sys2Proof

/-- The steps of the part. A row with an encoding is an instruction sequence: the prefixes `px`, then the fields of its
word under the names of the table. A row without one is an event, and its parameters name what the event concerns and how
the physical side of it turned out. -/
inductive Instr where
  | iadd (px : Pfx) (d a b : BitVec 8)  -- IADD R180
  | iaddc (px : Pfx) (d a b : BitVec 8)  -- IADDC R181
  | isub (px : Pfx) (d a b : BitVec 8)  -- ISUB R180
  | isubb (px : Pfx) (d a b : BitVec 8)  -- ISUBB R181
  | imul (px : Pfx) (d a b : BitVec 8)  -- IMUL R180
  | imulh (px : Pfx) (d a b : BitVec 8)  -- IMULH R182
  | imulhn (px : Pfx) (d a b : BitVec 8)  -- IMULHN R182
  | imad (px : Pfx) (d a b : BitVec 8)  -- IMAD R180
  | iabs (px : Pfx) (d a : BitVec 8)  -- IABS R183
  | imin (px : Pfx) (d a b : BitVec 8)  -- IMIN R183
  | imax (px : Pfx) (d a b : BitVec 8)  -- IMAX R183
  | iminn (px : Pfx) (d a b : BitVec 8)  -- IMINN R183
  | imaxn (px : Pfx) (d a b : BitVec 8)  -- IMAXN R183
  | icmp (px : Pfx) (c : BitVec 4) (m : BitVec 3) (a b : BitVec 8)  -- ICMP R188
  | selL (px : Pfx) (d a b : BitVec 8)  -- SEL R189
  | andL (px : Pfx) (d a b : BitVec 8)  -- AND R184
  | orL (px : Pfx) (d a b : BitVec 8)  -- OR R184
  | xorL (px : Pfx) (d a b : BitVec 8)  -- XOR R184
  | andn (px : Pfx) (d a b : BitVec 8)  -- ANDN R184
  | notL (px : Pfx) (d a : BitVec 8)  -- NOT R184
  | shl (px : Pfx) (d a b : BitVec 8)  -- SHL R185
  | shr (px : Pfx) (d a b : BitVec 8)  -- SHR R185
  | sra (px : Pfx) (d a b : BitVec 8)  -- SRA R185
  | rotl (px : Pfx) (d a b : BitVec 8)  -- ROTL R185
  | popc (px : Pfx) (d a : BitVec 8)  -- POPC R186
  | clz (px : Pfx) (d a : BitVec 8)  -- CLZ R186
  | ctz (px : Pfx) (d a : BitVec 8)  -- CTZ R186
  | brev (px : Pfx) (d a : BitVec 8)  -- BREV R186
  | bfe (px : Pfx) (d a b : BitVec 8)  -- BFE R187
  | bfes (px : Pfx) (d a b : BitVec 8)  -- BFES R187
  | bfi (px : Pfx) (d a b : BitVec 8)  -- BFI R187
  | mov (px : Pfx) (d a : BitVec 8)  -- MOV R190
  | movw (px : Pfx) (d a : BitVec 8)  -- MOVW R190
  | movi (px : Pfx) (d : BitVec 8) (i : BitVec 16)  -- MOVI R190
  | lid (px : Pfx) (d k : BitVec 8)  -- LID R191
  | fadd (px : Pfx) (d a b : BitVec 8)  -- FADD R195
  | fsub (px : Pfx) (d a b : BitVec 8)  -- FSUB R195
  | fmul (px : Pfx) (d a b : BitVec 8)  -- FMUL R195
  | ffma (px : Pfx) (d a b : BitVec 8)  -- FFMA R195
  | fmin (px : Pfx) (d a b : BitVec 8)  -- FMIN R196
  | fmax (px : Pfx) (d a b : BitVec 8)  -- FMAX R196
  | fcmp (px : Pfx) (c : BitVec 4) (m : BitVec 3) (a b : BitVec 8)  -- FCMP R197
  | fdiv (px : Pfx) (d a b : BitVec 8)  -- FDIV R198
  | frcp (px : Pfx) (d a : BitVec 8)  -- FRCP R198
  | frsq (px : Pfx) (d a : BitVec 8)  -- FRSQ R198
  | fsqrt (px : Pfx) (d a : BitVec 8)  -- FSQRT R198
  | fexp2 (px : Pfx) (d a : BitVec 8)  -- FEXP2 R198
  | flog2 (px : Pfx) (d a : BitVec 8)  -- FLOG2 R198
  | fsinr (px : Pfx) (d a : BitVec 8)  -- FSINR R198
  | fcosr (px : Pfx) (d a : BitVec 8)  -- FCOSR R198
  | frnd (px : Pfx) (d a : BitVec 8)  -- FRND R199
  | ffrac (px : Pfx) (d a : BitVec 8)  -- FFRAC R199
  | dadd (px : Pfx) (d a b : BitVec 8)  -- DADD R200
  | dmul (px : Pfx) (d a b : BitVec 8)  -- DMUL R200
  | dfma (px : Pfx) (d a b : BitVec 8)  -- DFMA R200
  | hadd2 (px : Pfx) (d a b : BitVec 8)  -- HADD2 R201
  | hmul2 (px : Pfx) (d a b : BitVec 8)  -- HMUL2 R201
  | hfma2 (px : Pfx) (d a b : BitVec 8)  -- HFMA2 R201
  | badd2 (px : Pfx) (d a b : BitVec 8)  -- BADD2 R201
  | bmul2 (px : Pfx) (d a b : BitVec 8)  -- BMUL2 R201
  | bfma2 (px : Pfx) (d a b : BitVec 8)  -- BFMA2 R201
  | fdot2b (px : Pfx) (d a b : BitVec 8)  -- FDOT2B R202
  | cvt (px : Pfx) (d a : BitVec 8) (t s : BitVec 4)  -- CVT R203
  | ddx (px : Pfx) (d a : BitVec 8)  -- DDX R205
  | ddy (px : Pfx) (d a : BitVec 8)  -- DDY R205
  | shfl (px : Pfx) (d a b : BitVec 8)  -- SHFL R211
  | shflUp (px : Pfx) (d a n : BitVec 8)  -- SHFL_UP R211
  | shflDown (px : Pfx) (d a n : BitVec 8)  -- SHFL_DOWN R211
  | shflXor (px : Pfx) (d a n : BitVec 8)  -- SHFL_XOR R211
  | bcast (px : Pfx) (d a n : BitVec 8)  -- BCAST R211
  | vany (px : Pfx) (d a : BitVec 8)  -- VANY R212
  | vall (px : Pfx) (d a : BitVec 8)  -- VALL R212
  | ballot (px : Pfx) (m : BitVec 3) (a : BitVec 8)  -- BALLOT R212
  | redadd (px : Pfx) (d a : BitVec 8)  -- REDADD R213
  | redfadd (px : Pfx) (d a : BitVec 8)  -- REDFADD R214
  | redmin (px : Pfx) (d a : BitVec 8)  -- REDMIN R213
  | redmax (px : Pfx) (d a : BitVec 8)  -- REDMAX R213
  | redminIdx (px : Pfx) (d a b : BitVec 8)  -- REDMIN_IDX R215
  | redmaxIdx (px : Pfx) (d a b : BitVec 8)  -- REDMAX_IDX R215
  | scanadd (px : Pfx) (d a : BitVec 8)  -- SCANADD R216
  | mcount (px : Pfx) (d : BitVec 8) (m : BitVec 3)  -- MCOUNT R216
  | regroup (px : Pfx) (d a b : BitVec 8)  -- REGROUP R217
  | ldB8 (px : Pfx) (d x : BitVec 8) (b f : BitVec 4)  -- LD_B8 R228
  | ldB16 (px : Pfx) (d x : BitVec 8) (b f : BitVec 4)  -- LD_B16 R228
  | ldB32 (px : Pfx) (d x : BitVec 8) (b f : BitVec 4)  -- LD_B32 R228
  | ldB64 (px : Pfx) (d x : BitVec 8) (b f : BitVec 4)  -- LD_B64 R228
  | ldB128 (px : Pfx) (d x : BitVec 8) (b f : BitVec 4)  -- LD_B128 R228
  | stB8 (px : Pfx) (s x : BitVec 8) (b f : BitVec 4)  -- ST_B8 R229
  | stB16 (px : Pfx) (s x : BitVec 8) (b f : BitVec 4)  -- ST_B16 R229
  | stB32 (px : Pfx) (s x : BitVec 8) (b f : BitVec 4)  -- ST_B32 R229
  | stB64 (px : Pfx) (s x : BitVec 8) (b f : BitVec 4)  -- ST_B64 R229
  | stB128 (px : Pfx) (s x : BitVec 8) (b f : BitVec 4)  -- ST_B128 R229
  | pf (px : Pfx) (x : BitVec 8) (b f : BitVec 4)  -- PF R230
  | atomB32 (px : Pfx) (d x : BitVec 8) (b p : BitVec 4)  -- ATOM_B32 R232
  | atomB64 (px : Pfx) (d x : BitVec 8) (b p : BitVec 4)  -- ATOM_B64 R232
  | atomCasB32 (px : Pfx) (d x : BitVec 8) (b f : BitVec 4)  -- ATOM_CAS_B32 R233
  | atomCasB64 (px : Pfx) (d x : BitVec 8) (b f : BitVec 4)  -- ATOM_CAS_B64 R233
  | atomCas128 (px : Pfx) (d x : BitVec 8) (b f : BitVec 4)  -- ATOM_CAS128 R233
  | redB32 (px : Pfx) (s x : BitVec 8) (b p : BitVec 4)  -- RED_B32 R234
  | redB64 (px : Pfx) (s x : BitVec 8) (b p : BitVec 4)  -- RED_B64 R234
  | redF (px : Pfx) (s x : BitVec 8) (b : BitVec 4) (t p : BitVec 2)  -- RED_F R235
  | redFFtz (px : Pfx) (s x : BitVec 8) (b : BitVec 4) (t p : BitVec 2)  -- RED_F_FTZ R235
  | redFPair (px : Pfx) (s x : BitVec 8) (b : BitVec 4) (t : BitVec 1)  -- RED_F_PAIR R237
  | rsvinit (px : Pfx) (d : BitVec 8)  -- RSVINIT R345
  | rsvupd (px : Pfx) (d a b : BitVec 8)  -- RSVUPD R347
  | rsvmrg (px : Pfx) (d a b : BitVec 8)  -- RSVMRG R348
  | rsvnrm (px : Pfx) (d : BitVec 8)  -- RSVNRM R349
  | rsvld (px : Pfx) (d x : BitVec 8) (b f : BitVec 4)  -- RSVLD R346
  | rsvst (px : Pfx) (s x : BitVec 8) (b f : BitVec 4)  -- RSVST R346
  | trace (px : Pfx) (d a b : BitVec 8)  -- TRACE R332
  | traceocc (px : Pfx) (d a b : BitVec 8)  -- TRACEOCC R333
  | trres (px : Pfx) (d a b : BitVec 8)  -- TRRES R334
  | ltwalk (px : Pfx) (d a b : BitVec 8)  -- LTWALK R337
  | rng (px : Pfx) (d a b : BitVec 8)  -- RNG R344
  | osenter (px : Pfx) (a b : BitVec 8)  -- OSENTER R279
  | osenterAny (px : Pfx) (m : BitVec 3) (a b : BitVec 8)  -- OSENTER_ANY R279
  | osleave (px : Pfx) (a b : BitVec 8)  -- OSLEAVE R279
  | emit (px : Pfx) (s x : BitVec 8) (b f : BitVec 4)  -- EMIT R287
  | sadd (px : Pfx) (d a b : BitVec 6) (x : BitVec 1)  -- SADD R241
  | ssub (px : Pfx) (d a b : BitVec 6) (x : BitVec 1)  -- SSUB R241
  | smul (px : Pfx) (d a b : BitVec 6) (x : BitVec 1)  -- SMUL R241
  | smulh (px : Pfx) (d a b : BitVec 6) (n : BitVec 1)  -- SMULH R241
  | sand (px : Pfx) (d a b : BitVec 6) (x : BitVec 1)  -- SAND R241
  | sor (px : Pfx) (d a b : BitVec 6) (x : BitVec 1)  -- SOR R241
  | sxor (px : Pfx) (d a b : BitVec 6) (x : BitVec 1)  -- SXOR R241
  | sshl (px : Pfx) (d a b : BitVec 6) (x : BitVec 1)  -- SSHL R241
  | sshr (px : Pfx) (d a b : BitVec 6) (x : BitVec 1)  -- SSHR R241
  | ssra (px : Pfx) (d a b : BitVec 6) (x : BitVec 1)  -- SSRA R241
  | smin (px : Pfx) (d a b : BitVec 6) (n x : BitVec 1)  -- SMIN R241
  | smax (px : Pfx) (d a b : BitVec 6) (n x : BitVec 1)  -- SMAX R241
  | scmp (px : Pfx) (d a b : BitVec 6) (x : BitVec 1) (c : BitVec 4)  -- SCMP R242
  | ssel (px : Pfx) (d a b c : BitVec 6)  -- SSEL R242
  | smov (px : Pfx) (d a : BitVec 6) (x : BitVec 1)  -- SMOV R241
  | sli (px : Pfx) (d : BitVec 6) (i : BitVec 18)  -- SLI R242
  | slih (px : Pfx) (d : BitVec 6) (i : BitVec 18)  -- SLIH R242
  | spopc (px : Pfx) (d a : BitVec 6)  -- SPOPC R242
  | sclz (px : Pfx) (d a : BitVec 6)  -- SCLZ R242
  | sbfe (px : Pfx) (d a b : BitVec 6) (s : BitVec 1)  -- SBFE R242
  | sfadd (px : Pfx) (d a b : BitVec 6)  -- SFADD R243
  | sfmul (px : Pfx) (d a b : BitVec 6)  -- SFMUL R243
  | sffma (px : Pfx) (d a b : BitVec 6)  -- SFFMA R243
  | sfmin (px : Pfx) (d a b : BitVec 6)  -- SFMIN R243
  | sfmax (px : Pfx) (d a b : BitVec 6)  -- SFMAX R243
  | sfcmp (px : Pfx) (d a b : BitVec 6) (c : BitVec 4)  -- SFCMP R243
  | sfrcp (px : Pfx) (d a : BitVec 6)  -- SFRCP R243
  | sfsqrt (px : Pfx) (d a : BitVec 6)  -- SFSQRT R243
  | sfcvt (px : Pfx) (d a : BitVec 6) (t s : BitVec 4)  -- SFCVT R244
  | sld (d a : BitVec 6) (z : BitVec 3) (f : BitVec 9)  -- SLD R246
  | sst (s a : BitVec 6) (z : BitVec 3) (f : BitVec 9)  -- SST R246
  | satom (d a : BitVec 6) (z : BitVec 1) (p : BitVec 4)  -- SATOM R246
  | recld (b : BitVec 4) (a : BitVec 6) (f : BitVec 9)  -- RECLD R247
  | recst (b : BitVec 4) (a : BitVec 6) (f : BitVec 9)  -- RECST R247
  | br (d : BitVec 21)  -- BR R248
  | brw (a : BitVec 6) (c : BitVec 4) (d : BitVec 14)  -- BRW R248
  | brany (m : BitVec 3) (d : BitVec 21)  -- BRANY R248
  | brall (m : BitVec 3) (d : BitVec 21)  -- BRALL R248
  | brnone (m : BitVec 3) (d : BitVec 21)  -- BRNONE R248
  | callU (d : BitVec 21)  -- CALL R249
  | ret (px : Pfx) (a : BitVec 6)  -- RET R249
  | jmpw (px : Pfx) (a b : BitVec 6)  -- JMPW R249
  | loopW (a : BitVec 6) (d : BitVec 14)  -- LOOP R250
  | exitL (px : Pfx)  -- EXIT R251
  | yield (px : Pfx)  -- YIELD R252
  | sleep (px : Pfx) (n : BitVec 18)  -- SLEEP R252
  | nop (px : Pfx)  -- NOP R252
  | trapU (px : Pfx) (n : BitVec 16)  -- TRAP R252
  | mand (px : Pfx) (d a b : BitVec 3)  -- MAND R253
  | mor (px : Pfx) (d a b : BitVec 3)  -- MOR R253
  | mxor (px : Pfx) (d a b : BitVec 3)  -- MXOR R253
  | mandn (px : Pfx) (d a b : BitVec 3)  -- MANDN R253
  | mnot (px : Pfx) (d a : BitVec 3)  -- MNOT R253
  | mmov (px : Pfx) (d a : BitVec 3)  -- MMOV R253
  | mtow (px : Pfx) (d : BitVec 6) (a : BitVec 3)  -- MTOW R253
  | wtom (px : Pfx) (d : BitVec 3) (a : BitVec 6)  -- WTOM R253
  | mpopc (px : Pfx) (d : BitVec 6) (a : BitVec 3)  -- MPOPC R253
  | mffs (px : Pfx) (d : BitVec 6) (a : BitVec 3)  -- MFFS R253
  | srd (px : Pfx) (d : BitVec 6) (n : BitVec 8)  -- SRD R254
  | swr (px : Pfx) (s : BitVec 6) (n : BitVec 8)  -- SWR R254
  | rfe (px : Pfx)  -- RFE R255
  | tlbinv (px : Pfx) (a b : BitVec 6) (s : BitVec 1) (k : BitVec 2)  -- TLBINV R257
  | frpop (px : Pfx) (d a : BitVec 6)  -- FRPOP R258
  | cflush (px : Pfx) (a b : BitVec 6) (k : BitVec 2)  -- CFLUSH R259
  | ubres (px : Pfx) (d a b : BitVec 6)  -- UBRES R260
  | ubdisc (px : Pfx) (a b : BitVec 6) (s : BitVec 1) (n : BitVec 4)  -- UBDISC R261
  | ubmig (px : Pfx) (d a b : BitVec 6) (n : BitVec 4)  -- UBMIG R262
  | roleget (px : Pfx) (d : BitVec 6) (r : BitVec 4)  -- ROLEGET R263
  | fence (px : Pfx) (i : BitVec 1) (s : BitVec 3)  -- FENCE R268
  | acq (px : Pfx) (d a : BitVec 6) (s : BitVec 3)  -- ACQ R270
  | rel (px : Pfx) (a b : BitVec 6) (x : BitVec 1) (s : BitVec 3)  -- REL R269
  | bind (px : Pfx) (d a b k : BitVec 6)  -- BIND R271
  | unbind (px : Pfx) (d a b k : BitVec 6)  -- UNBIND R271
  | bar (px : Pfx) (i : BitVec 1) (l : BitVec 2)  -- BAR R272
  | tbarArrive (px : Pfx) (d a b : BitVec 6) (s : BitVec 3)  -- TBAR_ARRIVE R276
  | tbarExpect (px : Pfx) (a b : BitVec 6)  -- TBAR_EXPECT R276
  | tbarWait (px : Pfx) (d a b : BitVec 6)  -- TBAR_WAIT R276
  | waitc (px : Pfx) (d a b : BitVec 6) (x : BitVec 1) (c : BitVec 4)  -- WAITC R277
  | leaseW (px : Pfx) (a : BitVec 6)  -- LEASE R280
  | ipf (px : Pfx) (a b : BitVec 6)  -- IPF R281
  | cqput (px : Pfx) (d a : BitVec 6) (r : BitVec 4)  -- CQPUT R282
  | cseal (px : Pfx) (d : BitVec 6)  -- CSEAL R283
  | cwait (px : Pfx) (d a : BitVec 6)  -- CWAIT R283
  | ringawait (px : Pfx) (d a : BitVec 6)  -- RINGAWAIT R284
  | ringrel (px : Pfx) (a b : BitVec 6)  -- RINGREL R285
  | ringpeek (px : Pfx) (d a : BitVec 6)  -- RINGPEEK R286
  | halox (px : Pfx) (d a : BitVec 6) (r : BitVec 4)  -- HALOX R282
  | twl (px : Pfx) (d a : BitVec 6)  -- TWL R288
  | twlwait (px : Pfx) (d a : BitVec 6)  -- TWLWAIT R288
  | malloc (px : Pfx) (d a : BitVec 6)  -- MALLOC R304
  | mfree (px : Pfx) (a : BitVec 6)  -- MFREE R305
  | mz (px : Pfx) (n : BitVec 3)  -- MZ R305
  | mma (px : Pfx) (d a b : BitVec 6)  -- MMA R306
  | mmaGath (px : Pfx) (d a : BitVec 6) (g : BitVec 5)  -- MMA_GATH R307
  | mmaImg (px : Pfx) (d a b : BitVec 6)  -- MMA_IMG R308
  | mdrain (px : Pfx) (a b : BitVec 6) (k : BitVec 2) (n : BitVec 3)  -- MDRAIN R309
  | mdrainFrz (px : Pfx) (d a : BitVec 6) (t : BitVec 3)  -- MDRAIN_FRZ R313
  | mdrainFrzq (px : Pfx) (d a b : BitVec 6)  -- MDRAIN_FRZQ R313
  | mload (px : Pfx) (a b : BitVec 6) (k : BitVec 2) (n : BitVec 3)  -- MLOAD R309
  | mloadFrz (px : Pfx) (d a b : BitVec 6) (t : BitVec 3)  -- MLOAD_FRZ R313
  | mloadFrzq (px : Pfx) (d a b : BitVec 6)  -- MLOAD_FRZQ R313
  | msync (px : Pfx) (d : BitVec 6)  -- MSYNC R311
  | moduleReset  -- MODULE_RESET R461
  | ucieTrainingDone (near far : List Nat)  -- UCIE_TRAINING_DONE R13
  | dieAuthenticationDone (failC failO : BitVec 4) (failCache : Bool)  -- DIE_AUTHENTICATION_DONE R463
  | memoryTrainingDone (fail : BitVec 4)  -- MEMORY_TRAINING_DONE R21
  | bootgoWrite  -- BOOTGO_WRITE R461
  | imageVerificationDone  -- IMAGE_VERIFICATION_DONE R462
  | configRegisterWrite (r : CReg) (v : BitVec 64)  -- CONFIG_REGISTER_WRITE R4
  | vdmapWrite (v : BitVec 32)  -- VDMAP_WRITE R9
  | ucieFlitCrcFail (link : BitVec 4) (again : Bool) (ctx : BitVec 12)  -- UCIE_FLIT_CRC_FAIL R12
  | gddr7ReadComplete (die : Die) (off : BitVec 37) (out : MemOutcome) (ctx : BitVec 12)  -- GDDR7_READ_COMPLETE R22
  | gddr7WriteComplete (die : Die) (off : BitVec 37) (out : MemOutcome) (ctx : BitVec 12)  -- GDDR7_WRITE_COMPLETE R23
  | memerrWrite (die : Die) (v : BitVec 64)  -- MEMERR_WRITE R25
  | fwctlWrite (die : Die) (n : BitVec 4) (v : BitVec 32)  -- FWCTL_WRITE R29
  | fwctlEnableComplete (die : Die) (n : BitVec 4)  -- FWCTL_ENABLE_COMPLETE R29
  | fwBoundsWrite (r : FwBound) (die : Die) (n : BitVec 4) (v : BitVec 64)  -- FW_BOUNDS_WRITE R29
  | l2FillUnpinResume (slice : BitVec 4) (set : BitVec 15)  -- L2_FILL_UNPIN_RESUME R73
  | homeRead (id : Nat)  -- HOME_READ R363
  | homeWrite (id : Nat)  -- HOME_WRITE R363
  | homeAtomic (id : Nat)  -- HOME_ATOMIC R85
  | homeReduction (id : Nat)  -- HOME_REDUCTION R82
  | walkComplete (n : Nat)  -- WALK_COMPLETE R42
  | trbaseWrite (s : Slot) (v : BitVec 64)  -- TRBASE_WRITE R40
  | invalidationRoundReceive (round : Nat) (agent : Agent)  -- INVALIDATION_ROUND_RECEIVE R47
  | roundAgentAcknowledge (round : Nat) (agent : Agent)  -- ROUND_AGENT_ACKNOWLEDGE R47
  | roundAckReceive (round : Nat) (agent : Agent)  -- ROUND_ACK_RECEIVE R48
  | sweeperExamine (die : Die)  -- SWEEPER_EXAMINE R54
  | swctlWrite (die : Die) (v : BitVec 64)  -- SWCTL_WRITE R53
  | readyQueueRegisterWrite (ptr : Bool) (die : Die) (v : BitVec 64)  -- READY_QUEUE_REGISTER_WRITE R53
  | ubpartWrite (die : Die) (v : BitVec 32)  -- UBPART_WRITE R60
  | ubpartResizeComplete (die : Die)  -- UBPART_RESIZE_COMPLETE R60
  | ubrsvWrite (die : Die) (s : Slot) (v : BitVec 32)  -- UBRSV_WRITE R60
  | lateFrameAssignment (die : Die) (ctx : BitVec 12) (vpn : BitVec 41)  -- LATE_FRAME_ASSIGNMENT R63
  | ubstatWrite (die : Die) (v : BitVec 32)  -- UBSTAT_WRITE R65
  | monitorArm (id : Nat)  -- MONITOR_ARM R78
  | monitorWakeDelivery (n : Nat)  -- MONITOR_WAKE_DELIVERY R79
  | monitorRearm (who : Who)  -- MONITOR_REARM R80
  | monitorCancel (who : Who)  -- MONITOR_CANCEL R81
  | waitcTimeout (who : Who)  -- WAITC_TIMEOUT R277
  | keyTableRequest (n : Nat)  -- KEY_TABLE_REQUEST R422
  | keyTableLeave (n : Nat)  -- KEY_TABLE_LEAVE R423
  | keyTableWithdraw (n : Nat)  -- KEY_TABLE_WITHDRAW R426
  | sectionGrantDelivery (n : Nat)  -- SECTION_GRANT_DELIVERY R422
  | keyRequestRetry (n : Nat)  -- KEY_REQUEST_RETRY R421
  | keyEntryStall (ctx : BitVec 12) (key : BitVec 64)  -- KEY_ENTRY_STALL R425
  | osctlWrite (s : Slot) (v : BitVec 64)  -- OSCTL_WRITE R420
  | vaultAccess (id : Nat) (out : VaultOutcome)  -- VAULT_ACCESS R88
  | vaultAllocationWrite (die : Die) (q : Quad) (n : BitVec 5) (v : BitVec 32)  -- VAULT_ALLOCATION_WRITE R90
  | instructionLineArrival (who : Who)  -- INSTRUCTION_LINE_ARRIVAL R100
  | deferredResultArrival (id : Nat)  -- DEFERRED_RESULT_ARRIVAL R123
  | cqctlWrite (die : Die) (n : BitVec 6) (v : BitVec 32)  -- CQCTL_WRITE R108
  | cqDisableComplete (die : Die) (n : BitVec 6)  -- CQ_DISABLE_COMPLETE R108
  | copyEntryTake (die : Die) (n : BitVec 6)  -- COPY_ENTRY_TAKE R107
  | copyPacketStart (die : Die) (ch : BitVec 4)  -- COPY_PACKET_START R119
  | copySegment (die : Die) (ch : BitVec 4) (seg : Nat)  -- COPY_SEGMENT R117
  | fixupAnswer (die : Die) (q : Quad) (n : Nat)  -- FIXUP_ANSWER R436
  | copyFixupReplay (die : Die) (ch : BitVec 4)  -- COPY_FIXUP_REPLAY R118
  | copymmaCommandIssue (die : Die) (ch : BitVec 4)  -- COPYMMA_COMMAND_ISSUE R112
  | copyPacketComplete (die : Die) (ch : BitVec 4)  -- COPY_PACKET_COMPLETE R114
  | matrixCommandEnter (who : Who)  -- MATRIX_COMMAND_ENTER R301
  | matrixFetchSegment (die : Die) (q : Quad) (entry seg : Nat)  -- MATRIX_FETCH_SEGMENT R298
  | matrixEntryApply (die : Die) (q : Quad)  -- MATRIX_ENTRY_APPLY R300
  | matrixEntryAged (die : Die) (q : Quad) (entry : Nat)  -- MATRIX_ENTRY_AGED R300
  | raytabWrite (s : Slot) (v : BitVec 64)  -- RAYTAB_WRITE R318
  | rayLaneComplete (id : Nat) (lane : BitVec 5)  -- RAY_LANE_COMPLETE R332
  | lightWalkLaneComplete (id : Nat) (lane : BitVec 5)  -- LIGHT_WALK_LANE_COMPLETE R337
  | twillOperationStart (die : Die) (q : Quad) (n : Nat)  -- TWILL_OPERATION_START R353
  | twillPixel (die : Die) (q : Quad) (n : Nat)  -- TWILL_PIXEL R354
  | twillCallableBatch (die : Die) (q : Quad) (n : Nat)  -- TWILL_CALLABLE_BATCH R356
  | twillOperationComplete (die : Die) (q : Quad) (n : Nat)  -- TWILL_OPERATION_COMPLETE R288
  | tbarUpdate (id : Nat)  -- TBAR_UPDATE R275
  | tbarVaultPoll (who : Who)  -- TBAR_VAULT_POLL R276
  | lqctlWrite (n : BitVec 6) (v : BitVec 32)  -- LQCTL_WRITE R390
  | launchEntryTake (n : BitVec 6)  -- LAUNCH_ENTRY_TAKE R393
  | headPublish (die : Die)  -- HEAD_PUBLISH R394
  | gangPlacement (die : Die) (q : Quad)  -- GANG_PLACEMENT R395
  | coResidentPlacement (ticket : BitVec 64)  -- CO_RESIDENT_PLACEMENT R396
  | gangRetirement (ctx : BitVec 12) (gang : BitVec 24)  -- GANG_RETIREMENT R387
  | launchCompletion (ticket : BitVec 64)  -- LAUNCH_COMPLETION R398
  | jouleCharge (n : Nat)  -- JOULE_CHARGE R402
  | budgetRefill (n : BitVec 6)  -- BUDGET_REFILL R403
  | nodeTimerExpiry (ticket : BitVec 64) (node : BitVec 12)  -- NODE_TIMER_EXPIRY R401
  | epochEnd (c : CoreId)  -- EPOCH_END R406
  | strandAdmission (c : CoreId)  -- STRAND_ADMISSION R408
  | forcedRotation (c : CoreId)  -- FORCED_ROTATION R410
  | sleepExpiry (who : Who)  -- SLEEP_EXPIRY R252
  | ctxFreeze  -- CTX_FREEZE R439
  | ctxThaw  -- CTX_THAW R439
  | ctxSwapOut  -- CTX_SWAP_OUT R439
  | ctxSwapIn  -- CTX_SWAP_IN R439
  | ctxSave  -- CTX_SAVE R439
  | ctxRestore  -- CTX_RESTORE R439
  | ctxKill  -- CTX_KILL R439
  | ctxCommandDone  -- CTX_COMMAND_DONE R438
  | zotanFlitCrcFail (port : BitVec 4) (again : Bool)  -- ZOTAN_FLIT_CRC_FAIL R445
  | zotanPortDown (port : BitVec 4)  -- ZOTAN_PORT_DOWN R445
  | routeRecompute (dst : BitVec 9)  -- ROUTE_RECOMPUTE R449
  | zotanReadRequest (h : BitVec 256) (payload : List Byte)  -- ZOTAN_READ_REQUEST R450
  | zotanPostedWrite (h : BitVec 256) (payload : List Byte)  -- ZOTAN_POSTED_WRITE R450
  | zotanPostedReduction (h : BitVec 256) (payload : List Byte)  -- ZOTAN_POSTED_REDUCTION R447
  | zotanAtomic (h : BitVec 256) (payload : List Byte)  -- ZOTAN_ATOMIC R447
  | zotanReadReply (h : BitVec 256) (payload : List Byte)  -- ZOTAN_READ_REPLY R450
  | zotanWriteAck (h : BitVec 256) (payload : List Byte)  -- ZOTAN_WRITE_ACK R452
  | zotanFaultReply (h : BitVec 256) (payload : List Byte)  -- ZOTAN_FAULT_REPLY R453
  | zotanInvalidationRound (h : BitVec 256) (payload : List Byte)  -- ZOTAN_INVALIDATION_ROUND R455
  | zotanRoundAck (h : BitVec 256) (payload : List Byte)  -- ZOTAN_ROUND_ACK R455
  | zotanDownDeclaration (h : BitVec 256) (payload : List Byte)  -- ZOTAN_DOWN_DECLARATION R454
  | zotanMonitorArm (h : BitVec 256) (payload : List Byte)  -- ZOTAN_MONITOR_ARM R452
  | zotanMonitorWake (h : BitVec 256) (payload : List Byte)  -- ZOTAN_MONITOR_WAKE R452
  | zotanMonitorCancel (h : BitVec 256) (payload : List Byte)  -- ZOTAN_MONITOR_CANCEL R452
  | zotanRequestTimeout (tag : BitVec 16)  -- ZOTAN_REQUEST_TIMEOUT R454
  | zpkgWrite (v : BitVec 32)  -- ZPKG_WRITE R448
  | hostRead (dpa : BitVec 64) (n : Nat)  -- HOST_READ R457
  | hostWrite (dpa : BitVec 64) (data : List Byte)  -- HOST_WRITE R457
  | hostAtomic (dpa : BitVec 64) (wide : Bool) (op : BitVec 4) (x : BitVec 64)  -- HOST_ATOMIC R457
  | uinvaWrite (v : BitVec 64)  -- UINVA_WRITE R459
  | nonceWrite (nonce : List Byte)  -- NONCE_WRITE R465
  | dierstWrite (v : BitVec 32)  -- DIERST_WRITE R466
  | dieResetRetrainDone (r : Bool × List Nat)  -- DIE_RESET_RETRAIN_DONE R466
  | pwrctlWrite (v : BitVec 32)  -- PWRCTL_WRITE R467
  | clockSwitch  -- CLOCK_SWITCH R467
  | thermalTrip (die : Die) (temp : BitVec 9)  -- THERMAL_TRIP R468
  | fieldRecordFlashCopy  -- FIELD_RECORD_FLASH_COPY R469
  | fieldRecordSample (temps : List (BitVec 9)) (amps : Nat)  -- FIELD_RECORD_SAMPLE R469
  | illegalInstructionWord  -- ILLEGAL_INSTRUCTION_WORD R148
  | zotanPortUp (port : BitVec 4)  -- ZOTAN_PORT_UP R449
  | zotanReservedPacket (h : BitVec 256) (payload : List Byte)  -- ZOTAN_RESERVED_PACKET R446
  | modulePowerLoss  -- MODULE_POWER_LOSS R469
  deriving DecidableEq, Repr

end Sys2Proof
end

