-- ==== Sys2Proof/WellFormed.lean ====
section
/-! DEFINITION. Which instruction sequences are legal: the form, the register fields and the prefix options of every
instruction (R137 to R146, and the encoding tables of the instruction chapters), and the checks of R141 to R145 made from
them. An instruction that is not well formed takes the illegal-instruction trap at step 1 of R148. -/

namespace Sys2Proof

/-- The word forms (R137, R138). `event` marks a row that is no instruction word. -/
inductive Form where
  | la | lb | lm | ua | ui | ub | uc | um | event
  deriving DecidableEq, Repr

/-- What a register field names. -/
inductive RegClass where
  | none | v | w | mask
  deriving DecidableEq, Repr

/-- The use an instruction makes of a register field: class, first register, registers in the group, read, written. -/
structure Fld where
  cls : RegClass
  reg : Nat
  size : Nat
  rd : Bool
  wr : Bool
  deriving DecidableEq, Repr

/-- A field that names no register. -/
def Fld.none : Fld := ⟨.none, 0, 0, false, false⟩

/-- A v group that is read. -/
def vR (r : BitVec 8) (n : Nat) : Fld := ⟨.v, r.toNat, n, true, false⟩
/-- A v group that is written. -/
def vW (r : BitVec 8) (n : Nat) : Fld := ⟨.v, r.toNat, n, false, true⟩
/-- A v group that is read and written (the third source of R139). -/
def vM (r : BitVec 8) (n : Nat) : Fld := ⟨.v, r.toNat, n, true, true⟩
/-- A w group that is read. -/
def wR (r : BitVec 6) (n : Nat) : Fld := ⟨.w, r.toNat, n, true, false⟩
/-- A w group that is written. -/
def wW (r : BitVec 6) (n : Nat) : Fld := ⟨.w, r.toNat, n, false, true⟩
/-- A w group that is read and written. -/
def wM (r : BitVec 6) (n : Nat) : Fld := ⟨.w, r.toNat, n, true, true⟩
/-- A mask that is written. -/
def mW (r : BitVec 3) : Fld := ⟨.mask, r.toNat, 1, false, true⟩

/-- The static facts of an instruction: its form, the uses of its fields [23:16] or [23:18] (`d`), [15:8] or [17:12] (`a`),
[7:0] or [11:6] (`b`) and of a further group (`x`), the prefix options it accepts, and whether its own field values are
defined (`legal`). -/
structure OpInfo where
  form : Form
  d : Fld := Fld.none
  a : Fld := Fld.none
  b : Fld := Fld.none
  x : Fld := Fld.none
  /-- The group `x` starts at a multiple of its size (R139); the payload of `regroup` need not. -/
  xAlign : Bool := true
  lit : Bool := false
  /-- The field a literal replaces holds zero (forms LB and UI; LA and UA are read from `b`). -/
  litZero : Bool := true
  sat : Bool := false
  rmo : Bool := false
  uaOk : Bool := false
  ubOk : Bool := false
  rptOk : Bool := true
  /-- Under `rpt`, SB may add to the element offset of form LM (R225). -/
  offRpt : Bool := true
  /-- `sel` must be preceded by an `ext` with PRED (R189). -/
  needPred : Bool := false
  deferred : Bool := false
  privileged : Bool := false
  matrix : Bool := false
  legal : Bool := true
  deriving DecidableEq, Repr

/-- A row that is no instruction word. -/
def OpInfo.event : OpInfo := { form := .event }

/-- Form LA with destination and two sources. -/
def la3 (d a b : BitVec 8) : OpInfo :=
  { form := .la, d := vW d 1, a := vR a 1, b := vR b 1, uaOk := true, ubOk := true }
/-- Form LA whose third source is vd. -/
def la3m (d a b : BitVec 8) : OpInfo := { la3 d a b with d := vM d 1 }
/-- Form LA with destination and one source. -/
def la2 (d a : BitVec 8) : OpInfo := { form := .la, d := vW d 1, a := vR a 1, uaOk := true }
/-- Form LB with destination, one source and an immediate. -/
def lb2 (d a : BitVec 8) : OpInfo := { la2 d a with form := .lb }
/-- Form LB with a destination alone. -/
def lb0 (d : BitVec 8) : OpInfo := { form := .lb, d := vW d 1 }
/-- Form LM: the index register is the only v source besides the data group. -/
def lm (x : BitVec 8) : OpInfo := { form := .lm, a := vR x 1, uaOk := true }
/-- Form UA with no register. -/
def ua0 : OpInfo := { form := .ua }
/-- Form UA with destination and one source. -/
def ua2 (d a : BitVec 6) : OpInfo := { form := .ua, d := wW d 1, a := wR a 1 }
/-- Form UA with destination and two sources. -/
def ua3 (d a b : BitVec 6) : OpInfo := { ua2 d a with b := wR b 1 }
/-- Form UA with the `.d` bit: pairs when it is set. -/
def uaX (x : BitVec 1) (d a b : BitVec 6) : OpInfo :=
  let n := if x == 1 then 2 else 1
  { form := .ua, d := wW d n, a := wR a n, b := wR b n }
/-- Form UI. -/
def ui : OpInfo := { form := .ui }
/-- Form UB. -/
def ubr : OpInfo := { form := .ub }
/-- Form UM: the base address pair. -/
def um (a : BitVec 6) : OpInfo := { form := .um, a := wR a 2 }

/-- The registers a format takes (R140, R203): two for .f64, .i64 and .n64. -/
def fmtRegs (f : BitVec 4) : Nat := if f == 1 || f == 13 || f == 14 then 2 else 1
/-- The w registers of a UM size code (R139). -/
def umRegs (z : BitVec 3) : Nat := if z == 3 then 2 else if z == 4 then 4 else 1
/-- The w registers of a system register number: two for a 64-bit register (R128, Table 2). -/
def srRegs (n : BitVec 8) : Nat :=
  if n.toNat ∈ [0x02, 0x05, 0x0D, 0x0E, 0x15, 0x16, 0x17, 0x18, 0x19] then 2 else 1

/-- The system registers with a field of access P (R129, Table 3): the privilege trap in user mode (R5, R254, R256). -/
def srPrivileged (n : BitVec 8) : Bool :=
  decide (n.toNat ∈ [0x01, 0x02, 0x03, 0x04, 0x05, 0x06, 0x0C, 0x0D, 0x0E, 0x16, 0x17, 0x18, 0x19])

/-- The `ext` prefix of a sequence, with every field zero where there is none. -/
def Pfx.extD (p : Pfx) : Ext := p.ext.getD ⟨0, false, false, false, false, false, false, 0, false⟩
/-- The saturating form is asked for (R142). -/
def Pfx.sat (p : Pfx) : Bool := p.extD.sat

/-- The static facts of every instruction, from the opcode maps (R146, R147) and the encoding tables of the instruction
chapters (R179, R194, R210, R225, R240, R266, R303, R330, R341). -/
def opInfo : Instr → OpInfo
  | .moduleReset => OpInfo.event
  | .ucieTrainingDone _ _ => OpInfo.event
  | .dieAuthenticationDone _ _ _ => OpInfo.event
  | .memoryTrainingDone _ => OpInfo.event
  | .bootgoWrite => OpInfo.event
  | .imageVerificationDone => OpInfo.event
  | .configRegisterWrite _ _ => OpInfo.event
  | .vdmapWrite _ => OpInfo.event
  | .ucieFlitCrcFail _ _ _ => OpInfo.event
  | .gddr7ReadComplete _ _ _ _ => OpInfo.event
  | .gddr7WriteComplete _ _ _ _ => OpInfo.event
  | .memerrWrite _ _ => OpInfo.event
  | .fwctlWrite _ _ _ => OpInfo.event
  | .fwctlEnableComplete _ _ => OpInfo.event
  | .fwBoundsWrite _ _ _ _ => OpInfo.event
  | .l2FillUnpinResume _ _ => OpInfo.event
  | .homeRead _ => OpInfo.event
  | .homeWrite _ => OpInfo.event
  | .homeAtomic _ => OpInfo.event
  | .homeReduction _ => OpInfo.event
  | .walkComplete _ => OpInfo.event
  | .trbaseWrite _ _ => OpInfo.event
  | .invalidationRoundReceive _ _ => OpInfo.event
  | .roundAgentAcknowledge _ _ => OpInfo.event
  | .roundAckReceive _ _ => OpInfo.event
  | .sweeperExamine _ => OpInfo.event
  | .swctlWrite _ _ => OpInfo.event
  | .readyQueueRegisterWrite _ _ _ => OpInfo.event
  | .ubpartWrite _ _ => OpInfo.event
  | .ubpartResizeComplete _ => OpInfo.event
  | .ubrsvWrite _ _ _ => OpInfo.event
  | .lateFrameAssignment _ _ _ => OpInfo.event
  | .ubstatWrite _ _ => OpInfo.event
  | .monitorArm _ => OpInfo.event
  | .monitorWakeDelivery _ => OpInfo.event
  | .monitorRearm _ => OpInfo.event
  | .monitorCancel _ => OpInfo.event
  | .waitcTimeout _ => OpInfo.event
  | .keyTableRequest _ => OpInfo.event
  | .keyTableLeave _ => OpInfo.event
  | .keyTableWithdraw _ => OpInfo.event
  | .sectionGrantDelivery _ => OpInfo.event
  | .keyRequestRetry _ => OpInfo.event
  | .keyEntryStall _ _ => OpInfo.event
  | .osctlWrite _ _ => OpInfo.event
  | .vaultAccess _ _ => OpInfo.event
  | .vaultAllocationWrite _ _ _ _ => OpInfo.event
  | .instructionLineArrival _ => OpInfo.event
  | .deferredResultArrival _ => OpInfo.event
  | .cqctlWrite _ _ _ => OpInfo.event
  | .cqDisableComplete _ _ => OpInfo.event
  | .copyEntryTake _ _ => OpInfo.event
  | .copyPacketStart _ _ => OpInfo.event
  | .copySegment _ _ _ => OpInfo.event
  | .fixupAnswer _ _ _ => OpInfo.event
  | .copyFixupReplay _ _ => OpInfo.event
  | .copymmaCommandIssue _ _ => OpInfo.event
  | .copyPacketComplete _ _ => OpInfo.event
  | .matrixCommandEnter _ => OpInfo.event
  | .matrixFetchSegment _ _ _ _ => OpInfo.event
  | .matrixEntryApply _ _ => OpInfo.event
  | .matrixEntryAged _ _ _ => OpInfo.event
  | .raytabWrite _ _ => OpInfo.event
  | .rayLaneComplete _ _ => OpInfo.event
  | .lightWalkLaneComplete _ _ => OpInfo.event
  | .twillOperationStart _ _ _ => OpInfo.event
  | .twillPixel _ _ _ => OpInfo.event
  | .twillCallableBatch _ _ _ => OpInfo.event
  | .twillOperationComplete _ _ _ => OpInfo.event
  | .tbarUpdate _ => OpInfo.event
  | .tbarVaultPoll _ => OpInfo.event
  | .lqctlWrite _ _ => OpInfo.event
  | .launchEntryTake _ => OpInfo.event
  | .headPublish _ => OpInfo.event
  | .gangPlacement _ _ => OpInfo.event
  | .coResidentPlacement _ => OpInfo.event
  | .gangRetirement _ _ => OpInfo.event
  | .launchCompletion _ => OpInfo.event
  | .jouleCharge _ => OpInfo.event
  | .budgetRefill _ => OpInfo.event
  | .nodeTimerExpiry _ _ => OpInfo.event
  | .epochEnd _ => OpInfo.event
  | .strandAdmission _ => OpInfo.event
  | .forcedRotation _ => OpInfo.event
  | .sleepExpiry _ => OpInfo.event
  | .ctxFreeze => OpInfo.event
  | .ctxThaw => OpInfo.event
  | .ctxSwapOut => OpInfo.event
  | .ctxSwapIn => OpInfo.event
  | .ctxSave => OpInfo.event
  | .ctxRestore => OpInfo.event
  | .ctxKill => OpInfo.event
  | .ctxCommandDone => OpInfo.event
  | .zotanFlitCrcFail _ _ => OpInfo.event
  | .zotanPortDown _ => OpInfo.event
  | .routeRecompute _ => OpInfo.event
  | .zotanReadRequest _ _ => OpInfo.event
  | .zotanPostedWrite _ _ => OpInfo.event
  | .zotanPostedReduction _ _ => OpInfo.event
  | .zotanAtomic _ _ => OpInfo.event
  | .zotanReadReply _ _ => OpInfo.event
  | .zotanWriteAck _ _ => OpInfo.event
  | .zotanFaultReply _ _ => OpInfo.event
  | .zotanInvalidationRound _ _ => OpInfo.event
  | .zotanRoundAck _ _ => OpInfo.event
  | .zotanDownDeclaration _ _ => OpInfo.event
  | .zotanMonitorArm _ _ => OpInfo.event
  | .zotanMonitorWake _ _ => OpInfo.event
  | .zotanMonitorCancel _ _ => OpInfo.event
  | .zotanRequestTimeout _ => OpInfo.event
  | .zpkgWrite _ => OpInfo.event
  | .hostRead _ _ => OpInfo.event
  | .hostWrite _ _ => OpInfo.event
  | .hostAtomic _ _ _ _ => OpInfo.event
  | .uinvaWrite _ => OpInfo.event
  | .nonceWrite _ => OpInfo.event
  | .dierstWrite _ => OpInfo.event
  | .dieResetRetrainDone _ => OpInfo.event
  | .pwrctlWrite _ => OpInfo.event
  | .clockSwitch => OpInfo.event
  | .thermalTrip _ _ => OpInfo.event
  | .fieldRecordFlashCopy => OpInfo.event
  | .fieldRecordSample _ _ => OpInfo.event
  | .iadd _ d a b => { la3 d a b with lit := true, sat := true }
  | .iaddc _ d a b => { la3 d a b with lit := true }
  | .isub _ d a b => { la3 d a b with lit := true, sat := true }
  | .isubb _ d a b => { la3 d a b with lit := true }
  | .imul _ d a b => { la3 d a b with lit := true, sat := true }
  | .imulh _ d a b => { la3 d a b with lit := true }
  | .imulhn _ d a b => { la3 d a b with lit := true }
  | .imad _ d a b => { la3m d a b with lit := true, sat := true }
  | .iabs _ d a => la2 d a
  | .imin _ d a b => { la3 d a b with lit := true }
  | .imax _ d a b => { la3 d a b with lit := true }
  | .iminn _ d a b => { la3 d a b with lit := true }
  | .imaxn _ d a b => { la3 d a b with lit := true }
  | .icmp _ c m a b => { la3 0 a b with d := mW m, lit := true, legal := decide (c.toNat ≤ 9) }
  | .selL _ d a b => { la3 d a b with lit := true, needPred := true }
  | .andL _ d a b => { la3 d a b with lit := true }
  | .orL _ d a b => { la3 d a b with lit := true }
  | .xorL _ d a b => { la3 d a b with lit := true }
  | .andn _ d a b => { la3 d a b with lit := true }
  | .notL _ d a => la2 d a
  | .shl _ d a b => { la3 d a b with lit := true }
  | .shr _ d a b => { la3 d a b with lit := true }
  | .sra _ d a b => { la3 d a b with lit := true }
  | .rotl _ d a b => { la3 d a b with lit := true }
  | .popc _ d a => la2 d a
  | .clz _ d a => la2 d a
  | .ctz _ d a => la2 d a
  | .brev _ d a => la2 d a
  | .bfe _ d a b => { la3 d a b with lit := true }
  | .bfes _ d a b => { la3 d a b with lit := true }
  | .bfi _ d a b => { la3m d a b with lit := true }
  | .mov _ d a => la2 d a
  | .movw _ d a => { la2 d a with d := vW d 2, a := vR a 2 }
  | .movi _ d i => { lb0 d with lit := true, litZero := i == 0 }
  | .lid _ d k => { lb0 d with legal := decide (k.toNat ≤ 2) }
  | .fadd _ d a b => { la3 d a b with lit := true, sat := true, rmo := true }
  | .fsub _ d a b => { la3 d a b with lit := true, sat := true, rmo := true }
  | .fmul _ d a b => { la3 d a b with lit := true, sat := true, rmo := true }
  | .ffma _ d a b => { la3m d a b with lit := true, sat := true, rmo := true }
  | .fmin _ d a b => { la3 d a b with lit := true }
  | .fmax _ d a b => { la3 d a b with lit := true }
  | .fcmp _ c m a b => { la3 0 a b with d := mW m, lit := true, legal := decide (c.toNat ≤ 5) }
  | .fdiv _ d a b => { la3 d a b with lit := true, rmo := true, deferred := true }
  | .frcp _ d a => { la2 d a with rmo := true, deferred := true }
  | .frsq _ d a => { la2 d a with rmo := true, deferred := true }
  | .fsqrt _ d a => { la2 d a with rmo := true, deferred := true }
  | .fexp2 _ d a => { la2 d a with rmo := true, deferred := true }
  | .flog2 _ d a => { la2 d a with rmo := true, deferred := true }
  | .fsinr _ d a => { la2 d a with rmo := true, deferred := true }
  | .fcosr _ d a => { la2 d a with rmo := true, deferred := true }
  | .frnd _ d a => { la2 d a with rmo := true }
  | .ffrac _ d a => { la2 d a with rmo := true }
  | .dadd _ d a b => { la3 d a b with d := vW d 2, a := vR a 2, b := vR b 2, rmo := true, deferred := true }
  | .dmul _ d a b => { la3 d a b with d := vW d 2, a := vR a 2, b := vR b 2, rmo := true, deferred := true }
  | .dfma _ d a b => { la3 d a b with d := vM d 2, a := vR a 2, b := vR b 2, rmo := true, deferred := true }
  | .hadd2 _ d a b => { la3 d a b with lit := true, sat := true, rmo := true }
  | .hmul2 _ d a b => { la3 d a b with lit := true, sat := true, rmo := true }
  | .hfma2 _ d a b => { la3m d a b with lit := true, sat := true, rmo := true }
  | .badd2 _ d a b => { la3 d a b with lit := true, sat := true, rmo := true }
  | .bmul2 _ d a b => { la3 d a b with lit := true, sat := true, rmo := true }
  | .bfma2 _ d a b => { la3m d a b with lit := true, sat := true, rmo := true }
  | .fdot2b _ d a b => { la3m d a b with lit := true, rmo := true }
  | .cvt px d a t s => { lb2 d a with d := { vW d (fmtRegs t) with rd := t == 6 || s == 6 }, a := vR a (fmtRegs s), sat := true, rmo := true, legal := t != 15 && s != 15 && t != s && !(px.sat && t == 6) }
  | .ddx _ d a => { la2 d a with rmo := true }
  | .ddy _ d a => { la2 d a with rmo := true }
  | .shfl _ d a b => la3 d a b
  | .shflUp _ d a n => { lb2 d a with legal := decide (n.toNat ≤ 31) }
  | .shflDown _ d a n => { lb2 d a with legal := decide (n.toNat ≤ 31) }
  | .shflXor _ d a n => { lb2 d a with legal := decide (n.toNat ≤ 31) }
  | .bcast _ d a n => { lb2 d a with legal := decide (n.toNat ≤ 31) }
  | .vany _ d a => la2 d a
  | .vall _ d a => la2 d a
  | .ballot _ m a => { la2 0 a with d := mW m }
  | .redadd _ d a => la2 d a
  | .redfadd _ d a => { la2 d a with rmo := true }
  | .redmin _ d a => la2 d a
  | .redmax _ d a => la2 d a
  | .redminIdx _ d a b => { la3 d a b with d := vW d 2 }
  | .redmaxIdx _ d a b => { la3 d a b with d := vW d 2 }
  | .scanadd _ d a => la2 d a
  | .mcount _ d _ => { la2 d 0 with a := Fld.none, uaOk := false }
  | .regroup _ d a b => { la3 d a b with d := ⟨.v, d.toNat, 1, true, true⟩, uaOk := false, ubOk := false, rptOk := false, legal := decide (d.toNat ≤ b.toNat ∧ b.toNat - d.toNat ≤ 31), deferred := true, x := ⟨.v, d.toNat, b.toNat - d.toNat + 1, true, true⟩, xAlign := false }
  | .ldB8 _ d x _ _ => { lm x with d := vW d 1, deferred := true }
  | .ldB16 _ d x _ _ => { lm x with d := vW d 1, deferred := true }
  | .ldB32 _ d x _ _ => { lm x with d := vW d 1, deferred := true }
  | .ldB64 _ d x _ _ => { lm x with d := vW d 2, deferred := true }
  | .ldB128 _ d x _ _ => { lm x with d := vW d 4, deferred := true }
  | .stB8 _ s x _ _ => { lm x with d := vR s 1 }
  | .stB16 _ s x _ _ => { lm x with d := vR s 1 }
  | .stB32 _ s x _ _ => { lm x with d := vR s 1 }
  | .stB64 _ s x _ _ => { lm x with d := vR s 2 }
  | .stB128 _ s x _ _ => { lm x with d := vR s 4 }
  | .pf _ x _ _ => lm x
  | .atomB32 _ d x _ p => { lm x with d := vM d 1, deferred := true, offRpt := false, legal := decide (p.toNat ≤ 9) }
  | .atomB64 _ d x _ p => { lm x with d := vM d 2, deferred := true, offRpt := false, legal := decide (p.toNat ≤ 9) }
  | .atomCasB32 _ d x _ _ => { lm x with d := vM d 2, deferred := true }
  | .atomCasB64 _ d x _ _ => { lm x with d := vM d 4, deferred := true }
  | .atomCas128 _ d x _ _ => { lm x with d := vM d 8, deferred := true }
  | .redB32 _ s x _ p => { lm x with d := vR s 1, offRpt := false, legal := decide (p.toNat ≤ 9) && p != 8 }
  | .redB64 _ s x _ p => { lm x with d := vR s 2, offRpt := false, legal := decide (p.toNat ≤ 9) && p != 8 }
  | .redF _ s x _ t p => { lm x with d := vR s (if t == 3 then 2 else 1), offRpt := false, legal := p != 3 }
  | .redFFtz _ s x _ t p => { lm x with d := vR s (if t == 3 then 2 else 1), offRpt := false, legal := p != 3 }
  | .redFPair _ s x _ t => { lm x with d := vR s (if t == 1 then 2 else 1), offRpt := false }
  | .rsvinit _ d => { lb0 d with form := .la, d := vW d 8 }
  | .rsvupd _ d a b => { la3 d a b with d := vM d 8, a := vR a 8, uaOk := false }
  | .rsvmrg _ d a b => { la3 d a b with d := vM d 8, a := vR a 8, b := vR b 4, uaOk := false }
  | .rsvnrm _ d => { lb0 d with form := .la, d := vM d 8, deferred := true }
  | .rsvld _ d x _ _ => { lm x with d := vW d 8, deferred := true }
  | .rsvst _ s x _ _ => { lm x with d := vR s 8 }
  -- R330 allows TED on these four, and R338 gives it the empty-register trap: their vd counts as read (log entry 61).
  | .trace _ d a b => { la3 d a b with d := vM d 8, a := vR a 8, b := vR b 2, uaOk := false, deferred := true }
  | .traceocc _ d a b => { la3 d a b with d := vM d 1, a := vR a 8, b := vR b 2, uaOk := false, deferred := true }
  | .trres _ d a b => { la3 d a b with d := vM d 4, a := vR a 8, b := vR b 8, uaOk := false, ubOk := false, deferred := true }
  | .ltwalk _ d a b => { la3 d a b with d := vM d 2, a := vR a 4, b := vR b 2, uaOk := false, deferred := true }
  | .rng _ d a b => { la3 d a b with d := vW d 2, a := vR a 2, b := vR b 2 }
  | .osenter _ a b => { la3 0 a b with d := Fld.none, a := vR a 2, rptOk := false }
  | .osenterAny _ m a b => { la3 0 a b with d := mW m, a := vR a 2, rptOk := false }
  | .osleave _ a b => { la3 0 a b with d := Fld.none, a := vR a 2, rptOk := false }
  | .emit _ s x _ _ => { lm x with d := vR s 1, rptOk := false }
  | .sadd _ d a b x => { uaX x d a b with lit := true, sat := true }
  | .ssub _ d a b x => { uaX x d a b with lit := true, sat := true }
  | .smul _ d a b x => { uaX x d a b with lit := true }
  | .smulh _ d a b _ => { ua3 d a b with lit := true }
  | .sand _ d a b x => { uaX x d a b with lit := true }
  | .sor _ d a b x => { uaX x d a b with lit := true }
  | .sxor _ d a b x => { uaX x d a b with lit := true }
  | .sshl _ d a b x => { uaX x d a b with b := wR b 1, lit := true }
  | .sshr _ d a b x => { uaX x d a b with b := wR b 1, lit := true }
  | .ssra _ d a b x => { uaX x d a b with b := wR b 1, lit := true }
  | .smin _ d a b _ x => { uaX x d a b with lit := true }
  | .smax _ d a b _ x => { uaX x d a b with lit := true }
  | .scmp _ d a b x c => { uaX x d a b with d := wW d 1, lit := true, legal := decide (c.toNat ≤ 9) }
  | .ssel _ d a b c => { ua3 d a b with x := wR c 1, lit := true }
  | .smov _ d a x => { uaX x d a 0 with b := Fld.none }
  | .sli _ d i => { ui with d := wW d 1, lit := true, litZero := i == 0 }
  | .slih px d i => { ui with d := { wW d 1 with rd := px.lit == none }, lit := true, litZero := i == 0 }
  | .spopc _ d a => ua2 d a
  | .sclz _ d a => ua2 d a
  | .sbfe _ d a b _ => { ua3 d a b with lit := true }
  | .sfadd _ d a b => { ua3 d a b with lit := true, rmo := true }
  | .sfmul _ d a b => { ua3 d a b with lit := true, rmo := true }
  | .sffma _ d a b => { ua3 d a b with d := wM d 1, lit := true, rmo := true }
  | .sfmin _ d a b => { ua3 d a b with lit := true }
  | .sfmax _ d a b => { ua3 d a b with lit := true }
  | .sfcmp _ d a b c => { ua3 d a b with lit := true, legal := decide (c.toNat ≤ 5) }
  | .sfrcp _ d a => { ua2 d a with rmo := true, deferred := true }
  | .sfsqrt _ d a => { ua2 d a with rmo := true, deferred := true }
  | .sfcvt _ d a t s => { ua2 d a with d := wW d (fmtRegs t), a := wR a (fmtRegs s), rmo := true, sat := true, legal := t != 15 && s != 15 && t != s && t != 6 && s != 6 }
  | .sld d a z _ => { um a with d := wW d (umRegs z), deferred := true, legal := decide (z.toNat ≤ 4) }
  | .sst s a z _ => { um a with d := wR s (umRegs z), legal := decide (z.toNat ≤ 4) }
  | .satom d a z p => { um a with d := wM d (if z == 1 then 2 else 1), deferred := true, legal := decide (p.toNat ≤ 9) }
  | .recld _ a _ => um a
  | .recst _ a _ => um a
  | .br _ => ubr
  | .brw a c _ => { ubr with form := .uc, a := wR a 1, legal := decide (c.toNat ≤ 9) }
  | .brany _ _ => ubr
  | .brall _ _ => ubr
  | .brnone _ _ => ubr
  | .callU _ => { ubr with x := wW 62 2 }
  | .ret _ a => { ua0 with a := wR a 2 }
  | .jmpw _ a b => { ua0 with a := wR a 2, b := wR b 1 }
  | .loopW a _ => { ubr with form := .uc, a := wM a 1 }
  | .exitL _ => ua0
  | .yield _ => ua0
  | .sleep _ n => { ui with lit := true, litZero := n == 0 }
  | .nop _ => ua0
  | .trapU _ _ => ui
  | .mand _ _ _ _ => ua0
  | .mor _ _ _ _ => ua0
  | .mxor _ _ _ _ => ua0
  | .mandn _ _ _ _ => ua0
  | .mnot _ _ _ => ua0
  | .mmov _ _ _ => ua0
  | .mtow _ d _ => { ua0 with d := wW d 1 }
  | .wtom _ _ a => { ua0 with a := wR a 1 }
  | .mpopc _ d _ => { ua0 with d := wW d 1 }
  | .mffs _ d _ => { ua0 with d := wW d 1 }
  | .srd _ d n => { ui with d := wW d (srRegs n), privileged := srPrivileged n, legal := decide (n.toNat ≤ 0x19) }
  | .swr _ s n => { ui with d := wR s (srRegs n), privileged := srPrivileged n, legal := decide (n.toNat ≤ 0x19) }
  | .rfe _ => { ua0 with privileged := true }
  | .tlbinv _ a b _ k => { ua0 with a := wR a 2, b := wR b 1, legal := k != 3, privileged := true }
  | .frpop _ d a => { ua2 d a with deferred := true, privileged := true }
  | .cflush _ a b k => if k == 2 then { ua0 with legal := a == 0 && b == 0 }
    else { ua0 with a := wR a 2, b := wR b 1, legal := k != 3 }
  | .ubres _ d a b => { ua3 d a b with deferred := true, privileged := true }
  | .ubdisc _ a b s _ => { ua0 with a := wR a 2, b := wR b 1, privileged := s == 1 }
  | .ubmig _ d a b _ => { ua3 d a b with a := wR a 2, deferred := true, privileged := true }
  | .roleget _ d _ => { ui with d := wW d 2 }
  | .fence _ _ s => { ua0 with legal := decide (s.toNat ≤ 4) }
  | .acq _ d a s => { ua2 d a with d := wW d 2, a := wR a 2, deferred := true, legal := decide (s.toNat ≤ 4) }
  | .rel _ a b _ s => { ua0 with a := wR a 2, b := wR b 2, legal := decide (s.toNat ≤ 4) }
  | .bind _ d a b k => { ua3 d a b with a := wR a 2, b := wR b 2, deferred := true, legal := decide (7 ≤ k.toNat ∧ k.toNat ≤ 40) }
  | .unbind _ d a b k => if k == 63 then { ua2 d a with a := wR a 2, deferred := true, legal := b == 0 }
    else { ua3 d a b with a := wR a 2, b := wR b 2, deferred := true, legal := decide (7 ≤ k.toNat ∧ k.toNat ≤ 40) }
  | .bar _ _ l => { ua0 with legal := l != 3 }
  | .tbarArrive _ d a b s => { ua3 d a b with a := wR a 2, deferred := true, legal := decide (s.toNat ≤ 4) }
  | .tbarExpect _ a b => { ua0 with a := wR a 2, b := wR b 1 }
  | .tbarWait _ d a b => { ua3 d a b with a := wR a 2, deferred := true }
  | .waitc _ d a b x c => { ua3 d a b with d := wM d (if x == 1 then 2 else 1), a := wR a 2, b := wR b (if x == 1 then 2 else 1), deferred := true, legal := decide (c.toNat ≤ 9) }
  | .leaseW _ a => { ua0 with a := wR a 1 }
  | .ipf _ a b => { ua0 with a := wR a 2, b := wR b 1 }
  | .cqput _ d a _ => { ua2 d a with d := wW d 2, a := wR a 16, deferred := true }
  | .cseal _ d => { ua0 with d := wW d 1 }
  | .cwait _ d a => { ua2 d a with deferred := true }
  | .ringawait _ d a => { ua2 d a with d := wW d 4, a := wR a 2, deferred := true }
  | .ringrel _ a b => { ua0 with a := wR a 2, b := wR b 2 }
  | .ringpeek _ d a => { ua2 d a with d := wW d 4, a := wR a 2, deferred := true }
  | .halox _ d a _ => { ua2 d a with d := wW d 2, a := wR a 16, deferred := true }
  | .twl _ d a => { ua2 d a with a := wR a 2, deferred := true }
  | .twlwait _ d a => { ua2 d a with deferred := true }
  | .malloc _ d a => { ua2 d a with deferred := true, matrix := true }
  | .mfree _ a => { ua0 with a := wR a 1, matrix := true }
  | .mz _ _ => { ua0 with matrix := true }
  | .mma _ d a b => { ua3 d a b with d := wR d 2, a := wR a 2, b := wR b 2, matrix := true }
  | .mmaGath _ d a g => { ua2 d a with d := wR d 2, a := wR a 2, x := ⟨.v, 2 * g.toNat, 2, true, false⟩, matrix := true }
  | .mmaImg _ d a b => { ua3 d a b with d := wR d 2, a := wR a 2, b := wR b 2, matrix := true }
  | .mdrain _ a b k _ => { ua0 with a := wR a 2, b := wR b 1, matrix := true, legal := k != 3 }
  | .mdrainFrz _ d a _ => { ua2 d a with a := wR a 2, matrix := true, privileged := true }
  | .mdrainFrzq _ d a b => { ua3 d a b with a := wR a 2, matrix := true, privileged := true }
  | .mload _ a b k _ => { ua0 with a := wR a 2, b := wR b 1, matrix := true, legal := k != 3 }
  | .mloadFrz _ d a b _ => { ua3 d a b with a := wR a 2, matrix := true, privileged := true }
  | .mloadFrzq _ d a b => { ua3 d a b with a := wR a 2, matrix := true, privileged := true }
  | .msync _ d => { ua0 with d := wW d 1, matrix := true }
  | .illegalInstructionWord => OpInfo.event
  | .zotanPortUp _ => OpInfo.event
  | .zotanReservedPacket _ _ => OpInfo.event
  | .modulePowerLoss => OpInfo.event

/-- The prefixes of an instruction; the forms that admit none have none. -/
def Instr.px : Instr → Pfx
  | .moduleReset => Pfx.none
  | .ucieTrainingDone _ _ => Pfx.none
  | .dieAuthenticationDone _ _ _ => Pfx.none
  | .memoryTrainingDone _ => Pfx.none
  | .bootgoWrite => Pfx.none
  | .imageVerificationDone => Pfx.none
  | .configRegisterWrite _ _ => Pfx.none
  | .vdmapWrite _ => Pfx.none
  | .ucieFlitCrcFail _ _ _ => Pfx.none
  | .gddr7ReadComplete _ _ _ _ => Pfx.none
  | .gddr7WriteComplete _ _ _ _ => Pfx.none
  | .memerrWrite _ _ => Pfx.none
  | .fwctlWrite _ _ _ => Pfx.none
  | .fwctlEnableComplete _ _ => Pfx.none
  | .fwBoundsWrite _ _ _ _ => Pfx.none
  | .l2FillUnpinResume _ _ => Pfx.none
  | .homeRead _ => Pfx.none
  | .homeWrite _ => Pfx.none
  | .homeAtomic _ => Pfx.none
  | .homeReduction _ => Pfx.none
  | .walkComplete _ => Pfx.none
  | .trbaseWrite _ _ => Pfx.none
  | .invalidationRoundReceive _ _ => Pfx.none
  | .roundAgentAcknowledge _ _ => Pfx.none
  | .roundAckReceive _ _ => Pfx.none
  | .sweeperExamine _ => Pfx.none
  | .swctlWrite _ _ => Pfx.none
  | .readyQueueRegisterWrite _ _ _ => Pfx.none
  | .ubpartWrite _ _ => Pfx.none
  | .ubpartResizeComplete _ => Pfx.none
  | .ubrsvWrite _ _ _ => Pfx.none
  | .lateFrameAssignment _ _ _ => Pfx.none
  | .ubstatWrite _ _ => Pfx.none
  | .monitorArm _ => Pfx.none
  | .monitorWakeDelivery _ => Pfx.none
  | .monitorRearm _ => Pfx.none
  | .monitorCancel _ => Pfx.none
  | .waitcTimeout _ => Pfx.none
  | .keyTableRequest _ => Pfx.none
  | .keyTableLeave _ => Pfx.none
  | .keyTableWithdraw _ => Pfx.none
  | .sectionGrantDelivery _ => Pfx.none
  | .keyRequestRetry _ => Pfx.none
  | .keyEntryStall _ _ => Pfx.none
  | .osctlWrite _ _ => Pfx.none
  | .vaultAccess _ _ => Pfx.none
  | .vaultAllocationWrite _ _ _ _ => Pfx.none
  | .instructionLineArrival _ => Pfx.none
  | .deferredResultArrival _ => Pfx.none
  | .cqctlWrite _ _ _ => Pfx.none
  | .cqDisableComplete _ _ => Pfx.none
  | .copyEntryTake _ _ => Pfx.none
  | .copyPacketStart _ _ => Pfx.none
  | .copySegment _ _ _ => Pfx.none
  | .fixupAnswer _ _ _ => Pfx.none
  | .copyFixupReplay _ _ => Pfx.none
  | .copymmaCommandIssue _ _ => Pfx.none
  | .copyPacketComplete _ _ => Pfx.none
  | .matrixCommandEnter _ => Pfx.none
  | .matrixFetchSegment _ _ _ _ => Pfx.none
  | .matrixEntryApply _ _ => Pfx.none
  | .matrixEntryAged _ _ _ => Pfx.none
  | .raytabWrite _ _ => Pfx.none
  | .rayLaneComplete _ _ => Pfx.none
  | .lightWalkLaneComplete _ _ => Pfx.none
  | .twillOperationStart _ _ _ => Pfx.none
  | .twillPixel _ _ _ => Pfx.none
  | .twillCallableBatch _ _ _ => Pfx.none
  | .twillOperationComplete _ _ _ => Pfx.none
  | .tbarUpdate _ => Pfx.none
  | .tbarVaultPoll _ => Pfx.none
  | .lqctlWrite _ _ => Pfx.none
  | .launchEntryTake _ => Pfx.none
  | .headPublish _ => Pfx.none
  | .gangPlacement _ _ => Pfx.none
  | .coResidentPlacement _ => Pfx.none
  | .gangRetirement _ _ => Pfx.none
  | .launchCompletion _ => Pfx.none
  | .jouleCharge _ => Pfx.none
  | .budgetRefill _ => Pfx.none
  | .nodeTimerExpiry _ _ => Pfx.none
  | .epochEnd _ => Pfx.none
  | .strandAdmission _ => Pfx.none
  | .forcedRotation _ => Pfx.none
  | .sleepExpiry _ => Pfx.none
  | .ctxFreeze => Pfx.none
  | .ctxThaw => Pfx.none
  | .ctxSwapOut => Pfx.none
  | .ctxSwapIn => Pfx.none
  | .ctxSave => Pfx.none
  | .ctxRestore => Pfx.none
  | .ctxKill => Pfx.none
  | .ctxCommandDone => Pfx.none
  | .zotanFlitCrcFail _ _ => Pfx.none
  | .zotanPortDown _ => Pfx.none
  | .routeRecompute _ => Pfx.none
  | .zotanReadRequest _ _ => Pfx.none
  | .zotanPostedWrite _ _ => Pfx.none
  | .zotanPostedReduction _ _ => Pfx.none
  | .zotanAtomic _ _ => Pfx.none
  | .zotanReadReply _ _ => Pfx.none
  | .zotanWriteAck _ _ => Pfx.none
  | .zotanFaultReply _ _ => Pfx.none
  | .zotanInvalidationRound _ _ => Pfx.none
  | .zotanRoundAck _ _ => Pfx.none
  | .zotanDownDeclaration _ _ => Pfx.none
  | .zotanMonitorArm _ _ => Pfx.none
  | .zotanMonitorWake _ _ => Pfx.none
  | .zotanMonitorCancel _ _ => Pfx.none
  | .zotanRequestTimeout _ => Pfx.none
  | .zpkgWrite _ => Pfx.none
  | .hostRead _ _ => Pfx.none
  | .hostWrite _ _ => Pfx.none
  | .hostAtomic _ _ _ _ => Pfx.none
  | .uinvaWrite _ => Pfx.none
  | .nonceWrite _ => Pfx.none
  | .dierstWrite _ => Pfx.none
  | .dieResetRetrainDone _ => Pfx.none
  | .pwrctlWrite _ => Pfx.none
  | .clockSwitch => Pfx.none
  | .thermalTrip _ _ => Pfx.none
  | .fieldRecordFlashCopy => Pfx.none
  | .fieldRecordSample _ _ => Pfx.none
  | .iadd px _ _ _ => px
  | .iaddc px _ _ _ => px
  | .isub px _ _ _ => px
  | .isubb px _ _ _ => px
  | .imul px _ _ _ => px
  | .imulh px _ _ _ => px
  | .imulhn px _ _ _ => px
  | .imad px _ _ _ => px
  | .iabs px _ _ => px
  | .imin px _ _ _ => px
  | .imax px _ _ _ => px
  | .iminn px _ _ _ => px
  | .imaxn px _ _ _ => px
  | .icmp px _ _ _ _ => px
  | .selL px _ _ _ => px
  | .andL px _ _ _ => px
  | .orL px _ _ _ => px
  | .xorL px _ _ _ => px
  | .andn px _ _ _ => px
  | .notL px _ _ => px
  | .shl px _ _ _ => px
  | .shr px _ _ _ => px
  | .sra px _ _ _ => px
  | .rotl px _ _ _ => px
  | .popc px _ _ => px
  | .clz px _ _ => px
  | .ctz px _ _ => px
  | .brev px _ _ => px
  | .bfe px _ _ _ => px
  | .bfes px _ _ _ => px
  | .bfi px _ _ _ => px
  | .mov px _ _ => px
  | .movw px _ _ => px
  | .movi px _ _ => px
  | .lid px _ _ => px
  | .fadd px _ _ _ => px
  | .fsub px _ _ _ => px
  | .fmul px _ _ _ => px
  | .ffma px _ _ _ => px
  | .fmin px _ _ _ => px
  | .fmax px _ _ _ => px
  | .fcmp px _ _ _ _ => px
  | .fdiv px _ _ _ => px
  | .frcp px _ _ => px
  | .frsq px _ _ => px
  | .fsqrt px _ _ => px
  | .fexp2 px _ _ => px
  | .flog2 px _ _ => px
  | .fsinr px _ _ => px
  | .fcosr px _ _ => px
  | .frnd px _ _ => px
  | .ffrac px _ _ => px
  | .dadd px _ _ _ => px
  | .dmul px _ _ _ => px
  | .dfma px _ _ _ => px
  | .hadd2 px _ _ _ => px
  | .hmul2 px _ _ _ => px
  | .hfma2 px _ _ _ => px
  | .badd2 px _ _ _ => px
  | .bmul2 px _ _ _ => px
  | .bfma2 px _ _ _ => px
  | .fdot2b px _ _ _ => px
  | .cvt px _ _ _ _ => px
  | .ddx px _ _ => px
  | .ddy px _ _ => px
  | .shfl px _ _ _ => px
  | .shflUp px _ _ _ => px
  | .shflDown px _ _ _ => px
  | .shflXor px _ _ _ => px
  | .bcast px _ _ _ => px
  | .vany px _ _ => px
  | .vall px _ _ => px
  | .ballot px _ _ => px
  | .redadd px _ _ => px
  | .redfadd px _ _ => px
  | .redmin px _ _ => px
  | .redmax px _ _ => px
  | .redminIdx px _ _ _ => px
  | .redmaxIdx px _ _ _ => px
  | .scanadd px _ _ => px
  | .mcount px _ _ => px
  | .regroup px _ _ _ => px
  | .ldB8 px _ _ _ _ => px
  | .ldB16 px _ _ _ _ => px
  | .ldB32 px _ _ _ _ => px
  | .ldB64 px _ _ _ _ => px
  | .ldB128 px _ _ _ _ => px
  | .stB8 px _ _ _ _ => px
  | .stB16 px _ _ _ _ => px
  | .stB32 px _ _ _ _ => px
  | .stB64 px _ _ _ _ => px
  | .stB128 px _ _ _ _ => px
  | .pf px _ _ _ => px
  | .atomB32 px _ _ _ _ => px
  | .atomB64 px _ _ _ _ => px
  | .atomCasB32 px _ _ _ _ => px
  | .atomCasB64 px _ _ _ _ => px
  | .atomCas128 px _ _ _ _ => px
  | .redB32 px _ _ _ _ => px
  | .redB64 px _ _ _ _ => px
  | .redF px _ _ _ _ _ => px
  | .redFFtz px _ _ _ _ _ => px
  | .redFPair px _ _ _ _ => px
  | .rsvinit px _ => px
  | .rsvupd px _ _ _ => px
  | .rsvmrg px _ _ _ => px
  | .rsvnrm px _ => px
  | .rsvld px _ _ _ _ => px
  | .rsvst px _ _ _ _ => px
  | .trace px _ _ _ => px
  | .traceocc px _ _ _ => px
  | .trres px _ _ _ => px
  | .ltwalk px _ _ _ => px
  | .rng px _ _ _ => px
  | .osenter px _ _ => px
  | .osenterAny px _ _ _ => px
  | .osleave px _ _ => px
  | .emit px _ _ _ _ => px
  | .sadd px _ _ _ _ => px
  | .ssub px _ _ _ _ => px
  | .smul px _ _ _ _ => px
  | .smulh px _ _ _ _ => px
  | .sand px _ _ _ _ => px
  | .sor px _ _ _ _ => px
  | .sxor px _ _ _ _ => px
  | .sshl px _ _ _ _ => px
  | .sshr px _ _ _ _ => px
  | .ssra px _ _ _ _ => px
  | .smin px _ _ _ _ _ => px
  | .smax px _ _ _ _ _ => px
  | .scmp px _ _ _ _ _ => px
  | .ssel px _ _ _ _ => px
  | .smov px _ _ _ => px
  | .sli px _ _ => px
  | .slih px _ _ => px
  | .spopc px _ _ => px
  | .sclz px _ _ => px
  | .sbfe px _ _ _ _ => px
  | .sfadd px _ _ _ => px
  | .sfmul px _ _ _ => px
  | .sffma px _ _ _ => px
  | .sfmin px _ _ _ => px
  | .sfmax px _ _ _ => px
  | .sfcmp px _ _ _ _ => px
  | .sfrcp px _ _ => px
  | .sfsqrt px _ _ => px
  | .sfcvt px _ _ _ _ => px
  | .sld _ _ _ _ => Pfx.none
  | .sst _ _ _ _ => Pfx.none
  | .satom _ _ _ _ => Pfx.none
  | .recld _ _ _ => Pfx.none
  | .recst _ _ _ => Pfx.none
  | .br _ => Pfx.none
  | .brw _ _ _ => Pfx.none
  | .brany _ _ => Pfx.none
  | .brall _ _ => Pfx.none
  | .brnone _ _ => Pfx.none
  | .callU _ => Pfx.none
  | .ret px _ => px
  | .jmpw px _ _ => px
  | .loopW _ _ => Pfx.none
  | .exitL px => px
  | .yield px => px
  | .sleep px _ => px
  | .nop px => px
  | .trapU px _ => px
  | .mand px _ _ _ => px
  | .mor px _ _ _ => px
  | .mxor px _ _ _ => px
  | .mandn px _ _ _ => px
  | .mnot px _ _ => px
  | .mmov px _ _ => px
  | .mtow px _ _ => px
  | .wtom px _ _ => px
  | .mpopc px _ _ => px
  | .mffs px _ _ => px
  | .srd px _ _ => px
  | .swr px _ _ => px
  | .rfe px => px
  | .tlbinv px _ _ _ _ => px
  | .frpop px _ _ => px
  | .cflush px _ _ _ => px
  | .ubres px _ _ _ => px
  | .ubdisc px _ _ _ _ => px
  | .ubmig px _ _ _ _ => px
  | .roleget px _ _ => px
  | .fence px _ _ => px
  | .acq px _ _ _ => px
  | .rel px _ _ _ _ => px
  | .bind px _ _ _ _ => px
  | .unbind px _ _ _ _ => px
  | .bar px _ _ => px
  | .tbarArrive px _ _ _ _ => px
  | .tbarExpect px _ _ => px
  | .tbarWait px _ _ _ => px
  | .waitc px _ _ _ _ _ => px
  | .leaseW px _ => px
  | .ipf px _ _ => px
  | .cqput px _ _ _ => px
  | .cseal px _ => px
  | .cwait px _ _ => px
  | .ringawait px _ _ => px
  | .ringrel px _ _ => px
  | .ringpeek px _ _ => px
  | .halox px _ _ _ => px
  | .twl px _ _ => px
  | .twlwait px _ _ => px
  | .malloc px _ _ => px
  | .mfree px _ => px
  | .mz px _ => px
  | .mma px _ _ _ => px
  | .mmaGath px _ _ _ => px
  | .mmaImg px _ _ _ => px
  | .mdrain px _ _ _ _ => px
  | .mdrainFrz px _ _ _ => px
  | .mdrainFrzq px _ _ _ => px
  | .mload px _ _ _ _ => px
  | .mloadFrz px _ _ _ _ => px
  | .mloadFrzq px _ _ _ => px
  | .msync px _ => px
  | .illegalInstructionWord => Pfx.none
  | .zotanPortUp _ => Pfx.none
  | .zotanReservedPacket _ _ => Pfx.none
  | .modulePowerLoss => Pfx.none

/-- A condition on an optional prefix. -/
def optAll {α : Type} (o : Option α) (f : α → Bool) : Bool :=
  match o with
  | some x => f x
  | none => true

/-- The form is per-lane (bit 31 clear, R136). -/
def Form.perLane : Form → Bool
  | .la | .lb | .lm => true
  | _ => false

/-- An `ext` prefix is one the instruction can use (R141, R142). -/
def extOk (o : OpInfo) (lit : Bool) (e : Ext) : Bool :=
  (o.form.perLane || o.form == .ua || o.form == .ui)
  && !(e.pinv && e.pred == 0)
  && (o.form.perLane || (e.pred == 0 && !e.pinv && !e.ua && !e.ub))
  && (!e.ua || o.uaOk) && (!e.ub || (o.ubOk && !lit))
  && (!e.tea || o.a.rd) && (!e.teb || (o.b.rd && !lit)) && (!e.ted || o.d.rd)
  && (e.rmo == 0 || (o.rmo && e.rmo.toNat ≥ 4))
  && (!e.sat || o.sat)

/-- A `rpt` prefix is one the instruction can use: a stride is non-zero only over a field that names v registers, or over
the element offset of form LM (R143). -/
def rptOk (o : OpInfo) (e : Ext) (lit : Bool) (r : Rpt) : Bool :=
  o.form.perLane && o.rptOk
  && (r.sd == 0 || o.d.cls == .v)
  && (r.sa == 0 || (o.a.cls == .v && !e.ua))
  && (r.sb == 0 || (o.form == .la && o.b.cls == .v && !e.ub && !lit) || (o.form == .lm && o.offRpt))

/-- A literal is one the instruction takes, and the field it replaces holds zero (R145). -/
def litOk (o : OpInfo) : Bool := o.lit && o.litZero && o.b.reg == 0

/-- A w register named in an 8-bit per-lane field leaves the bits above zero (R139). -/
def wideOk (o : OpInfo) (e : Ext) : Bool := (!e.ua || decide (o.a.reg < 64)) && (!e.ub || decide (o.b.reg < 64))

/-- A sequence is legal under R141 to R145 and R148. -/
def Instr.wf (i : Instr) : Bool :=
  let o := opInfo i
  let p := i.px
  o.legal && o.form != .event
  && optAll p.ext (fun e => extOk o p.lit.isSome e && wideOk o e)
  && optAll p.rpt (rptOk o p.extD p.lit.isSome)
  && optAll p.lit (fun _ => litOk o)
  && (!o.needPred || p.extD.pred != 0)

/-- Well formed (R148 step 1): the sequence raises no illegal-instruction trap for its encoding. -/
def WellFormed (i : Instr) : Prop := i.wf = true

end Sys2Proof
end

