-- ==== Sys2Proof/Decode.lean ====
section
/-! DEFINITION. Decoding (R136 to R148): an instruction sequence from its words, rejecting by name what names no
instruction, and the encoder. The decoder refuses an unassigned opcode, a non-zero reserved bit and a prefix out of its
order; the codes and the prefix uses that an instruction does not define are refused by `Instr.wf`, at the same step of
R148. -/

namespace Sys2Proof

/-- Why a sequence names no instruction. -/
inductive DecodeError where
  /-- An opcode marked with a dash in Table 6 or Table 8 (R148). -/
  | unassignedOpcode
  /-- A non-zero reserved field, or a form the opcode does not have (R148). -/
  | reservedField
  /-- A prefix out of the order of R136, twice, or before a form that takes none (R141). -/
  | misplacedPrefix
  /-- The words given end before the sequence does. -/
  | truncated
  deriving DecidableEq, Repr


/-- The instruction word of the per-lane opcodes 0x00 to 0x3F (R146, Table 6); bits [31:24] select the arm. -/
def decodeLaneLow (px : Pfx) (w : Word) : Except DecodeError Instr :=
  match (w.extractLsb' 24 8).toNat with
  | 0x01 => .ok (.iadd px (w.extractLsb' 16 8) (w.extractLsb' 8 8) (w.extractLsb' 0 8))
  | 0x02 => .ok (.iaddc px (w.extractLsb' 16 8) (w.extractLsb' 8 8) (w.extractLsb' 0 8))
  | 0x03 => .ok (.isub px (w.extractLsb' 16 8) (w.extractLsb' 8 8) (w.extractLsb' 0 8))
  | 0x04 => .ok (.isubb px (w.extractLsb' 16 8) (w.extractLsb' 8 8) (w.extractLsb' 0 8))
  | 0x05 => .ok (.imul px (w.extractLsb' 16 8) (w.extractLsb' 8 8) (w.extractLsb' 0 8))
  | 0x06 => .ok (.imulh px (w.extractLsb' 16 8) (w.extractLsb' 8 8) (w.extractLsb' 0 8))
  | 0x07 => .ok (.imulhn px (w.extractLsb' 16 8) (w.extractLsb' 8 8) (w.extractLsb' 0 8))
  | 0x08 => .ok (.imad px (w.extractLsb' 16 8) (w.extractLsb' 8 8) (w.extractLsb' 0 8))
  | 0x09 => if w.extractLsb' 0 8 == 0 then .ok (.iabs px (w.extractLsb' 16 8) (w.extractLsb' 8 8)) else .error .reservedField
  | 0x0A => .ok (.imin px (w.extractLsb' 16 8) (w.extractLsb' 8 8) (w.extractLsb' 0 8))
  | 0x0B => .ok (.imax px (w.extractLsb' 16 8) (w.extractLsb' 8 8) (w.extractLsb' 0 8))
  | 0x0C => .ok (.iminn px (w.extractLsb' 16 8) (w.extractLsb' 8 8) (w.extractLsb' 0 8))
  | 0x0D => .ok (.imaxn px (w.extractLsb' 16 8) (w.extractLsb' 8 8) (w.extractLsb' 0 8))
  | 0x0E => if w.extractLsb' 19 1 == 0 then .ok (.icmp px (w.extractLsb' 20 4) (w.extractLsb' 16 3) (w.extractLsb' 8 8) (w.extractLsb' 0 8)) else .error .reservedField
  | 0x0F => .ok (.selL px (w.extractLsb' 16 8) (w.extractLsb' 8 8) (w.extractLsb' 0 8))
  | 0x10 => .ok (.andL px (w.extractLsb' 16 8) (w.extractLsb' 8 8) (w.extractLsb' 0 8))
  | 0x11 => .ok (.orL px (w.extractLsb' 16 8) (w.extractLsb' 8 8) (w.extractLsb' 0 8))
  | 0x12 => .ok (.xorL px (w.extractLsb' 16 8) (w.extractLsb' 8 8) (w.extractLsb' 0 8))
  | 0x13 => .ok (.andn px (w.extractLsb' 16 8) (w.extractLsb' 8 8) (w.extractLsb' 0 8))
  | 0x14 => if w.extractLsb' 0 8 == 0 then .ok (.notL px (w.extractLsb' 16 8) (w.extractLsb' 8 8)) else .error .reservedField
  | 0x15 => .ok (.shl px (w.extractLsb' 16 8) (w.extractLsb' 8 8) (w.extractLsb' 0 8))
  | 0x16 => .ok (.shr px (w.extractLsb' 16 8) (w.extractLsb' 8 8) (w.extractLsb' 0 8))
  | 0x17 => .ok (.sra px (w.extractLsb' 16 8) (w.extractLsb' 8 8) (w.extractLsb' 0 8))
  | 0x18 => .ok (.rotl px (w.extractLsb' 16 8) (w.extractLsb' 8 8) (w.extractLsb' 0 8))
  | 0x19 => if w.extractLsb' 0 8 == 0 then .ok (.popc px (w.extractLsb' 16 8) (w.extractLsb' 8 8)) else .error .reservedField
  | 0x1A => if w.extractLsb' 0 8 == 0 then .ok (.clz px (w.extractLsb' 16 8) (w.extractLsb' 8 8)) else .error .reservedField
  | 0x1B => if w.extractLsb' 0 8 == 0 then .ok (.ctz px (w.extractLsb' 16 8) (w.extractLsb' 8 8)) else .error .reservedField
  | 0x1C => if w.extractLsb' 0 8 == 0 then .ok (.brev px (w.extractLsb' 16 8) (w.extractLsb' 8 8)) else .error .reservedField
  | 0x1D => .ok (.bfe px (w.extractLsb' 16 8) (w.extractLsb' 8 8) (w.extractLsb' 0 8))
  | 0x1E => .ok (.bfes px (w.extractLsb' 16 8) (w.extractLsb' 8 8) (w.extractLsb' 0 8))
  | 0x1F => .ok (.bfi px (w.extractLsb' 16 8) (w.extractLsb' 8 8) (w.extractLsb' 0 8))
  | 0x20 => if w.extractLsb' 0 8 == 0 then .ok (.mov px (w.extractLsb' 16 8) (w.extractLsb' 8 8)) else .error .reservedField
  | 0x21 => if w.extractLsb' 0 8 == 0 then .ok (.movw px (w.extractLsb' 16 8) (w.extractLsb' 8 8)) else .error .reservedField
  | 0x22 => .ok (.movi px (w.extractLsb' 16 8) (w.extractLsb' 0 16))
  | 0x23 => if w.extractLsb' 8 8 == 0 then .ok (.lid px (w.extractLsb' 16 8) (w.extractLsb' 0 8)) else .error .reservedField
  | 0x24 => .ok (.fadd px (w.extractLsb' 16 8) (w.extractLsb' 8 8) (w.extractLsb' 0 8))
  | 0x25 => .ok (.fsub px (w.extractLsb' 16 8) (w.extractLsb' 8 8) (w.extractLsb' 0 8))
  | 0x26 => .ok (.fmul px (w.extractLsb' 16 8) (w.extractLsb' 8 8) (w.extractLsb' 0 8))
  | 0x27 => .ok (.ffma px (w.extractLsb' 16 8) (w.extractLsb' 8 8) (w.extractLsb' 0 8))
  | 0x28 => .ok (.fmin px (w.extractLsb' 16 8) (w.extractLsb' 8 8) (w.extractLsb' 0 8))
  | 0x29 => .ok (.fmax px (w.extractLsb' 16 8) (w.extractLsb' 8 8) (w.extractLsb' 0 8))
  | 0x2A => if w.extractLsb' 19 1 == 0 then .ok (.fcmp px (w.extractLsb' 20 4) (w.extractLsb' 16 3) (w.extractLsb' 8 8) (w.extractLsb' 0 8)) else .error .reservedField
  | 0x2B => .ok (.fdiv px (w.extractLsb' 16 8) (w.extractLsb' 8 8) (w.extractLsb' 0 8))
  | 0x2C => if w.extractLsb' 0 8 == 0 then .ok (.frcp px (w.extractLsb' 16 8) (w.extractLsb' 8 8)) else .error .reservedField
  | 0x2D => if w.extractLsb' 0 8 == 0 then .ok (.frsq px (w.extractLsb' 16 8) (w.extractLsb' 8 8)) else .error .reservedField
  | 0x2E => if w.extractLsb' 0 8 == 0 then .ok (.fsqrt px (w.extractLsb' 16 8) (w.extractLsb' 8 8)) else .error .reservedField
  | 0x2F => if w.extractLsb' 0 8 == 0 then .ok (.fexp2 px (w.extractLsb' 16 8) (w.extractLsb' 8 8)) else .error .reservedField
  | 0x30 => if w.extractLsb' 0 8 == 0 then .ok (.flog2 px (w.extractLsb' 16 8) (w.extractLsb' 8 8)) else .error .reservedField
  | 0x31 => if w.extractLsb' 0 8 == 0 then .ok (.fsinr px (w.extractLsb' 16 8) (w.extractLsb' 8 8)) else .error .reservedField
  | 0x32 => if w.extractLsb' 0 8 == 0 then .ok (.fcosr px (w.extractLsb' 16 8) (w.extractLsb' 8 8)) else .error .reservedField
  | 0x33 => if w.extractLsb' 0 8 == 0 then .ok (.frnd px (w.extractLsb' 16 8) (w.extractLsb' 8 8)) else .error .reservedField
  | 0x34 => if w.extractLsb' 0 8 == 0 then .ok (.ffrac px (w.extractLsb' 16 8) (w.extractLsb' 8 8)) else .error .reservedField
  | 0x35 => .ok (.dadd px (w.extractLsb' 16 8) (w.extractLsb' 8 8) (w.extractLsb' 0 8))
  | 0x36 => .ok (.dmul px (w.extractLsb' 16 8) (w.extractLsb' 8 8) (w.extractLsb' 0 8))
  | 0x37 => .ok (.dfma px (w.extractLsb' 16 8) (w.extractLsb' 8 8) (w.extractLsb' 0 8))
  | 0x38 => .ok (.hadd2 px (w.extractLsb' 16 8) (w.extractLsb' 8 8) (w.extractLsb' 0 8))
  | 0x39 => .ok (.hmul2 px (w.extractLsb' 16 8) (w.extractLsb' 8 8) (w.extractLsb' 0 8))
  | 0x3A => .ok (.hfma2 px (w.extractLsb' 16 8) (w.extractLsb' 8 8) (w.extractLsb' 0 8))
  | 0x3B => .ok (.badd2 px (w.extractLsb' 16 8) (w.extractLsb' 8 8) (w.extractLsb' 0 8))
  | 0x3C => .ok (.bmul2 px (w.extractLsb' 16 8) (w.extractLsb' 8 8) (w.extractLsb' 0 8))
  | 0x3D => .ok (.bfma2 px (w.extractLsb' 16 8) (w.extractLsb' 8 8) (w.extractLsb' 0 8))
  | 0x3E => .ok (.fdot2b px (w.extractLsb' 16 8) (w.extractLsb' 8 8) (w.extractLsb' 0 8))
  | 0x3F => .ok (.cvt px (w.extractLsb' 16 8) (w.extractLsb' 8 8) (w.extractLsb' 4 4) (w.extractLsb' 0 4))
  | _ => .error .unassignedOpcode

/-- The instruction word of the per-lane opcodes 0x40 to 0x7F (R146, Table 6); bits [31:24] select the arm. -/
def decodeLaneHigh (px : Pfx) (w : Word) : Except DecodeError Instr :=
  match (w.extractLsb' 24 8).toNat with
  | 0x40 => if w.extractLsb' 0 8 == 0 then .ok (.ddx px (w.extractLsb' 16 8) (w.extractLsb' 8 8)) else .error .reservedField
  | 0x41 => if w.extractLsb' 0 8 == 0 then .ok (.ddy px (w.extractLsb' 16 8) (w.extractLsb' 8 8)) else .error .reservedField
  | 0x42 => .ok (.shfl px (w.extractLsb' 16 8) (w.extractLsb' 8 8) (w.extractLsb' 0 8))
  | 0x43 => .ok (.shflUp px (w.extractLsb' 16 8) (w.extractLsb' 8 8) (w.extractLsb' 0 8))
  | 0x44 => .ok (.shflDown px (w.extractLsb' 16 8) (w.extractLsb' 8 8) (w.extractLsb' 0 8))
  | 0x45 => .ok (.shflXor px (w.extractLsb' 16 8) (w.extractLsb' 8 8) (w.extractLsb' 0 8))
  | 0x46 => .ok (.bcast px (w.extractLsb' 16 8) (w.extractLsb' 8 8) (w.extractLsb' 0 8))
  | 0x47 => if w.extractLsb' 0 8 == 0 then .ok (.vany px (w.extractLsb' 16 8) (w.extractLsb' 8 8)) else .error .reservedField
  | 0x48 => if w.extractLsb' 0 8 == 0 then .ok (.vall px (w.extractLsb' 16 8) (w.extractLsb' 8 8)) else .error .reservedField
  | 0x49 => if w.extractLsb' 19 5 == 0 && w.extractLsb' 0 8 == 0 then .ok (.ballot px (w.extractLsb' 16 3) (w.extractLsb' 8 8)) else .error .reservedField
  | 0x4A => if w.extractLsb' 0 8 == 0 then .ok (.redadd px (w.extractLsb' 16 8) (w.extractLsb' 8 8)) else .error .reservedField
  | 0x4B => if w.extractLsb' 0 8 == 0 then .ok (.redfadd px (w.extractLsb' 16 8) (w.extractLsb' 8 8)) else .error .reservedField
  | 0x4C => if w.extractLsb' 0 8 == 0 then .ok (.redmin px (w.extractLsb' 16 8) (w.extractLsb' 8 8)) else .error .reservedField
  | 0x4D => if w.extractLsb' 0 8 == 0 then .ok (.redmax px (w.extractLsb' 16 8) (w.extractLsb' 8 8)) else .error .reservedField
  | 0x4E => .ok (.redminIdx px (w.extractLsb' 16 8) (w.extractLsb' 8 8) (w.extractLsb' 0 8))
  | 0x4F => .ok (.redmaxIdx px (w.extractLsb' 16 8) (w.extractLsb' 8 8) (w.extractLsb' 0 8))
  | 0x50 => if w.extractLsb' 0 8 == 0 then .ok (.scanadd px (w.extractLsb' 16 8) (w.extractLsb' 8 8)) else .error .reservedField
  | 0x51 => if w.extractLsb' 11 5 == 0 && w.extractLsb' 0 8 == 0 then .ok (.mcount px (w.extractLsb' 16 8) (w.extractLsb' 8 3)) else .error .reservedField
  | 0x52 => .ok (.regroup px (w.extractLsb' 16 8) (w.extractLsb' 8 8) (w.extractLsb' 0 8))
  | 0x54 => .ok (.ldB8 px (w.extractLsb' 16 8) (w.extractLsb' 8 8) (w.extractLsb' 4 4) (w.extractLsb' 0 4))
  | 0x55 => .ok (.ldB16 px (w.extractLsb' 16 8) (w.extractLsb' 8 8) (w.extractLsb' 4 4) (w.extractLsb' 0 4))
  | 0x56 => .ok (.ldB32 px (w.extractLsb' 16 8) (w.extractLsb' 8 8) (w.extractLsb' 4 4) (w.extractLsb' 0 4))
  | 0x57 => .ok (.ldB64 px (w.extractLsb' 16 8) (w.extractLsb' 8 8) (w.extractLsb' 4 4) (w.extractLsb' 0 4))
  | 0x58 => .ok (.ldB128 px (w.extractLsb' 16 8) (w.extractLsb' 8 8) (w.extractLsb' 4 4) (w.extractLsb' 0 4))
  | 0x59 => .ok (.stB8 px (w.extractLsb' 16 8) (w.extractLsb' 8 8) (w.extractLsb' 4 4) (w.extractLsb' 0 4))
  | 0x5A => .ok (.stB16 px (w.extractLsb' 16 8) (w.extractLsb' 8 8) (w.extractLsb' 4 4) (w.extractLsb' 0 4))
  | 0x5B => .ok (.stB32 px (w.extractLsb' 16 8) (w.extractLsb' 8 8) (w.extractLsb' 4 4) (w.extractLsb' 0 4))
  | 0x5C => .ok (.stB64 px (w.extractLsb' 16 8) (w.extractLsb' 8 8) (w.extractLsb' 4 4) (w.extractLsb' 0 4))
  | 0x5D => .ok (.stB128 px (w.extractLsb' 16 8) (w.extractLsb' 8 8) (w.extractLsb' 4 4) (w.extractLsb' 0 4))
  | 0x5E => if w.extractLsb' 16 8 == 0 then .ok (.pf px (w.extractLsb' 8 8) (w.extractLsb' 4 4) (w.extractLsb' 0 4)) else .error .reservedField
  | 0x60 => .ok (.atomB32 px (w.extractLsb' 16 8) (w.extractLsb' 8 8) (w.extractLsb' 4 4) (w.extractLsb' 0 4))
  | 0x61 => .ok (.atomB64 px (w.extractLsb' 16 8) (w.extractLsb' 8 8) (w.extractLsb' 4 4) (w.extractLsb' 0 4))
  | 0x62 => .ok (.atomCasB32 px (w.extractLsb' 16 8) (w.extractLsb' 8 8) (w.extractLsb' 4 4) (w.extractLsb' 0 4))
  | 0x63 => .ok (.atomCasB64 px (w.extractLsb' 16 8) (w.extractLsb' 8 8) (w.extractLsb' 4 4) (w.extractLsb' 0 4))
  | 0x64 => .ok (.atomCas128 px (w.extractLsb' 16 8) (w.extractLsb' 8 8) (w.extractLsb' 4 4) (w.extractLsb' 0 4))
  | 0x65 => .ok (.redB32 px (w.extractLsb' 16 8) (w.extractLsb' 8 8) (w.extractLsb' 4 4) (w.extractLsb' 0 4))
  | 0x66 => .ok (.redB64 px (w.extractLsb' 16 8) (w.extractLsb' 8 8) (w.extractLsb' 4 4) (w.extractLsb' 0 4))
  | 0x67 => .ok (.redF px (w.extractLsb' 16 8) (w.extractLsb' 8 8) (w.extractLsb' 4 4) (w.extractLsb' 2 2) (w.extractLsb' 0 2))
  | 0x68 => .ok (.redFFtz px (w.extractLsb' 16 8) (w.extractLsb' 8 8) (w.extractLsb' 4 4) (w.extractLsb' 2 2) (w.extractLsb' 0 2))
  | 0x69 => if w.extractLsb' 3 1 == 1 && w.extractLsb' 0 2 == 0 then .ok (.redFPair px (w.extractLsb' 16 8) (w.extractLsb' 8 8) (w.extractLsb' 4 4) (w.extractLsb' 2 1)) else .error .reservedField
  | 0x6A => if w.extractLsb' 0 16 == 0 then .ok (.rsvinit px (w.extractLsb' 16 8)) else .error .reservedField
  | 0x6B => .ok (.rsvupd px (w.extractLsb' 16 8) (w.extractLsb' 8 8) (w.extractLsb' 0 8))
  | 0x6C => .ok (.rsvmrg px (w.extractLsb' 16 8) (w.extractLsb' 8 8) (w.extractLsb' 0 8))
  | 0x6D => if w.extractLsb' 0 16 == 0 then .ok (.rsvnrm px (w.extractLsb' 16 8)) else .error .reservedField
  | 0x6E => .ok (.rsvld px (w.extractLsb' 16 8) (w.extractLsb' 8 8) (w.extractLsb' 4 4) (w.extractLsb' 0 4))
  | 0x6F => .ok (.rsvst px (w.extractLsb' 16 8) (w.extractLsb' 8 8) (w.extractLsb' 4 4) (w.extractLsb' 0 4))
  | 0x70 => .ok (.trace px (w.extractLsb' 16 8) (w.extractLsb' 8 8) (w.extractLsb' 0 8))
  | 0x71 => .ok (.traceocc px (w.extractLsb' 16 8) (w.extractLsb' 8 8) (w.extractLsb' 0 8))
  | 0x72 => .ok (.trres px (w.extractLsb' 16 8) (w.extractLsb' 8 8) (w.extractLsb' 0 8))
  | 0x73 => .ok (.ltwalk px (w.extractLsb' 16 8) (w.extractLsb' 8 8) (w.extractLsb' 0 8))
  | 0x74 => .ok (.rng px (w.extractLsb' 16 8) (w.extractLsb' 8 8) (w.extractLsb' 0 8))
  | 0x75 => if w.extractLsb' 16 8 == 0 then .ok (.osenter px (w.extractLsb' 8 8) (w.extractLsb' 0 8)) else .error .reservedField
  | 0x76 => if w.extractLsb' 19 5 == 0 then .ok (.osenterAny px (w.extractLsb' 16 3) (w.extractLsb' 8 8) (w.extractLsb' 0 8)) else .error .reservedField
  | 0x77 => if w.extractLsb' 16 8 == 0 then .ok (.osleave px (w.extractLsb' 8 8) (w.extractLsb' 0 8)) else .error .reservedField
  | 0x78 => .ok (.emit px (w.extractLsb' 16 8) (w.extractLsb' 8 8) (w.extractLsb' 4 4) (w.extractLsb' 0 4))
  | _ => .error .unassignedOpcode

/-- The instruction word of the uniform opcodes 0x00 to 0x3F (R147, Table 8); bits [31:24] select the arm. -/
def decodeUniformLow (px : Pfx) (w : Word) : Except DecodeError Instr :=
  match (w.extractLsb' 24 8).toNat with
  | 0x81 => if w.extractLsb' 1 5 == 0 then .ok (.sadd px (w.extractLsb' 18 6) (w.extractLsb' 12 6) (w.extractLsb' 6 6) (w.extractLsb' 0 1)) else .error .reservedField
  | 0x82 => if w.extractLsb' 1 5 == 0 then .ok (.ssub px (w.extractLsb' 18 6) (w.extractLsb' 12 6) (w.extractLsb' 6 6) (w.extractLsb' 0 1)) else .error .reservedField
  | 0x83 => if w.extractLsb' 1 5 == 0 then .ok (.smul px (w.extractLsb' 18 6) (w.extractLsb' 12 6) (w.extractLsb' 6 6) (w.extractLsb' 0 1)) else .error .reservedField
  | 0x84 => if w.extractLsb' 1 5 == 0 then .ok (.smulh px (w.extractLsb' 18 6) (w.extractLsb' 12 6) (w.extractLsb' 6 6) (w.extractLsb' 0 1)) else .error .reservedField
  | 0x85 => if w.extractLsb' 1 5 == 0 then .ok (.sand px (w.extractLsb' 18 6) (w.extractLsb' 12 6) (w.extractLsb' 6 6) (w.extractLsb' 0 1)) else .error .reservedField
  | 0x86 => if w.extractLsb' 1 5 == 0 then .ok (.sor px (w.extractLsb' 18 6) (w.extractLsb' 12 6) (w.extractLsb' 6 6) (w.extractLsb' 0 1)) else .error .reservedField
  | 0x87 => if w.extractLsb' 1 5 == 0 then .ok (.sxor px (w.extractLsb' 18 6) (w.extractLsb' 12 6) (w.extractLsb' 6 6) (w.extractLsb' 0 1)) else .error .reservedField
  | 0x88 => if w.extractLsb' 1 5 == 0 then .ok (.sshl px (w.extractLsb' 18 6) (w.extractLsb' 12 6) (w.extractLsb' 6 6) (w.extractLsb' 0 1)) else .error .reservedField
  | 0x89 => if w.extractLsb' 1 5 == 0 then .ok (.sshr px (w.extractLsb' 18 6) (w.extractLsb' 12 6) (w.extractLsb' 6 6) (w.extractLsb' 0 1)) else .error .reservedField
  | 0x8A => if w.extractLsb' 1 5 == 0 then .ok (.ssra px (w.extractLsb' 18 6) (w.extractLsb' 12 6) (w.extractLsb' 6 6) (w.extractLsb' 0 1)) else .error .reservedField
  | 0x8B => if w.extractLsb' 2 4 == 0 then .ok (.smin px (w.extractLsb' 18 6) (w.extractLsb' 12 6) (w.extractLsb' 6 6) (w.extractLsb' 1 1) (w.extractLsb' 0 1)) else .error .reservedField
  | 0x8C => if w.extractLsb' 2 4 == 0 then .ok (.smax px (w.extractLsb' 18 6) (w.extractLsb' 12 6) (w.extractLsb' 6 6) (w.extractLsb' 1 1) (w.extractLsb' 0 1)) else .error .reservedField
  | 0x8D => if w.extractLsb' 5 1 == 0 then .ok (.scmp px (w.extractLsb' 18 6) (w.extractLsb' 12 6) (w.extractLsb' 6 6) (w.extractLsb' 4 1) (w.extractLsb' 0 4)) else .error .reservedField
  | 0x8E => .ok (.ssel px (w.extractLsb' 18 6) (w.extractLsb' 12 6) (w.extractLsb' 6 6) (w.extractLsb' 0 6))
  | 0x8F => if w.extractLsb' 1 11 == 0 then .ok (.smov px (w.extractLsb' 18 6) (w.extractLsb' 12 6) (w.extractLsb' 0 1)) else .error .reservedField
  | 0x90 => .ok (.sli px (w.extractLsb' 18 6) (w.extractLsb' 0 18))
  | 0x91 => .ok (.slih px (w.extractLsb' 18 6) (w.extractLsb' 0 18))
  | 0x92 => if w.extractLsb' 0 12 == 0 then .ok (.spopc px (w.extractLsb' 18 6) (w.extractLsb' 12 6)) else .error .reservedField
  | 0x93 => if w.extractLsb' 0 12 == 0 then .ok (.sclz px (w.extractLsb' 18 6) (w.extractLsb' 12 6)) else .error .reservedField
  | 0x94 => if w.extractLsb' 1 5 == 0 then .ok (.sbfe px (w.extractLsb' 18 6) (w.extractLsb' 12 6) (w.extractLsb' 6 6) (w.extractLsb' 0 1)) else .error .reservedField
  | 0x95 => if w.extractLsb' 0 6 == 0 then .ok (.sfadd px (w.extractLsb' 18 6) (w.extractLsb' 12 6) (w.extractLsb' 6 6)) else .error .reservedField
  | 0x96 => if w.extractLsb' 0 6 == 0 then .ok (.sfmul px (w.extractLsb' 18 6) (w.extractLsb' 12 6) (w.extractLsb' 6 6)) else .error .reservedField
  | 0x97 => if w.extractLsb' 0 6 == 0 then .ok (.sffma px (w.extractLsb' 18 6) (w.extractLsb' 12 6) (w.extractLsb' 6 6)) else .error .reservedField
  | 0x98 => if w.extractLsb' 0 6 == 0 then .ok (.sfmin px (w.extractLsb' 18 6) (w.extractLsb' 12 6) (w.extractLsb' 6 6)) else .error .reservedField
  | 0x99 => if w.extractLsb' 0 6 == 0 then .ok (.sfmax px (w.extractLsb' 18 6) (w.extractLsb' 12 6) (w.extractLsb' 6 6)) else .error .reservedField
  | 0x9A => if w.extractLsb' 4 2 == 0 then .ok (.sfcmp px (w.extractLsb' 18 6) (w.extractLsb' 12 6) (w.extractLsb' 6 6) (w.extractLsb' 0 4)) else .error .reservedField
  | 0x9B => if w.extractLsb' 0 12 == 0 then .ok (.sfrcp px (w.extractLsb' 18 6) (w.extractLsb' 12 6)) else .error .reservedField
  | 0x9C => if w.extractLsb' 0 12 == 0 then .ok (.sfsqrt px (w.extractLsb' 18 6) (w.extractLsb' 12 6)) else .error .reservedField
  | 0x9D => if w.extractLsb' 10 2 == 0 && w.extractLsb' 4 2 == 0 then .ok (.sfcvt px (w.extractLsb' 18 6) (w.extractLsb' 12 6) (w.extractLsb' 6 4) (w.extractLsb' 0 4)) else .error .reservedField
  | 0xA0 => .ok (.sld (w.extractLsb' 18 6) (w.extractLsb' 12 6) (w.extractLsb' 9 3) (w.extractLsb' 0 9))
  | 0xA1 => .ok (.sst (w.extractLsb' 18 6) (w.extractLsb' 12 6) (w.extractLsb' 9 3) (w.extractLsb' 0 9))
  | 0xA2 => if w.extractLsb' 10 2 == 1 && w.extractLsb' 0 5 == 0 then .ok (.satom (w.extractLsb' 18 6) (w.extractLsb' 12 6) (w.extractLsb' 9 1) (w.extractLsb' 5 4)) else .error .reservedField
  | 0xA3 => if w.extractLsb' 22 2 == 0 && w.extractLsb' 9 3 == 4 then .ok (.recld (w.extractLsb' 18 4) (w.extractLsb' 12 6) (w.extractLsb' 0 9)) else .error .reservedField
  | 0xA4 => if w.extractLsb' 22 2 == 0 && w.extractLsb' 9 3 == 4 then .ok (.recst (w.extractLsb' 18 4) (w.extractLsb' 12 6) (w.extractLsb' 0 9)) else .error .reservedField
  | 0xA8 => if w.extractLsb' 21 3 == 0 then .ok (.br (w.extractLsb' 0 21)) else .error .reservedField
  | 0xA9 => .ok (.brw (w.extractLsb' 18 6) (w.extractLsb' 14 4) (w.extractLsb' 0 14))
  | 0xAA => .ok (.brany (w.extractLsb' 21 3) (w.extractLsb' 0 21))
  | 0xAB => .ok (.brall (w.extractLsb' 21 3) (w.extractLsb' 0 21))
  | 0xAC => .ok (.brnone (w.extractLsb' 21 3) (w.extractLsb' 0 21))
  | 0xAD => if w.extractLsb' 21 3 == 0 then .ok (.callU (w.extractLsb' 0 21)) else .error .reservedField
  | 0xAE => if w.extractLsb' 18 6 == 0 && w.extractLsb' 0 12 == 0 then .ok (.ret px (w.extractLsb' 12 6)) else .error .reservedField
  | 0xAF => if w.extractLsb' 18 6 == 0 && w.extractLsb' 0 6 == 0 then .ok (.jmpw px (w.extractLsb' 12 6) (w.extractLsb' 6 6)) else .error .reservedField
  | 0xB0 => if w.extractLsb' 14 4 == 0 then .ok (.loopW (w.extractLsb' 18 6) (w.extractLsb' 0 14)) else .error .reservedField
  | 0xB1 => if w.extractLsb' 0 24 == 0 then .ok (.exitL px) else .error .reservedField
  | 0xB2 => if w.extractLsb' 0 24 == 0 then .ok (.yield px) else .error .reservedField
  | 0xB3 => if w.extractLsb' 18 6 == 0 then .ok (.sleep px (w.extractLsb' 0 18)) else .error .reservedField
  | 0xB4 => if w.extractLsb' 0 24 == 0 then .ok (.nop px) else .error .reservedField
  | 0xB5 => if w.extractLsb' 16 8 == 0 then .ok (.trapU px (w.extractLsb' 0 16)) else .error .reservedField
  | 0xB8 => if w.extractLsb' 21 3 == 0 && w.extractLsb' 15 3 == 0 && w.extractLsb' 9 3 == 0 && w.extractLsb' 0 6 == 0 then .ok (.mand px (w.extractLsb' 18 3) (w.extractLsb' 12 3) (w.extractLsb' 6 3)) else .error .reservedField
  | 0xB9 => if w.extractLsb' 21 3 == 0 && w.extractLsb' 15 3 == 0 && w.extractLsb' 9 3 == 0 && w.extractLsb' 0 6 == 0 then .ok (.mor px (w.extractLsb' 18 3) (w.extractLsb' 12 3) (w.extractLsb' 6 3)) else .error .reservedField
  | 0xBA => if w.extractLsb' 21 3 == 0 && w.extractLsb' 15 3 == 0 && w.extractLsb' 9 3 == 0 && w.extractLsb' 0 6 == 0 then .ok (.mxor px (w.extractLsb' 18 3) (w.extractLsb' 12 3) (w.extractLsb' 6 3)) else .error .reservedField
  | 0xBB => if w.extractLsb' 21 3 == 0 && w.extractLsb' 15 3 == 0 && w.extractLsb' 9 3 == 0 && w.extractLsb' 0 6 == 0 then .ok (.mandn px (w.extractLsb' 18 3) (w.extractLsb' 12 3) (w.extractLsb' 6 3)) else .error .reservedField
  | 0xBC => if w.extractLsb' 21 3 == 0 && w.extractLsb' 15 3 == 0 && w.extractLsb' 0 12 == 0 then .ok (.mnot px (w.extractLsb' 18 3) (w.extractLsb' 12 3)) else .error .reservedField
  | 0xBD => if w.extractLsb' 21 3 == 0 && w.extractLsb' 15 3 == 0 && w.extractLsb' 0 12 == 0 then .ok (.mmov px (w.extractLsb' 18 3) (w.extractLsb' 12 3)) else .error .reservedField
  | 0xBE => if w.extractLsb' 15 3 == 0 && w.extractLsb' 0 12 == 0 then .ok (.mtow px (w.extractLsb' 18 6) (w.extractLsb' 12 3)) else .error .reservedField
  | 0xBF => if w.extractLsb' 21 3 == 0 && w.extractLsb' 0 12 == 0 then .ok (.wtom px (w.extractLsb' 18 3) (w.extractLsb' 12 6)) else .error .reservedField
  | _ => .error .unassignedOpcode

/-- The instruction word of the uniform opcodes 0x40 to 0x7C (R147, Table 8); bits [31:24] select the arm. -/
def decodeUniformHigh (px : Pfx) (w : Word) : Except DecodeError Instr :=
  match (w.extractLsb' 24 8).toNat with
  | 0xC0 => if w.extractLsb' 15 3 == 0 && w.extractLsb' 0 12 == 0 then .ok (.mpopc px (w.extractLsb' 18 6) (w.extractLsb' 12 3)) else .error .reservedField
  | 0xC1 => if w.extractLsb' 15 3 == 0 && w.extractLsb' 0 12 == 0 then .ok (.mffs px (w.extractLsb' 18 6) (w.extractLsb' 12 3)) else .error .reservedField
  | 0xC2 => if w.extractLsb' 8 10 == 0 then .ok (.srd px (w.extractLsb' 18 6) (w.extractLsb' 0 8)) else .error .reservedField
  | 0xC3 => if w.extractLsb' 8 10 == 0 then .ok (.swr px (w.extractLsb' 18 6) (w.extractLsb' 0 8)) else .error .reservedField
  | 0xC4 => if w.extractLsb' 0 24 == 0 then .ok (.rfe px) else .error .reservedField
  | 0xC5 => if w.extractLsb' 18 6 == 0 && w.extractLsb' 3 3 == 0 then .ok (.tlbinv px (w.extractLsb' 12 6) (w.extractLsb' 6 6) (w.extractLsb' 2 1) (w.extractLsb' 0 2)) else .error .reservedField
  | 0xC6 => if w.extractLsb' 0 12 == 0 then .ok (.frpop px (w.extractLsb' 18 6) (w.extractLsb' 12 6)) else .error .reservedField
  | 0xC7 => if w.extractLsb' 18 6 == 0 && w.extractLsb' 2 4 == 0 then .ok (.cflush px (w.extractLsb' 12 6) (w.extractLsb' 6 6) (w.extractLsb' 0 2)) else .error .reservedField
  | 0xC8 => if w.extractLsb' 0 6 == 0 then .ok (.ubres px (w.extractLsb' 18 6) (w.extractLsb' 12 6) (w.extractLsb' 6 6)) else .error .reservedField
  | 0xC9 => if w.extractLsb' 18 6 == 0 && w.extractLsb' 5 1 == 0 then .ok (.ubdisc px (w.extractLsb' 12 6) (w.extractLsb' 6 6) (w.extractLsb' 4 1) (w.extractLsb' 0 4)) else .error .reservedField
  | 0xCA => if w.extractLsb' 4 2 == 0 then .ok (.ubmig px (w.extractLsb' 18 6) (w.extractLsb' 12 6) (w.extractLsb' 6 6) (w.extractLsb' 0 4)) else .error .reservedField
  | 0xCB => if w.extractLsb' 4 14 == 0 then .ok (.roleget px (w.extractLsb' 18 6) (w.extractLsb' 0 4)) else .error .reservedField
  | 0xD0 => if w.extractLsb' 4 20 == 0 then .ok (.fence px (w.extractLsb' 3 1) (w.extractLsb' 0 3)) else .error .reservedField
  | 0xD1 => if w.extractLsb' 3 9 == 0 then .ok (.acq px (w.extractLsb' 18 6) (w.extractLsb' 12 6) (w.extractLsb' 0 3)) else .error .reservedField
  | 0xD2 => if w.extractLsb' 18 6 == 0 && w.extractLsb' 4 2 == 0 then .ok (.rel px (w.extractLsb' 12 6) (w.extractLsb' 6 6) (w.extractLsb' 3 1) (w.extractLsb' 0 3)) else .error .reservedField
  | 0xD3 => .ok (.bind px (w.extractLsb' 18 6) (w.extractLsb' 12 6) (w.extractLsb' 6 6) (w.extractLsb' 0 6))
  | 0xD4 => .ok (.unbind px (w.extractLsb' 18 6) (w.extractLsb' 12 6) (w.extractLsb' 6 6) (w.extractLsb' 0 6))
  | 0xD5 => if w.extractLsb' 4 20 == 0 && w.extractLsb' 2 1 == 0 then .ok (.bar px (w.extractLsb' 3 1) (w.extractLsb' 0 2)) else .error .reservedField
  | 0xD6 => if w.extractLsb' 3 3 == 0 then .ok (.tbarArrive px (w.extractLsb' 18 6) (w.extractLsb' 12 6) (w.extractLsb' 6 6) (w.extractLsb' 0 3)) else .error .reservedField
  | 0xD7 => if w.extractLsb' 18 6 == 0 && w.extractLsb' 0 6 == 0 then .ok (.tbarExpect px (w.extractLsb' 12 6) (w.extractLsb' 6 6)) else .error .reservedField
  | 0xD8 => if w.extractLsb' 0 6 == 0 then .ok (.tbarWait px (w.extractLsb' 18 6) (w.extractLsb' 12 6) (w.extractLsb' 6 6)) else .error .reservedField
  | 0xD9 => if w.extractLsb' 5 1 == 0 then .ok (.waitc px (w.extractLsb' 18 6) (w.extractLsb' 12 6) (w.extractLsb' 6 6) (w.extractLsb' 4 1) (w.extractLsb' 0 4)) else .error .reservedField
  | 0xDA => if w.extractLsb' 18 6 == 0 && w.extractLsb' 0 12 == 0 then .ok (.leaseW px (w.extractLsb' 12 6)) else .error .reservedField
  | 0xDB => if w.extractLsb' 18 6 == 0 && w.extractLsb' 0 6 == 0 then .ok (.ipf px (w.extractLsb' 12 6) (w.extractLsb' 6 6)) else .error .reservedField
  | 0xDC => if w.extractLsb' 4 8 == 0 then .ok (.cqput px (w.extractLsb' 18 6) (w.extractLsb' 12 6) (w.extractLsb' 0 4)) else .error .reservedField
  | 0xDD => if w.extractLsb' 0 18 == 0 then .ok (.cseal px (w.extractLsb' 18 6)) else .error .reservedField
  | 0xDE => if w.extractLsb' 0 12 == 0 then .ok (.cwait px (w.extractLsb' 18 6) (w.extractLsb' 12 6)) else .error .reservedField
  | 0xDF => if w.extractLsb' 0 12 == 0 then .ok (.ringawait px (w.extractLsb' 18 6) (w.extractLsb' 12 6)) else .error .reservedField
  | 0xE0 => if w.extractLsb' 18 6 == 0 && w.extractLsb' 0 6 == 0 then .ok (.ringrel px (w.extractLsb' 12 6) (w.extractLsb' 6 6)) else .error .reservedField
  | 0xE1 => if w.extractLsb' 0 12 == 0 then .ok (.ringpeek px (w.extractLsb' 18 6) (w.extractLsb' 12 6)) else .error .reservedField
  | 0xE2 => if w.extractLsb' 4 8 == 0 then .ok (.halox px (w.extractLsb' 18 6) (w.extractLsb' 12 6) (w.extractLsb' 0 4)) else .error .reservedField
  | 0xE3 => if w.extractLsb' 0 12 == 0 then .ok (.twl px (w.extractLsb' 18 6) (w.extractLsb' 12 6)) else .error .reservedField
  | 0xE4 => if w.extractLsb' 0 12 == 0 then .ok (.twlwait px (w.extractLsb' 18 6) (w.extractLsb' 12 6)) else .error .reservedField
  | 0xE8 => if w.extractLsb' 0 12 == 0 then .ok (.malloc px (w.extractLsb' 18 6) (w.extractLsb' 12 6)) else .error .reservedField
  | 0xE9 => if w.extractLsb' 18 6 == 0 && w.extractLsb' 0 12 == 0 then .ok (.mfree px (w.extractLsb' 12 6)) else .error .reservedField
  | 0xEA => if w.extractLsb' 3 21 == 0 then .ok (.mz px (w.extractLsb' 0 3)) else .error .reservedField
  | 0xEB => if w.extractLsb' 0 6 == 0 then .ok (.mma px (w.extractLsb' 18 6) (w.extractLsb' 12 6) (w.extractLsb' 6 6)) else .error .reservedField
  | 0xEC => if w.extractLsb' 0 7 == 0 then .ok (.mmaGath px (w.extractLsb' 18 6) (w.extractLsb' 12 6) (w.extractLsb' 7 5)) else .error .reservedField
  | 0xED => if w.extractLsb' 0 6 == 0 then .ok (.mmaImg px (w.extractLsb' 18 6) (w.extractLsb' 12 6) (w.extractLsb' 6 6)) else .error .reservedField
  | 0xEE => if w.extractLsb' 18 6 == 0 && w.extractLsb' 5 1 == 0 then .ok (.mdrain px (w.extractLsb' 12 6) (w.extractLsb' 6 6) (w.extractLsb' 3 2) (w.extractLsb' 0 3)) else if w.extractLsb' 3 9 == 4 then .ok (.mdrainFrz px (w.extractLsb' 18 6) (w.extractLsb' 12 6) (w.extractLsb' 0 3)) else if w.extractLsb' 0 6 == 40 then .ok (.mdrainFrzq px (w.extractLsb' 18 6) (w.extractLsb' 12 6) (w.extractLsb' 6 6)) else .error .reservedField
  | 0xEF => if w.extractLsb' 18 6 == 0 && w.extractLsb' 5 1 == 0 then .ok (.mload px (w.extractLsb' 12 6) (w.extractLsb' 6 6) (w.extractLsb' 3 2) (w.extractLsb' 0 3)) else if w.extractLsb' 3 3 == 4 then .ok (.mloadFrz px (w.extractLsb' 18 6) (w.extractLsb' 12 6) (w.extractLsb' 6 6) (w.extractLsb' 0 3)) else if w.extractLsb' 0 6 == 40 then .ok (.mloadFrzq px (w.extractLsb' 18 6) (w.extractLsb' 12 6) (w.extractLsb' 6 6)) else .error .reservedField
  | 0xF0 => if w.extractLsb' 0 18 == 0 then .ok (.msync px (w.extractLsb' 18 6)) else .error .reservedField
  | _ => .error .unassignedOpcode

/-- One instruction word, under its prefixes (R137, R138, R146, R147). -/
def decodeWord (px : Pfx) (w : Word) : Except DecodeError Instr :=
  if w.extractLsb' 31 1 == 0 then
    if w.extractLsb' 30 1 == 0 then decodeLaneLow px w else decodeLaneHigh px w
  else
    if w.extractLsb' 30 1 == 0 then decodeUniformLow px w else decodeUniformHigh px w

/-- The prefix kinds (R142, R143, R145). -/
inductive WordKind where
  | rpt | ext | lit | insn
  deriving DecidableEq, Repr

/-- The kind of a word: opcode 0x7D is `ext`, 0x7E `rpt` and 0x7F `lit`, all uniform (R147, Table 8). -/
def wordKind (w : Word) : WordKind :=
  let op := w.extractLsb' 24 8
  if op == 0xFD then .ext else if op == 0xFE then .rpt else if op == 0xFF then .lit else .insn

/-- An `ext` word (R142, Table 4); its reserved bits are zero. -/
def decodeExt (w : Word) : Except DecodeError Ext :=
  if w.extractLsb' 0 11 == 0 then
    .ok ⟨w.extractLsb' 21 3, w.getLsbD 20, w.getLsbD 19, w.getLsbD 18, w.getLsbD 17, w.getLsbD 16, w.getLsbD 15,
      w.extractLsb' 12 3, w.getLsbD 11⟩
  else .error .reservedField

/-- A `rpt` word (R143, Table 5); its reserved bits are zero. -/
def decodeRpt (w : Word) : Except DecodeError Rpt :=
  if w.extractLsb' 0 4 == 0 then
    .ok ⟨w.extractLsb' 16 8, w.extractLsb' 12 4, w.extractLsb' 8 4, w.extractLsb' 4 4⟩
  else .error .reservedField

/-- The end of a sequence, from its instruction word on: the word after the instruction word decides whether a literal
follows (R136, R145). The answer carries the words the sequence takes beyond its prefixes. -/
def decodeBody (rpt : Option Rpt) (ext : Option Ext) (ws : List Word) : Except DecodeError (Instr × Nat) :=
  match ws with
  | [] => .error .truncated
  | w :: rest =>
    if wordKind w != .insn then .error .misplacedPrefix
    else
      match decodeWord ⟨rpt, ext, none⟩ w with
      | .error e => .error e
      | .ok _ =>
        match rest with
        | [] => .error .truncated
        | y :: rest' =>
          if wordKind y == .lit then
            if y.extractLsb' 0 24 != 0 then .error .reservedField
            else
              match rest' with
              | [] => .error .truncated
              | l :: _ =>
                match decodeWord ⟨rpt, ext, some l⟩ w with
                | .error e => .error e
                | .ok i => if i.px == ⟨rpt, ext, some l⟩ then .ok (i, 3) else .error .misplacedPrefix
          else
            match decodeWord ⟨rpt, ext, none⟩ w with
            | .error e => .error e
            | .ok i => if i.px == ⟨rpt, ext, none⟩ then .ok (i, 1) else .error .misplacedPrefix

/-- A sequence from its optional `ext` on (R136). -/
def decodeFromExt (rpt : Option Rpt) (ws : List Word) : Except DecodeError (Instr × Nat) :=
  match ws with
  | [] => .error .truncated
  | w :: rest =>
    if wordKind w == .ext then
      match decodeExt w with
      | .error e => .error e
      | .ok x =>
        match decodeBody rpt (some x) rest with
        | .error e => .error e
        | .ok (i, n) => .ok (i, n + 1)
    else decodeBody rpt none ws

/-- An instruction sequence from the words at the program counter (R136): the instruction with its prefixes, and the number
of words the sequence takes. `truncated` says that a further word decides. -/
def decodeSeq (ws : List Word) : Except DecodeError (Instr × Nat) :=
  match ws with
  | [] => .error .truncated
  | w :: rest =>
    if wordKind w == .rpt then
      match decodeRpt w with
      | .error e => .error e
      | .ok r =>
        match decodeFromExt (some r) rest with
        | .error e => .error e
        | .ok (i, n) => .ok (i, n + 1)
    else decodeFromExt none ws

/-- The index of the literal in a sequence of `n` words: the literal is the last word, when there is one (R136). -/
def literalIndex (i : Instr) (n : Nat) : Option Nat := if i.px.lit.isSome then some (n - 1) else none

/-- The word whose fields are given from bit 31 down. -/
def wordOf {n : Nat} (x : BitVec n) (h : n = 32 := by rfl) : Word := x.cast h

/-- The fields of `wordOf` are those of its argument. -/
@[simp] theorem wordOf_extract {n : Nat} (x : BitVec n) (h : n = 32) (s l : Nat) :
    (wordOf x h).extractLsb' s l = x.extractLsb' s l := by
  subst h
  rfl

/-- The bits of `wordOf` are those of its argument. -/
@[simp] theorem wordOf_bit {n : Nat} (x : BitVec n) (h : n = 32) (i : Nat) : (wordOf x h).getLsbD i = x.getLsbD i := by
  subst h
  rfl

/-- The instruction word of an instruction (R137 to R139, R146, R147); an event has no word. -/
def encodeWord : Instr → Word
  | .iadd _ d a b => wordOf (0x1#8 ++ d ++ a ++ b)
  | .iaddc _ d a b => wordOf (0x2#8 ++ d ++ a ++ b)
  | .isub _ d a b => wordOf (0x3#8 ++ d ++ a ++ b)
  | .isubb _ d a b => wordOf (0x4#8 ++ d ++ a ++ b)
  | .imul _ d a b => wordOf (0x5#8 ++ d ++ a ++ b)
  | .imulh _ d a b => wordOf (0x6#8 ++ d ++ a ++ b)
  | .imulhn _ d a b => wordOf (0x7#8 ++ d ++ a ++ b)
  | .imad _ d a b => wordOf (0x8#8 ++ d ++ a ++ b)
  | .iabs _ d a => wordOf (0x9#8 ++ d ++ a ++ 0x0#8)
  | .imin _ d a b => wordOf (0xA#8 ++ d ++ a ++ b)
  | .imax _ d a b => wordOf (0xB#8 ++ d ++ a ++ b)
  | .iminn _ d a b => wordOf (0xC#8 ++ d ++ a ++ b)
  | .imaxn _ d a b => wordOf (0xD#8 ++ d ++ a ++ b)
  | .icmp _ c m a b => wordOf (0xE#8 ++ c ++ 0x0#1 ++ m ++ a ++ b)
  | .selL _ d a b => wordOf (0xF#8 ++ d ++ a ++ b)
  | .andL _ d a b => wordOf (0x10#8 ++ d ++ a ++ b)
  | .orL _ d a b => wordOf (0x11#8 ++ d ++ a ++ b)
  | .xorL _ d a b => wordOf (0x12#8 ++ d ++ a ++ b)
  | .andn _ d a b => wordOf (0x13#8 ++ d ++ a ++ b)
  | .notL _ d a => wordOf (0x14#8 ++ d ++ a ++ 0x0#8)
  | .shl _ d a b => wordOf (0x15#8 ++ d ++ a ++ b)
  | .shr _ d a b => wordOf (0x16#8 ++ d ++ a ++ b)
  | .sra _ d a b => wordOf (0x17#8 ++ d ++ a ++ b)
  | .rotl _ d a b => wordOf (0x18#8 ++ d ++ a ++ b)
  | .popc _ d a => wordOf (0x19#8 ++ d ++ a ++ 0x0#8)
  | .clz _ d a => wordOf (0x1A#8 ++ d ++ a ++ 0x0#8)
  | .ctz _ d a => wordOf (0x1B#8 ++ d ++ a ++ 0x0#8)
  | .brev _ d a => wordOf (0x1C#8 ++ d ++ a ++ 0x0#8)
  | .bfe _ d a b => wordOf (0x1D#8 ++ d ++ a ++ b)
  | .bfes _ d a b => wordOf (0x1E#8 ++ d ++ a ++ b)
  | .bfi _ d a b => wordOf (0x1F#8 ++ d ++ a ++ b)
  | .mov _ d a => wordOf (0x20#8 ++ d ++ a ++ 0x0#8)
  | .movw _ d a => wordOf (0x21#8 ++ d ++ a ++ 0x0#8)
  | .movi _ d i => wordOf (0x22#8 ++ d ++ i)
  | .lid _ d k => wordOf (0x23#8 ++ d ++ 0x0#8 ++ k)
  | .fadd _ d a b => wordOf (0x24#8 ++ d ++ a ++ b)
  | .fsub _ d a b => wordOf (0x25#8 ++ d ++ a ++ b)
  | .fmul _ d a b => wordOf (0x26#8 ++ d ++ a ++ b)
  | .ffma _ d a b => wordOf (0x27#8 ++ d ++ a ++ b)
  | .fmin _ d a b => wordOf (0x28#8 ++ d ++ a ++ b)
  | .fmax _ d a b => wordOf (0x29#8 ++ d ++ a ++ b)
  | .fcmp _ c m a b => wordOf (0x2A#8 ++ c ++ 0x0#1 ++ m ++ a ++ b)
  | .fdiv _ d a b => wordOf (0x2B#8 ++ d ++ a ++ b)
  | .frcp _ d a => wordOf (0x2C#8 ++ d ++ a ++ 0x0#8)
  | .frsq _ d a => wordOf (0x2D#8 ++ d ++ a ++ 0x0#8)
  | .fsqrt _ d a => wordOf (0x2E#8 ++ d ++ a ++ 0x0#8)
  | .fexp2 _ d a => wordOf (0x2F#8 ++ d ++ a ++ 0x0#8)
  | .flog2 _ d a => wordOf (0x30#8 ++ d ++ a ++ 0x0#8)
  | .fsinr _ d a => wordOf (0x31#8 ++ d ++ a ++ 0x0#8)
  | .fcosr _ d a => wordOf (0x32#8 ++ d ++ a ++ 0x0#8)
  | .frnd _ d a => wordOf (0x33#8 ++ d ++ a ++ 0x0#8)
  | .ffrac _ d a => wordOf (0x34#8 ++ d ++ a ++ 0x0#8)
  | .dadd _ d a b => wordOf (0x35#8 ++ d ++ a ++ b)
  | .dmul _ d a b => wordOf (0x36#8 ++ d ++ a ++ b)
  | .dfma _ d a b => wordOf (0x37#8 ++ d ++ a ++ b)
  | .hadd2 _ d a b => wordOf (0x38#8 ++ d ++ a ++ b)
  | .hmul2 _ d a b => wordOf (0x39#8 ++ d ++ a ++ b)
  | .hfma2 _ d a b => wordOf (0x3A#8 ++ d ++ a ++ b)
  | .badd2 _ d a b => wordOf (0x3B#8 ++ d ++ a ++ b)
  | .bmul2 _ d a b => wordOf (0x3C#8 ++ d ++ a ++ b)
  | .bfma2 _ d a b => wordOf (0x3D#8 ++ d ++ a ++ b)
  | .fdot2b _ d a b => wordOf (0x3E#8 ++ d ++ a ++ b)
  | .cvt _ d a t s => wordOf (0x3F#8 ++ d ++ a ++ t ++ s)
  | .ddx _ d a => wordOf (0x40#8 ++ d ++ a ++ 0x0#8)
  | .ddy _ d a => wordOf (0x41#8 ++ d ++ a ++ 0x0#8)
  | .shfl _ d a b => wordOf (0x42#8 ++ d ++ a ++ b)
  | .shflUp _ d a n => wordOf (0x43#8 ++ d ++ a ++ n)
  | .shflDown _ d a n => wordOf (0x44#8 ++ d ++ a ++ n)
  | .shflXor _ d a n => wordOf (0x45#8 ++ d ++ a ++ n)
  | .bcast _ d a n => wordOf (0x46#8 ++ d ++ a ++ n)
  | .vany _ d a => wordOf (0x47#8 ++ d ++ a ++ 0x0#8)
  | .vall _ d a => wordOf (0x48#8 ++ d ++ a ++ 0x0#8)
  | .ballot _ m a => wordOf (0x49#8 ++ 0x0#5 ++ m ++ a ++ 0x0#8)
  | .redadd _ d a => wordOf (0x4A#8 ++ d ++ a ++ 0x0#8)
  | .redfadd _ d a => wordOf (0x4B#8 ++ d ++ a ++ 0x0#8)
  | .redmin _ d a => wordOf (0x4C#8 ++ d ++ a ++ 0x0#8)
  | .redmax _ d a => wordOf (0x4D#8 ++ d ++ a ++ 0x0#8)
  | .redminIdx _ d a b => wordOf (0x4E#8 ++ d ++ a ++ b)
  | .redmaxIdx _ d a b => wordOf (0x4F#8 ++ d ++ a ++ b)
  | .scanadd _ d a => wordOf (0x50#8 ++ d ++ a ++ 0x0#8)
  | .mcount _ d m => wordOf (0x51#8 ++ d ++ 0x0#5 ++ m ++ 0x0#8)
  | .regroup _ d a b => wordOf (0x52#8 ++ d ++ a ++ b)
  | .ldB8 _ d x b f => wordOf (0x54#8 ++ d ++ x ++ b ++ f)
  | .ldB16 _ d x b f => wordOf (0x55#8 ++ d ++ x ++ b ++ f)
  | .ldB32 _ d x b f => wordOf (0x56#8 ++ d ++ x ++ b ++ f)
  | .ldB64 _ d x b f => wordOf (0x57#8 ++ d ++ x ++ b ++ f)
  | .ldB128 _ d x b f => wordOf (0x58#8 ++ d ++ x ++ b ++ f)
  | .stB8 _ s x b f => wordOf (0x59#8 ++ s ++ x ++ b ++ f)
  | .stB16 _ s x b f => wordOf (0x5A#8 ++ s ++ x ++ b ++ f)
  | .stB32 _ s x b f => wordOf (0x5B#8 ++ s ++ x ++ b ++ f)
  | .stB64 _ s x b f => wordOf (0x5C#8 ++ s ++ x ++ b ++ f)
  | .stB128 _ s x b f => wordOf (0x5D#8 ++ s ++ x ++ b ++ f)
  | .pf _ x b f => wordOf (0x5E#8 ++ 0x0#8 ++ x ++ b ++ f)
  | .atomB32 _ d x b p => wordOf (0x60#8 ++ d ++ x ++ b ++ p)
  | .atomB64 _ d x b p => wordOf (0x61#8 ++ d ++ x ++ b ++ p)
  | .atomCasB32 _ d x b f => wordOf (0x62#8 ++ d ++ x ++ b ++ f)
  | .atomCasB64 _ d x b f => wordOf (0x63#8 ++ d ++ x ++ b ++ f)
  | .atomCas128 _ d x b f => wordOf (0x64#8 ++ d ++ x ++ b ++ f)
  | .redB32 _ s x b p => wordOf (0x65#8 ++ s ++ x ++ b ++ p)
  | .redB64 _ s x b p => wordOf (0x66#8 ++ s ++ x ++ b ++ p)
  | .redF _ s x b t p => wordOf (0x67#8 ++ s ++ x ++ b ++ t ++ p)
  | .redFFtz _ s x b t p => wordOf (0x68#8 ++ s ++ x ++ b ++ t ++ p)
  | .redFPair _ s x b t => wordOf (0x69#8 ++ s ++ x ++ b ++ 0x1#1 ++ t ++ 0x0#2)
  | .rsvinit _ d => wordOf (0x6A#8 ++ d ++ 0x0#16)
  | .rsvupd _ d a b => wordOf (0x6B#8 ++ d ++ a ++ b)
  | .rsvmrg _ d a b => wordOf (0x6C#8 ++ d ++ a ++ b)
  | .rsvnrm _ d => wordOf (0x6D#8 ++ d ++ 0x0#16)
  | .rsvld _ d x b f => wordOf (0x6E#8 ++ d ++ x ++ b ++ f)
  | .rsvst _ s x b f => wordOf (0x6F#8 ++ s ++ x ++ b ++ f)
  | .trace _ d a b => wordOf (0x70#8 ++ d ++ a ++ b)
  | .traceocc _ d a b => wordOf (0x71#8 ++ d ++ a ++ b)
  | .trres _ d a b => wordOf (0x72#8 ++ d ++ a ++ b)
  | .ltwalk _ d a b => wordOf (0x73#8 ++ d ++ a ++ b)
  | .rng _ d a b => wordOf (0x74#8 ++ d ++ a ++ b)
  | .osenter _ a b => wordOf (0x75#8 ++ 0x0#8 ++ a ++ b)
  | .osenterAny _ m a b => wordOf (0x76#8 ++ 0x0#5 ++ m ++ a ++ b)
  | .osleave _ a b => wordOf (0x77#8 ++ 0x0#8 ++ a ++ b)
  | .emit _ s x b f => wordOf (0x78#8 ++ s ++ x ++ b ++ f)
  | .sadd _ d a b x => wordOf (0x81#8 ++ d ++ a ++ b ++ 0x0#5 ++ x)
  | .ssub _ d a b x => wordOf (0x82#8 ++ d ++ a ++ b ++ 0x0#5 ++ x)
  | .smul _ d a b x => wordOf (0x83#8 ++ d ++ a ++ b ++ 0x0#5 ++ x)
  | .smulh _ d a b n => wordOf (0x84#8 ++ d ++ a ++ b ++ 0x0#5 ++ n)
  | .sand _ d a b x => wordOf (0x85#8 ++ d ++ a ++ b ++ 0x0#5 ++ x)
  | .sor _ d a b x => wordOf (0x86#8 ++ d ++ a ++ b ++ 0x0#5 ++ x)
  | .sxor _ d a b x => wordOf (0x87#8 ++ d ++ a ++ b ++ 0x0#5 ++ x)
  | .sshl _ d a b x => wordOf (0x88#8 ++ d ++ a ++ b ++ 0x0#5 ++ x)
  | .sshr _ d a b x => wordOf (0x89#8 ++ d ++ a ++ b ++ 0x0#5 ++ x)
  | .ssra _ d a b x => wordOf (0x8A#8 ++ d ++ a ++ b ++ 0x0#5 ++ x)
  | .smin _ d a b n x => wordOf (0x8B#8 ++ d ++ a ++ b ++ 0x0#4 ++ n ++ x)
  | .smax _ d a b n x => wordOf (0x8C#8 ++ d ++ a ++ b ++ 0x0#4 ++ n ++ x)
  | .scmp _ d a b x c => wordOf (0x8D#8 ++ d ++ a ++ b ++ 0x0#1 ++ x ++ c)
  | .ssel _ d a b c => wordOf (0x8E#8 ++ d ++ a ++ b ++ c)
  | .smov _ d a x => wordOf (0x8F#8 ++ d ++ a ++ 0x0#11 ++ x)
  | .sli _ d i => wordOf (0x90#8 ++ d ++ i)
  | .slih _ d i => wordOf (0x91#8 ++ d ++ i)
  | .spopc _ d a => wordOf (0x92#8 ++ d ++ a ++ 0x0#12)
  | .sclz _ d a => wordOf (0x93#8 ++ d ++ a ++ 0x0#12)
  | .sbfe _ d a b s => wordOf (0x94#8 ++ d ++ a ++ b ++ 0x0#5 ++ s)
  | .sfadd _ d a b => wordOf (0x95#8 ++ d ++ a ++ b ++ 0x0#6)
  | .sfmul _ d a b => wordOf (0x96#8 ++ d ++ a ++ b ++ 0x0#6)
  | .sffma _ d a b => wordOf (0x97#8 ++ d ++ a ++ b ++ 0x0#6)
  | .sfmin _ d a b => wordOf (0x98#8 ++ d ++ a ++ b ++ 0x0#6)
  | .sfmax _ d a b => wordOf (0x99#8 ++ d ++ a ++ b ++ 0x0#6)
  | .sfcmp _ d a b c => wordOf (0x9A#8 ++ d ++ a ++ b ++ 0x0#2 ++ c)
  | .sfrcp _ d a => wordOf (0x9B#8 ++ d ++ a ++ 0x0#12)
  | .sfsqrt _ d a => wordOf (0x9C#8 ++ d ++ a ++ 0x0#12)
  | .sfcvt _ d a t s => wordOf (0x9D#8 ++ d ++ a ++ 0x0#2 ++ t ++ 0x0#2 ++ s)
  | .sld d a z f => wordOf (0xA0#8 ++ d ++ a ++ z ++ f)
  | .sst s a z f => wordOf (0xA1#8 ++ s ++ a ++ z ++ f)
  | .satom d a z p => wordOf (0xA2#8 ++ d ++ a ++ 0x1#2 ++ z ++ p ++ 0x0#5)
  | .recld b a f => wordOf (0xA3#8 ++ 0x0#2 ++ b ++ a ++ 0x4#3 ++ f)
  | .recst b a f => wordOf (0xA4#8 ++ 0x0#2 ++ b ++ a ++ 0x4#3 ++ f)
  | .br d => wordOf (0xA8#8 ++ 0x0#3 ++ d)
  | .brw a c d => wordOf (0xA9#8 ++ a ++ c ++ d)
  | .brany m d => wordOf (0xAA#8 ++ m ++ d)
  | .brall m d => wordOf (0xAB#8 ++ m ++ d)
  | .brnone m d => wordOf (0xAC#8 ++ m ++ d)
  | .callU d => wordOf (0xAD#8 ++ 0x0#3 ++ d)
  | .ret _ a => wordOf (0xAE#8 ++ 0x0#6 ++ a ++ 0x0#12)
  | .jmpw _ a b => wordOf (0xAF#8 ++ 0x0#6 ++ a ++ b ++ 0x0#6)
  | .loopW a d => wordOf (0xB0#8 ++ a ++ 0x0#4 ++ d)
  | .exitL _ => wordOf (0xB1#8 ++ 0x0#24)
  | .yield _ => wordOf (0xB2#8 ++ 0x0#24)
  | .sleep _ n => wordOf (0xB3#8 ++ 0x0#6 ++ n)
  | .nop _ => wordOf (0xB4#8 ++ 0x0#24)
  | .trapU _ n => wordOf (0xB5#8 ++ 0x0#8 ++ n)
  | .mand _ d a b => wordOf (0xB8#8 ++ 0x0#3 ++ d ++ 0x0#3 ++ a ++ 0x0#3 ++ b ++ 0x0#6)
  | .mor _ d a b => wordOf (0xB9#8 ++ 0x0#3 ++ d ++ 0x0#3 ++ a ++ 0x0#3 ++ b ++ 0x0#6)
  | .mxor _ d a b => wordOf (0xBA#8 ++ 0x0#3 ++ d ++ 0x0#3 ++ a ++ 0x0#3 ++ b ++ 0x0#6)
  | .mandn _ d a b => wordOf (0xBB#8 ++ 0x0#3 ++ d ++ 0x0#3 ++ a ++ 0x0#3 ++ b ++ 0x0#6)
  | .mnot _ d a => wordOf (0xBC#8 ++ 0x0#3 ++ d ++ 0x0#3 ++ a ++ 0x0#12)
  | .mmov _ d a => wordOf (0xBD#8 ++ 0x0#3 ++ d ++ 0x0#3 ++ a ++ 0x0#12)
  | .mtow _ d a => wordOf (0xBE#8 ++ d ++ 0x0#3 ++ a ++ 0x0#12)
  | .wtom _ d a => wordOf (0xBF#8 ++ 0x0#3 ++ d ++ a ++ 0x0#12)
  | .mpopc _ d a => wordOf (0xC0#8 ++ d ++ 0x0#3 ++ a ++ 0x0#12)
  | .mffs _ d a => wordOf (0xC1#8 ++ d ++ 0x0#3 ++ a ++ 0x0#12)
  | .srd _ d n => wordOf (0xC2#8 ++ d ++ 0x0#10 ++ n)
  | .swr _ s n => wordOf (0xC3#8 ++ s ++ 0x0#10 ++ n)
  | .rfe _ => wordOf (0xC4#8 ++ 0x0#24)
  | .tlbinv _ a b s k => wordOf (0xC5#8 ++ 0x0#6 ++ a ++ b ++ 0x0#3 ++ s ++ k)
  | .frpop _ d a => wordOf (0xC6#8 ++ d ++ a ++ 0x0#12)
  | .cflush _ a b k => wordOf (0xC7#8 ++ 0x0#6 ++ a ++ b ++ 0x0#4 ++ k)
  | .ubres _ d a b => wordOf (0xC8#8 ++ d ++ a ++ b ++ 0x0#6)
  | .ubdisc _ a b s n => wordOf (0xC9#8 ++ 0x0#6 ++ a ++ b ++ 0x0#1 ++ s ++ n)
  | .ubmig _ d a b n => wordOf (0xCA#8 ++ d ++ a ++ b ++ 0x0#2 ++ n)
  | .roleget _ d r => wordOf (0xCB#8 ++ d ++ 0x0#14 ++ r)
  | .fence _ i s => wordOf (0xD0#8 ++ 0x0#20 ++ i ++ s)
  | .acq _ d a s => wordOf (0xD1#8 ++ d ++ a ++ 0x0#9 ++ s)
  | .rel _ a b x s => wordOf (0xD2#8 ++ 0x0#6 ++ a ++ b ++ 0x0#2 ++ x ++ s)
  | .bind _ d a b k => wordOf (0xD3#8 ++ d ++ a ++ b ++ k)
  | .unbind _ d a b k => wordOf (0xD4#8 ++ d ++ a ++ b ++ k)
  | .bar _ i l => wordOf (0xD5#8 ++ 0x0#20 ++ i ++ 0x0#1 ++ l)
  | .tbarArrive _ d a b s => wordOf (0xD6#8 ++ d ++ a ++ b ++ 0x0#3 ++ s)
  | .tbarExpect _ a b => wordOf (0xD7#8 ++ 0x0#6 ++ a ++ b ++ 0x0#6)
  | .tbarWait _ d a b => wordOf (0xD8#8 ++ d ++ a ++ b ++ 0x0#6)
  | .waitc _ d a b x c => wordOf (0xD9#8 ++ d ++ a ++ b ++ 0x0#1 ++ x ++ c)
  | .leaseW _ a => wordOf (0xDA#8 ++ 0x0#6 ++ a ++ 0x0#12)
  | .ipf _ a b => wordOf (0xDB#8 ++ 0x0#6 ++ a ++ b ++ 0x0#6)
  | .cqput _ d a r => wordOf (0xDC#8 ++ d ++ a ++ 0x0#8 ++ r)
  | .cseal _ d => wordOf (0xDD#8 ++ d ++ 0x0#18)
  | .cwait _ d a => wordOf (0xDE#8 ++ d ++ a ++ 0x0#12)
  | .ringawait _ d a => wordOf (0xDF#8 ++ d ++ a ++ 0x0#12)
  | .ringrel _ a b => wordOf (0xE0#8 ++ 0x0#6 ++ a ++ b ++ 0x0#6)
  | .ringpeek _ d a => wordOf (0xE1#8 ++ d ++ a ++ 0x0#12)
  | .halox _ d a r => wordOf (0xE2#8 ++ d ++ a ++ 0x0#8 ++ r)
  | .twl _ d a => wordOf (0xE3#8 ++ d ++ a ++ 0x0#12)
  | .twlwait _ d a => wordOf (0xE4#8 ++ d ++ a ++ 0x0#12)
  | .malloc _ d a => wordOf (0xE8#8 ++ d ++ a ++ 0x0#12)
  | .mfree _ a => wordOf (0xE9#8 ++ 0x0#6 ++ a ++ 0x0#12)
  | .mz _ n => wordOf (0xEA#8 ++ 0x0#21 ++ n)
  | .mma _ d a b => wordOf (0xEB#8 ++ d ++ a ++ b ++ 0x0#6)
  | .mmaGath _ d a g => wordOf (0xEC#8 ++ d ++ a ++ g ++ 0x0#7)
  | .mmaImg _ d a b => wordOf (0xED#8 ++ d ++ a ++ b ++ 0x0#6)
  | .mdrain _ a b k n => wordOf (0xEE#8 ++ 0x0#6 ++ a ++ b ++ 0x0#1 ++ k ++ n)
  | .mdrainFrz _ d a t => wordOf (0xEE#8 ++ d ++ a ++ 0x4#9 ++ t)
  | .mdrainFrzq _ d a b => wordOf (0xEE#8 ++ d ++ a ++ b ++ 0x28#6)
  | .mload _ a b k n => wordOf (0xEF#8 ++ 0x0#6 ++ a ++ b ++ 0x0#1 ++ k ++ n)
  | .mloadFrz _ d a b t => wordOf (0xEF#8 ++ d ++ a ++ b ++ 0x4#3 ++ t)
  | .mloadFrzq _ d a b => wordOf (0xEF#8 ++ d ++ a ++ b ++ 0x28#6)
  | .msync _ d => wordOf (0xF0#8 ++ d ++ 0x0#18)
  | _ => 0

/-- The word of an `ext` prefix (R142, Table 4). -/
def encodeExt (e : Ext) : Word :=
  wordOf (0xFD#8 ++ e.pred ++ BitVec.ofBool e.pinv ++ BitVec.ofBool e.tea ++ BitVec.ofBool e.teb ++ BitVec.ofBool e.ted
    ++ BitVec.ofBool e.ua ++ BitVec.ofBool e.ub ++ e.rmo ++ BitVec.ofBool e.sat ++ 0#11)

/-- The word of a `rpt` prefix (R143, Table 5). -/
def encodeRpt (r : Rpt) : Word := 0xFE#8 ++ r.count ++ r.sd ++ r.sa ++ r.sb ++ 0#4

/-- The words of an instruction sequence, in the order of R136. -/
def encode (i : Instr) : List Word :=
  (match i.px.rpt with | some r => [encodeRpt r] | none => [])
    ++ (match i.px.ext with | some e => [encodeExt e] | none => [])
    ++ [encodeWord i]
    ++ (match i.px.lit with | some l => [0xFF000000, l] | none => [])

/-- The little-endian words of a byte string (R136); a last short group is dropped. -/
def wordsOfBytes : List Byte → List Word
  | b0 :: b1 :: b2 :: b3 :: rest => (b3 ++ b2 ++ b1 ++ b0) :: wordsOfBytes rest
  | _ => []

/-- The little-endian bytes of a word. -/
def bytesOfWord (w : Word) : List Byte :=
  [w.extractLsb' 0 8, w.extractLsb' 8 8, w.extractLsb' 16 8, w.extractLsb' 24 8]

/-- The bytes at the program counter of a sequence whose word is `w` (numbered as the opcode table numbers its bits), with
the `n` words after it zero. -/
def tableBytes (w n : Nat) : List Byte :=
  bytesOfWord (BitVec.ofNat 32 w) ++ (List.replicate n (bytesOfWord 0)).flatten

/-- The instruction the decoder reads from an opcode-table word. The table gives every row 32 bits; the words after it are
zero. -/
def decodeTableWord (nbits w : Nat) : Option Instr :=
  if nbits ≤ 32 then
    match decodeSeq (wordsOfBytes (tableBytes w 4)) with
    | .ok (i, _) => some i
    | .error _ => none
  else none

end Sys2Proof
end

