-- ==== Sys2Proof/Machine/Num.lean ====
section
/-! DEFINITION. Number formats and exact arithmetic (R152 to R177): formats, decoding, rounding in the four modes with the
sticky flags, the IEEE operations, comparisons, and the conversions. Every result is computed exactly, in integers, and
rounded once. -/

namespace Sys2Proof.Machine

open Sys2Proof

/-! ### Flags (R129, R164) -/

/-- The sticky flags, in the places of sr.fpflags. -/
abbrev Flags := BitVec 6

/-- Invalid. -/
def flagNV : Flags := 1
/-- Divide by zero. -/
def flagDZ : Flags := 2
/-- Overflow. -/
def flagOF : Flags := 4
/-- Underflow. -/
def flagUF : Flags := 8
/-- Inexact. -/
def flagNX : Flags := 16
/-- Derivative with no partner. -/
def flagDERIV : Flags := 32

/-- A flag, when the condition holds. -/
def flagIf (c : Bool) (f : Flags) : Flags := if c then f else 0

/-! ### Formats (R152, Table 1) -/

/-- A floating-point format: exponent bits, fraction bits, bias. E4M3 has no infinities. -/
structure Fmt where
  ebits : Nat
  fbits : Nat
  bias : Nat
  e4m3 : Bool
  deriving DecidableEq, Repr

/-- Binary64. -/
def fp64 : Fmt := ⟨11, 52, 1023, false⟩
/-- Binary32. -/
def fp32 : Fmt := ⟨8, 23, 127, false⟩
/-- Binary16. -/
def fp16 : Fmt := ⟨5, 10, 15, false⟩
/-- BF16, the upper half of binary32. -/
def bf16 : Fmt := ⟨8, 7, 127, false⟩
/-- E4M3. -/
def e4m3 : Fmt := ⟨4, 3, 7, true⟩
/-- E5M2. -/
def e5m2 : Fmt := ⟨5, 2, 15, false⟩

/-- The width of a format. -/
def Fmt.width (f : Fmt) : Nat := 1 + f.ebits + f.fbits
/-- The sign bit in place. -/
def Fmt.signBit (f : Fmt) (neg : Bool) : Nat := if neg then 2 ^ (f.ebits + f.fbits) else 0
/-- The canonical NaN (Table 1). -/
def Fmt.canon (f : Fmt) : Nat :=
  if f.e4m3 then 0x7F else (2 ^ f.ebits - 1) * 2 ^ f.fbits + 2 ^ (f.fbits - 1)
/-- An infinity. -/
def Fmt.inf (f : Fmt) (neg : Bool) : Nat := f.signBit neg + (2 ^ f.ebits - 1) * 2 ^ f.fbits
/-- The largest finite magnitude with a sign. -/
def Fmt.maxFinite (f : Fmt) (neg : Bool) : Nat :=
  f.signBit neg + (if f.e4m3 then 0x7E else (2 ^ f.ebits - 1) * 2 ^ f.fbits - 1)
/-- A zero with a sign. -/
def Fmt.zero (f : Fmt) (neg : Bool) : Nat := f.signBit neg
/-- One. -/
def Fmt.one (f : Fmt) : Nat := f.bias * 2 ^ f.fbits

/-- What an encoding stands for: a NaN, an infinity, or the number (−1)^neg × m × 2^e. -/
inductive Num where
  | nan (signalling : Bool)
  | inf (neg : Bool)
  | fin (neg : Bool) (m : Nat) (e : Int)
  deriving DecidableEq, Repr

/-- The value of an encoding (R152, R153). -/
def Fmt.decode (f : Fmt) (x : Nat) : Num :=
  let neg := x / 2 ^ (f.ebits + f.fbits) % 2 == 1
  let ef := x / 2 ^ f.fbits % 2 ^ f.ebits
  let fr := x % 2 ^ f.fbits
  if ef == 2 ^ f.ebits - 1 && !f.e4m3 then
    if fr == 0 then .inf neg else .nan (f.ebits + f.fbits > 7 && fr / 2 ^ (f.fbits - 1) == 0)
  else if f.e4m3 && ef == 15 && fr == 7 then .nan false
  else if ef == 0 then .fin neg fr (1 - (f.bias : Int) - f.fbits)
  else .fin neg (2 ^ f.fbits + fr) ((ef : Int) - f.bias - f.fbits)

/-- The number is a NaN. -/
def Num.isNan : Num → Bool
  | .nan _ => true
  | _ => false
/-- The number is a signalling NaN. -/
def Num.isSnan : Num → Bool
  | .nan s => s
  | _ => false
/-- The number is an infinity. -/
def Num.isInf : Num → Bool
  | .inf _ => true
  | _ => false
/-- The number is a zero. -/
def Num.isZero : Num → Bool
  | .fin _ m _ => m == 0
  | _ => false
/-- The sign. -/
def Num.neg : Num → Bool
  | .nan _ => false
  | .inf s => s
  | .fin s _ _ => s
/-- The number with its sign turned. -/
def Num.negate : Num → Num
  | .nan s => .nan s
  | .inf s => .inf (!s)
  | .fin s m e => .fin (!s) m e

/-! ### Rounding (R158, R159) -/

/-- The rounding modes, by their code. -/
inductive Rm where
  | rn | rz | ru | rd
  deriving DecidableEq, Repr

/-- The mode of a 2-bit code (R158). -/
def Rm.ofCode (c : BitVec 2) : Rm :=
  if c == 0 then .rn else if c == 1 then .rz else if c == 2 then .ru else .rd

/-- A rounded encoding with its flags. -/
structure FRes where
  bits : Nat
  flags : Flags
  deriving DecidableEq, Repr

/-- The number of bits of a number. -/
def bitLen (n : Nat) : Nat := if n == 0 then 0 else Nat.log2 n + 1

/-- Whether a magnitude `kept` plus a fraction is rounded away from zero; `half` is the fraction's first bit, `rest` says
that a lower bit is set. -/
def roundsUp (m : Rm) (neg : Bool) (kept : Nat) (half rest : Bool) : Bool :=
  match m with
  | .rn => half && (rest || kept % 2 == 1)
  | .rz => false
  | .ru => !neg && (half || rest)
  | .rd => neg && (half || rest)

/-- A magnitude (sig + δ) × 2^e, 0 ≤ δ < 1 and δ ≠ 0 exactly when `sticky`, rounded to a multiple of 2^q: the multiple, and
whether it is inexact. -/
def roundAt (m : Rm) (neg : Bool) (sig : Nat) (e : Int) (sticky : Bool) (q : Int) : Nat × Bool :=
  if q ≤ e then
    let kept := sig * 2 ^ (e - q).toNat
    (if roundsUp m neg kept false sticky then kept + 1 else kept, sticky)
  else
    let s := (q - e).toNat
    let kept := sig / 2 ^ s
    let half := sig / 2 ^ (s - 1) % 2 == 1
    let rest := sig % 2 ^ (s - 1) != 0 || sticky
    (if roundsUp m neg kept half rest then kept + 1 else kept, half || rest)

/-- The delivered overflow of a rounding (R159): infinity or the largest finite value, by the mode; E4M3 saturates. -/
def overflowBits (f : Fmt) (m : Rm) (neg : Bool) : Nat :=
  if f.e4m3 then f.maxFinite neg
  else
    match m with
    | .rn => f.inf neg
    | .rz => f.maxFinite neg
    | .ru => if neg then f.maxFinite true else f.inf false
    | .rd => if neg then f.inf true else f.maxFinite false

/-- Rnd of a non-zero magnitude (sig + δ) × 2^e (R159), with OF, UF and NX of R164. A magnitude with δ ≠ 0 has more bits than
the format keeps. -/
def rnd (f : Fmt) (m : Rm) (neg : Bool) (sig : Nat) (e : Int) (sticky : Bool) : FRes :=
  let top := (bitLen sig : Int) - 1 + e
  let emin : Int := 1 - f.bias
  let q := top - f.fbits
  let qs := max q (emin - f.fbits)
  let (kept, inexact) := roundAt m neg sig e sticky qs
  let carry := kept == 2 ^ (f.fbits + 1)
  let kept' := if carry then kept / 2 else kept
  let qs' := if carry then qs + 1 else qs
  let (free, _) := roundAt m neg sig e sticky q
  let tiny := decide (top < emin) && !(decide (top + 1 = emin) && free == 2 ^ (f.fbits + 1))
  let ef := (qs' + f.fbits + f.bias).toNat
  let tooBig := kept' ≥ 2 ^ f.fbits
    && (if f.e4m3 then ef > 15 || (ef == 15 && kept' == 15) else ef ≥ 2 ^ f.ebits - 1)
  if tooBig then ⟨overflowBits f m neg, flagOF ||| flagNX⟩
  else
    let bits := if kept' < 2 ^ f.fbits then kept' else ef * 2 ^ f.fbits + (kept' - 2 ^ f.fbits)
    ⟨f.signBit neg + bits, flagIf inexact flagNX ||| flagIf (tiny && inexact) flagUF⟩

/-! ### Exact sums -/

/-- The signed integer of a number's magnitude in units of 2^q, for q at or below its exponent. -/
def scaled (neg : Bool) (m : Nat) (e q : Int) : Int :=
  let x : Int := m * 2 ^ (e - q).toNat
  if neg then -x else x

/-- A finite term of an exact sum. -/
structure Term where
  neg : Bool
  m : Nat
  e : Int
  deriving DecidableEq, Repr

/-- The lowest exponent of the terms. -/
def lowExp : List Term → Int
  | [] => 0
  | [t] => t.e
  | t :: ts => min t.e (lowExp ts)

/-- The exact sum of the terms, in units of 2^q. -/
def sumAt (q : Int) : List Term → Int
  | [] => 0
  | t :: ts => scaled t.neg t.m t.e q + sumAt q ts

/-- Rnd of the exact sum of terms. A sum of zeros of one sign keeps the sign; any other exact zero is +0, and −0 in RD
(R159). -/
def rndSum (f : Fmt) (m : Rm) (ts : List Term) : FRes :=
  let q := lowExp ts
  let s := sumAt q ts
  if s == 0 then
    if ts.all (fun t => t.m == 0 && t.neg) then ⟨f.zero true, 0⟩
    else if ts.all (fun t => t.m == 0 && !t.neg) then ⟨f.zero false, 0⟩
    else ⟨f.zero (m == .rd), 0⟩
  else rnd f m (decide (s < 0)) s.natAbs q false

/-- A NaN result, with NV when an operand is signalling or the operation is invalid (R161, R164). -/
def nanRes (f : Fmt) (nv : Bool) : FRes := ⟨f.canon, flagIf nv flagNV⟩

/-- A sum of products and a further term with specials, as `fadd`, `ffma` and `fdot2b` take it (R171, R202): each product is a
pair of numbers. -/
def rndProducts (f : Fmt) (m : Rm) (ps : List (Num × Num)) (cs : List Num) : FRes :=
  let snan := ps.any (fun p => p.1.isSnan || p.2.isSnan) || cs.any Num.isSnan
  let nan := ps.any (fun p => p.1.isNan || p.2.isNan) || cs.any Num.isNan
  let inv := ps.any (fun p => (p.1.isInf && p.2.isZero) || (p.1.isZero && p.2.isInf))
  let infs := (ps.filter (fun p => p.1.isInf || p.2.isInf)).map (fun p => p.1.neg != p.2.neg)
    ++ (cs.filter Num.isInf).map Num.neg
  if nan then nanRes f (snan || inv)
  else if inv then nanRes f true
  else if infs.any id && infs.any not then nanRes f true
  else
    match infs with
    | s :: _ => ⟨f.inf s, 0⟩
    | [] =>
      rndSum f m
        (ps.filterMap (fun p =>
          match p.1, p.2 with
          | .fin s a d, .fin t b e => some ⟨s != t, a * b, d + e⟩
          | _, _ => none)
        ++ cs.filterMap (fun c =>
          match c with
          | .fin s a e => some ⟨s, a, e⟩
          | _ => none))

/-! ### IEEE operations of a format (R171) -/

/-- a + b. -/
def fAdd (f : Fmt) (m : Rm) (a b : Nat) : FRes := rndProducts f m [] [f.decode a, f.decode b]
/-- a − b. -/
def fSub (f : Fmt) (m : Rm) (a b : Nat) : FRes := rndProducts f m [] [f.decode a, (f.decode b).negate]

/-- a × b; an exact zero has the sign of the product. -/
def fMul (f : Fmt) (m : Rm) (a b : Nat) : FRes :=
  match f.decode a, f.decode b with
  | .fin s x d, .fin t y e => if x * y == 0 then ⟨f.zero (s != t), 0⟩ else rnd f m (s != t) (x * y) (d + e) false
  | x, y => rndProducts f m [(x, y)] []

/-- a × b + d, rounded once. -/
def fFma (f : Fmt) (m : Rm) (a b d : Nat) : FRes := rndProducts f m [(f.decode a, f.decode b)] [f.decode d]

/-- The clamp to [+0, +1.0] of SAT (R195): a NaN gives +0. -/
def clamp01 (f : Fmt) (x : Nat) : Nat :=
  match f.decode x with
  | .nan _ => f.zero false
  | .inf s => if s then f.zero false else f.one
  | .fin s m e =>
    if s || m == 0 then f.zero false
    else if (bitLen m : Int) - 1 + e ≥ 0 then f.one else x

/-- A result under SAT: clamped, with the flags of the rounding step. -/
def satRes (f : Fmt) (sat : Bool) (r : FRes) : FRes := if sat then ⟨clamp01 f r.bits, r.flags⟩ else r

/-- The order of two numbers that are no NaN: −1, 0 or 1; zeros are equal. -/
def numCmp (a b : Num) : Int :=
  match a, b with
  | .inf s, .inf t => if s == t then 0 else if s then -1 else 1
  | .inf s, _ => if s then -1 else 1
  | _, .inf t => if t then 1 else -1
  | .fin s x d, .fin t y e =>
    let q := min d e
    let u := scaled s x d q
    let v := scaled t y e q
    if u < v then -1 else if v < u then 1 else 0
  | _, _ => 0

/-- `fmin` or `fmax` (R163): a lone NaN yields the other operand, and −0 is less than +0. -/
def fMinMax (f : Fmt) (isMax : Bool) (a b : Nat) : FRes :=
  let x := f.decode a
  let y := f.decode b
  let nv := flagIf (x.isSnan || y.isSnan) flagNV
  if x.isNan && y.isNan then ⟨f.canon, nv⟩
  else if x.isNan then ⟨b, nv⟩
  else if y.isNan then ⟨a, nv⟩
  else
    let c := numCmp x y
    let aLess := c < 0 || (c == 0 && x.neg && !y.neg)
    ⟨if aLess != isMax then a else b, nv⟩

/-- A comparison by condition code 0 to 5 (R163): the truth and the flags. -/
def fCompare (f : Fmt) (cond : BitVec 4) (a b : Nat) : Bool × Flags :=
  let x := f.decode a
  let y := f.decode b
  let nan := x.isNan || y.isNan
  let snan := x.isSnan || y.isSnan
  let c := numCmp x y
  match cond.toNat with
  | 0 => (!nan && c == 0, flagIf snan flagNV)
  | 1 => (nan || c != 0, flagIf snan flagNV)
  | 2 => (!nan && c < 0, flagIf nan flagNV)
  | 3 => (!nan && c ≤ 0, flagIf nan flagNV)
  | 4 => (!nan && c > 0, flagIf nan flagNV)
  | _ => (!nan && c ≥ 0, flagIf nan flagNV)

/-! ### Rounding to an integral value (R199) -/

/-- The integer a magnitude m × 2^e rounds to, and whether it is inexact. -/
def roundInt (m : Rm) (neg : Bool) (sig : Nat) (e : Int) : Nat × Bool := roundAt m neg sig e false 0

/-- `frnd`. -/
def fRnd (m : Rm) (a : Nat) : FRes :=
  match fp32.decode a with
  | .nan s => nanRes fp32 s
  | .inf _ => ⟨a, 0⟩
  | .fin s x e =>
    if e ≥ 0 then ⟨a, 0⟩
    else
      let (k, _) := roundInt m s x e
      if k == 0 then ⟨fp32.zero s, 0⟩ else ⟨(rnd fp32 m s k 0 false).bits, 0⟩

/-- `ffrac`. -/
def fFrac (m : Rm) (a : Nat) : FRes :=
  match fp32.decode a with
  | .nan s => nanRes fp32 s
  | .inf _ => nanRes fp32 true
  | .fin s x e =>
    if e ≥ 0 then ⟨0, 0⟩
    else
      let k := (-e).toNat
      let r := x % 2 ^ k
      let fr := if s && r != 0 then 2 ^ k - r else r
      if fr == 0 then ⟨0, 0⟩
      else
        let q := rnd fp32 m false fr e false
        if q.bits == fp32.one then ⟨0x3F7FFFFF, q.flags⟩ else q

/-! ### Conversions (R165 to R169) -/

/-- An integer rounded to a format, with SAT (R165). -/
def intToFmt (f : Fmt) (m : Rm) (x : Int) : FRes :=
  if x == 0 then ⟨f.zero false, 0⟩ else rnd f m (decide (x < 0)) x.natAbs 0 false

/-- Sat of an infinity that a conversion delivers (R165): the largest finite value, with OF and NX. -/
def satInf (f : Fmt) (sat : Bool) (r : FRes) : FRes :=
  if sat then
    match f.decode r.bits with
    | .inf s => ⟨f.maxFinite s, r.flags ||| flagOF ||| flagNX⟩
    | _ => r
  else r

/-- A number converted to a floating-point format (R165, R168). -/
def numToFmt (f : Fmt) (m : Rm) (sat : Bool) (x : Num) : FRes :=
  match x with
  | .nan s => nanRes f s
  | .inf s => if f.e4m3 then ⟨f.maxFinite s, flagOF ||| flagNX⟩ else satInf f sat ⟨f.inf s, 0⟩
  | .fin s k e => if k == 0 then ⟨f.zero s, 0⟩ else satInf f sat (rnd f m s k e false)

/-- An integer format: width and signedness. -/
structure IFmt where
  bits : Nat
  signed : Bool
  deriving DecidableEq, Repr

/-- The least value of an integer format. -/
def IFmt.lo (f : IFmt) : Int := if f.signed then -(2 ^ (f.bits - 1)) else 0
/-- The greatest value of an integer format. -/
def IFmt.hi (f : IFmt) : Int := if f.signed then 2 ^ (f.bits - 1) - 1 else 2 ^ f.bits - 1
/-- Sat over an integer format (R160). -/
def IFmt.sat (f : IFmt) (x : Int) : Int := max f.lo (min f.hi x)
/-- The value of an encoding. -/
def IFmt.value (f : IFmt) (x : Nat) : Int :=
  let r := x % 2 ^ f.bits
  if f.signed && r ≥ 2 ^ (f.bits - 1) then (r : Int) - 2 ^ f.bits else r
/-- The two's complement encoding of an integer in `n` bits. -/
def encodeInt (n : Nat) (x : Int) : Nat := (x % 2 ^ n).toNat

/-- A number converted to an integer format: the integer and the flags (R166). -/
def numToInt (f : IFmt) (m : Rm) (x : Num) : Int × Flags :=
  match x with
  | .nan _ => (0, flagNV)
  | .inf s => (if s then f.lo else f.hi, flagNV)
  | .fin s k e =>
    let (r, inexact) := roundInt m s k e
    let v : Int := if s then -(r : Int) else r
    if v < f.lo || f.hi < v then (f.sat v, flagNV) else (v, flagIf inexact flagNX)

/-- The formats of Table 3 of the instruction words chapter (R140): floating point, DY8, or integer. -/
inductive AnyFmt where
  | fp (f : Fmt)
  | dy8
  | int (f : IFmt)
  deriving DecidableEq, Repr

/-- The format of a code. -/
def fmtOfCode (c : BitVec 4) : AnyFmt :=
  match c.toNat with
  | 0 => .fp fp32
  | 1 => .fp fp64
  | 2 => .fp fp16
  | 3 => .fp bf16
  | 4 => .fp e4m3
  | 5 => .fp e5m2
  | 6 => .dy8
  | 7 => .int ⟨8, true⟩
  | 8 => .int ⟨8, false⟩
  | 9 => .int ⟨16, true⟩
  | 10 => .int ⟨16, false⟩
  | 11 => .int ⟨32, true⟩
  | 12 => .int ⟨32, false⟩
  | 13 => .int ⟨64, true⟩
  | _ => .int ⟨64, false⟩

/-! ### DY8 (R156, R169) -/

/-- A term of a DY8 element in 64ths: ±2^(6 − c), and 0 for code 7. -/
def dyTerm (neg : Bool) (c : Nat) : Int :=
  if c == 7 then 0 else if neg then -(2 ^ (6 - c)) else 2 ^ (6 - c)

/-- The sum of the two terms of an element, in 64ths (R156). -/
def dyValue (x : Nat) : Int :=
  dyTerm (x / 128 % 2 == 1) (x / 16 % 8) + dyTerm (x / 8 % 2 == 1) (x % 8)

/-- The value of an element under a block scale; 0xFF marks a NaN (R157). -/
def dyNum (x s : Nat) : Num :=
  if s == 255 then .nan false
  else .fin (decide (dyValue x < 0)) (dyValue x).natAbs ((s : Int) - 127 - 6)

/-- The preference among encodings at one distance (R169): the largest C1, then the smallest C2, then S1 = 0, then S2 = 0. -/
def dyRank (x : Nat) : Nat :=
  (7 - x / 16 % 8) * 32 + (x % 8) * 4 + (x / 128 % 2) * 2 + x / 8 % 2

/-- The element nearest to t × 2^(−k) 64ths, among the encodings listed; the distance is in units of 2^(−k). -/
def dyNearest (t : Int) (k : Nat) : List Nat → Nat × Nat → Nat × Nat
  | [], best => best
  | x :: xs, best =>
    let d := (dyValue x * 2 ^ k - t).natAbs
    if d < best.2 || (d == best.2 && dyRank x < dyRank best.1) then dyNearest t k xs (x, d) else dyNearest t k xs best

/-- Conversion of a number to DY8 for a block scale from 0x00 to 0xFE (R169). -/
def numToDy8 (s : Nat) (x : Num) : FRes :=
  match x with
  | .nan _ => ⟨0x77, flagNV⟩
  | .inf neg => ⟨if neg then 0x88 else 0x00, flagOF ||| flagNX⟩
  | .fin neg m e =>
    -- x′ in 64ths is ±m × 2^(e + 127 − s + 6)
    let e' := e + 127 - s + 6
    let k := (-e').toNat
    let t : Int := m * 2 ^ e'.toNat
    let t := if neg then -t else t
    let (r, d) := dyNearest t k (List.range 256) (0x77, t.natAbs)
    ⟨r, flagIf (d != 0) flagNX ||| flagIf (t.natAbs > 128 * 2 ^ k) flagOF⟩

/-! ### `cvt` (R203, R204) -/

/-- The source value of a conversion: a number, or an integer. -/
inductive CvtSrc where
  | num (x : Num)
  | int (x : Int)
  deriving DecidableEq, Repr

/-- The source of a `cvt`: `x` is the source register or pair, `s` the block scale of the prior vd. -/
def cvtSource (c : BitVec 4) (x s : Nat) : CvtSrc :=
  match fmtOfCode c with
  | .fp f => .num (f.decode (x % 2 ^ f.width))
  | .dy8 => .num (dyNum (x % 256) s)
  | .int f => .int (f.value x)

/-- The number of an integer. -/
def numOfInt (x : Int) : Num := .fin (decide (x < 0)) x.natAbs 0

/-- The bits a `cvt` writes, in 32 or 64 bits: 8-bit and 16-bit floating-point results and unsigned ones zero-extended, .i8
and .i16 ones sign-extended; a DY8 result carries its scale in [31:24]. -/
def cvtResult (dst : BitVec 4) (m : Rm) (sat : Bool) (s : Nat) (x : CvtSrc) : FRes :=
  match fmtOfCode dst, x with
  | .fp f, .num y => numToFmt f m sat y
  | .fp f, .int y => satInf f sat (intToFmt f m y)
  | .dy8, y =>
    if s == 255 then ⟨0xFF000077, flagNV⟩
    else
      let r := numToDy8 s (match y with | .num z => z | .int z => numOfInt z)
      ⟨s * 2 ^ 24 + r.bits, r.flags⟩
  | .int f, .num y =>
    let (v, fl) := numToInt f m y
    ⟨encodeInt (max 32 f.bits) v, fl⟩
  | .int f, .int y =>
    let v := if sat then f.sat y else f.value (encodeInt f.bits y)
    ⟨encodeInt (max 32 f.bits) v, 0⟩

/-- `cvt` of a source register or pair (R203, R204). -/
def cvtBits (dst src : BitVec 4) (m : Rm) (sat : Bool) (x vd : Nat) : FRes :=
  let s := vd / 2 ^ 24 % 256
  cvtResult dst m sat s (cvtSource src x s)

end Sys2Proof.Machine
end

