-- ==== Sys2Proof/Machine/Func.lean ====
section
/-! DEFINITION. The correctly rounded functions (R170): division, reciprocal, square roots, 2^x, log2, sin and cos of 2πx.
Division and the roots are rounded from exact integer quotients and roots with their remainders. The other four are computed
in fixed point with `funcBits` bits and a small error, and rounded with a sticky bit: their exact values are irrational
wherever the code rounds (UNVERIFIED that no FP32 operand comes closer to a rounding boundary than that error: log entry 12). -/

namespace Sys2Proof.Machine

open Sys2Proof

/-! ### Division and roots -/

/-- Rnd of a quotient of two positive magnitudes a × 2^d and b × 2^e. -/
def rndQuot (f : Fmt) (m : Rm) (neg : Bool) (a : Nat) (d : Int) (b : Nat) (e : Int) : FRes :=
  let k := f.fbits + 4 + bitLen b
  let n := a * 2 ^ k
  rnd f m neg (n / b) (d - e - k) (n % b != 0)

/-- IEEE division (R170). -/
def fDiv (m : Rm) (a b : Nat) : FRes :=
  let x := fp32.decode a
  let y := fp32.decode b
  let neg := x.neg != y.neg
  if x.isNan || y.isNan then nanRes fp32 (x.isSnan || y.isSnan)
  else if (x.isInf && y.isInf) || (x.isZero && y.isZero) then nanRes fp32 true
  else
    match x, y with
    | .inf _, _ => ⟨fp32.inf neg, 0⟩
    | _, .inf _ => ⟨fp32.zero neg, 0⟩
    | .fin _ p d, .fin _ q e =>
      if q == 0 then ⟨fp32.inf neg, flagDZ⟩
      else if p == 0 then ⟨fp32.zero neg, 0⟩
      else rndQuot fp32 m neg p d q e
    | _, _ => nanRes fp32 true

/-- 1 / a (R170). -/
def fRcp (m : Rm) (a : Nat) : FRes := fDiv m fp32.one a

/-- The integer square root by bits: the greatest r < 2^n with (acc × 2^n + r)² ≤ x, given acc of the bits above. -/
def sqrtBits (x : Nat) : Nat → Nat → Nat
  | 0, acc => acc
  | n + 1, acc =>
    let t := acc + 2 ^ n
    if t * t ≤ x then sqrtBits x n t else sqrtBits x n acc

/-- The integer square root. -/
def isqrt (x : Nat) : Nat := sqrtBits x (bitLen x / 2 + 1) 0

/-- A positive magnitude as n × 2^(2h): an even exponent. -/
def evenExp (k : Nat) (e : Int) : Nat × Int := if e % 2 == 0 then (k, e / 2) else (2 * k, (e - 1) / 2)

/-- √a (R170). -/
def fSqrt (m : Rm) (a : Nat) : FRes :=
  match fp32.decode a with
  | .nan s => nanRes fp32 s
  | .inf s => if s then nanRes fp32 true else ⟨a, 0⟩
  | .fin s k e =>
    if k == 0 then ⟨a, 0⟩
    else if s then nanRes fp32 true
    else
      let (n, h) := evenExp k e
      let x := n * 2 ^ 64
      let r := isqrt x
      rnd fp32 m false r (h - 32) (r * r != x)

/-- 1 / √a (R170). -/
def fRsq (m : Rm) (a : Nat) : FRes :=
  match fp32.decode a with
  | .nan s => nanRes fp32 s
  | .inf s => if s then nanRes fp32 true else ⟨fp32.zero false, 0⟩
  | .fin s k e =>
    if k == 0 then ⟨fp32.inf s, flagDZ⟩
    else if s then nanRes fp32 true
    else
      let (n, h) := evenExp k e
      -- 1 / √(n × 2^(2h)) = √(2^128 / n) × 2^(−64 − h)
      let r := isqrt (2 ^ 128 / n)
      rnd fp32 m false r (-64 - h) (r * r * n != 2 ^ 128)

/-! ### Fixed-point series -/

/-- The fraction bits of the fixed-point computations. -/
def funcBits : Nat := 400

/-- 1 in fixed point. -/
def fxOne : Nat := 2 ^ funcBits

/-- The product of two fixed-point numbers, truncated. -/
def fxMul (a b : Nat) : Nat := a * b / fxOne

/-- The terms z^(2k+1) / (2k+1) of a series, from the k-th on: `p` is z^(2k+1), `z2` is z². With `alt` the signs alternate and
the two sums are kept apart. -/
def oddSeries (z2 : Nat) : Nat → Nat → Nat → Nat
  | 0, _, _ => 0
  | fuel + 1, p, k => if p == 0 then 0 else p / (2 * k + 1) + oddSeries z2 fuel (fxMul p z2) (k + 1)

/-- The alternating series of arctan: the sums of its positive and of its negative terms. -/
def atanSeries (z2 : Nat) : Nat → Nat → Nat → Nat × Nat
  | 0, _, _ => (0, 0)
  | fuel + 1, p, k =>
    if p == 0 then (0, 0)
    else
      let r := atanSeries z2 fuel (fxMul p z2) (k + 1)
      (p / (2 * k + 1) + r.2, r.1)

/-- arctan (1 / n) in fixed point. -/
def atanInv (n : Nat) : Nat :=
  let z := fxOne / n
  let r := atanSeries (fxMul z z) 320 z 0
  r.1 - r.2

/-- π in fixed point, by Machin's formula. -/
def fxPi : Nat := 16 * atanInv 5 - 4 * atanInv 239

/-- ln ((1 + z) / (1 − z)) = 2 (z + z³/3 + ...) in fixed point. -/
def fxLnRatio (z : Nat) : Nat := 2 * oddSeries (fxMul z z) 320 z 0

/-- ln 2 in fixed point: (1 + z) / (1 − z) = 2 for z = 1/3. -/
def fxLn2 : Nat := fxLnRatio (fxOne / 3)

/-- The exponential series from the k-th term `p` on. -/
def expSeries (x : Nat) : Nat → Nat → Nat → Nat
  | 0, _, _ => 0
  | fuel + 1, p, k => if p == 0 then 0 else p + expSeries x fuel (fxMul p x / (k + 1)) (k + 1)

/-- The cosine or sine series from the term `p` = x^k / k! on: the sums of its positive and negative terms. -/
def trigSeries (x2 : Nat) : Nat → Nat → Nat → Nat × Nat
  | 0, _, _ => (0, 0)
  | fuel + 1, p, k =>
    if p == 0 then (0, 0)
    else
      let r := trigSeries x2 fuel (fxMul p x2 / ((k + 1) * (k + 2))) (k + 2)
      (p + r.2, r.1)

/-- sin of a fixed-point angle up to π/4. -/
def fxSin (x : Nat) : Nat :=
  let r := trigSeries (fxMul x x) 200 x 1
  r.1 - r.2

/-- cos of a fixed-point angle up to π/4. -/
def fxCos (x : Nat) : Nat :=
  let r := trigSeries (fxMul x x) 200 fxOne 0
  r.1 - r.2

/-! ### 2^x and log2 -/

/-- A finite number as an integer part and a fraction of `funcBits` bits, and whether the fraction is exact. -/
def splitFx (neg : Bool) (k : Nat) (e : Int) : Int × Nat :=
  let x : Int := if e ≥ 0 then k * 2 ^ e.toNat * fxOne else (k * fxOne / 2 ^ (-e).toNat : Nat)
  let y := if neg then -x else x
  (y / fxOne, (y % fxOne).toNat)

/-- 2^a (R170). An exponent beyond 2^9 in magnitude overflows or underflows whatever its fraction. -/
def fExp2 (m : Rm) (a : Nat) : FRes :=
  match fp32.decode a with
  | .nan s => nanRes fp32 s
  | .inf s => if s then ⟨fp32.zero false, 0⟩ else ⟨fp32.inf false, 0⟩
  | .fin s k e =>
    if k == 0 then ⟨fp32.one, 0⟩
    else if (bitLen k : Int) - 1 + e ≥ 9 then rnd fp32 m false (2 ^ 30) (if s then -2000 else 2000) false
    else
      let (n, r) := splitFx s k e
      if r == 0 then rnd fp32 m false 1 n false
      else rnd fp32 m false (expSeries (fxMul r fxLn2) 200 fxOne 0) (n - funcBits) true

/-- log2 a (R170). -/
def fLog2 (m : Rm) (a : Nat) : FRes :=
  match fp32.decode a with
  | .nan s => nanRes fp32 s
  | .inf s => if s then nanRes fp32 true else ⟨fp32.inf false, 0⟩
  | .fin s k e =>
    if k == 0 then ⟨fp32.inf true, flagDZ⟩
    else if s then nanRes fp32 true
    else
      let n := (bitLen k : Int) - 1
      let p := 2 ^ n.toNat
      if k == p then intToFmt fp32 m (n + e)
      else
        -- log2 (k / p) = ln (k / p) / ln 2, with z = (k − p) / (k + p)
        let z := (k - p) * fxOne / (k + p)
        let l := fxLnRatio z * fxOne / fxLn2
        let v : Int := (n + e) * fxOne + l
        -- a truncated positive value lies below the exact one, so the magnitude of a negative one lies above it
        if v < 0 then rnd fp32 m true (v.natAbs - 1) (-funcBits) true else rnd fp32 m false v.toNat (-funcBits) true

/-! ### sin 2πx and cos 2πx -/

/-- sin (2π t) for t = r / 2^funcBits in [0, 1) no multiple of a quarter, as a sign and a magnitude in fixed point; `quarter` adds
a quarter turn, which makes it the cosine. -/
def sinTurn (r : Nat) : Bool × Nat :=
  let q := 4 * r / fxOne
  let u := 4 * r % fxOne                  -- the part of the quarter, as a fraction of it
  let neg := q ≥ 2
  let w := if q % 2 == 1 then fxOne - u else u
  -- sin (π/2 × w): from the sine for w ≤ 1/2, from the cosine of the complement above
  let half := fxOne / 2
  if w ≤ half then (neg, fxSin (fxMul w (fxPi / 2))) else (neg, fxCos (fxMul (fxOne - w) (fxPi / 2)))

/-- The rounded sine of r / 2^funcBits turns, exact at the multiples of a quarter turn (Niven); the others are irrational. -/
def turnRes (m : Rm) (r : Nat) : FRes :=
  if 4 * r % fxOne == 0 then
    match 4 * r / fxOne % 4 with
    | 1 => ⟨fp32.one, 0⟩
    | 3 => ⟨fp32.signBit true + fp32.one, 0⟩
    | _ => ⟨0, 0⟩
  else
    let (neg, x) := sinTurn r
    rnd fp32 m neg x (-funcBits) true

/-- sin (2πa) (R170). -/
def fSinr (m : Rm) (a : Nat) : FRes :=
  match fp32.decode a with
  | .nan s => nanRes fp32 s
  | .inf _ => nanRes fp32 true
  | .fin s k e => if k == 0 then ⟨a, 0⟩ else turnRes m (splitFx s k e).2

/-- cos (2πa) (R170). -/
def fCosr (m : Rm) (a : Nat) : FRes :=
  match fp32.decode a with
  | .nan s => nanRes fp32 s
  | .inf _ => nanRes fp32 true
  | .fin s k e => turnRes m (((splitFx s k e).2 + fxOne / 4) % fxOne)

end Sys2Proof.Machine
end

