-- ==== Sys2Proof/Config.lean ====
section
/-! DEFINITION. What the model fixes for the whole machine: where each store of the package lies in the one list of bytes, and
the free values, which the spec leaves open: constants with no body, of which nothing can be proved. -/

namespace Sys2Proof.Config

open Sys2Proof

/-! ### The stores of the package in `Memory` (log entry 1)

The spec numbers each store from zero; the model puts each store in a range of its own. -/

/-- Device memory: virtual die at [38:37], die offset below (R26). -/
def devAddr (v : Die) (off : Nat) : Nat := v.toNat * 2 ^ 37 + off

/-- The bytes of device memory a die populates (R26). -/
def populated : Nat := 0x1800000000

/-- Host memory, by host physical address (R36, TGT 1). -/
def hostBase : Nat := 2 ^ 48
/-- The end of the host's range: host physical addresses have 48 bits (R36). -/
def hostEnd : Nat := 2 ^ 48 + 2 ^ 48

/-- The bytes of a vault (R88). -/
def vaultSize : Nat := 0x1000000
/-- The vaults: virtual die, quad, offset (R88). -/
def vaultBase : Nat := 2 ^ 50
/-- A byte of a quad's vault. -/
def vaultAddr (v : Die) (q : Quad) (off : Nat) : Nat := vaultBase + (v.toNat * 16 + q.toNat) * vaultSize + off

/-- The bytes of an accumulator tile: 128 rows of 128 words (R120). -/
def tileSize : Nat := 65536
/-- The accumulator tiles: virtual die, quad, physical tile 0 to 7 (R127). -/
def tileBase : Nat := 2 ^ 52
/-- The first byte of a physical tile. -/
def tileAddr (v : Die) (q : Quad) (t : Nat) : Nat := tileBase + ((v.toNat * 16 + q.toNat) * 8 + t) * tileSize

/-- The bytes of an unbacked page (R56). -/
def pageSize : Nat := 65536
/-- The unbacked page slots: home virtual die, context, virtual page number (R58). -/
def pageBase : Nat := 2 ^ 64
/-- The first byte of an unbacked page's slot. -/
def pageAddr (v : Die) (ctx : BitVec 12) (vpn : BitVec 41) : Nat :=
  pageBase + ((v.toNat * 4096 + ctx.toNat) * 2 ^ 41 + vpn.toNat) * pageSize

/-! ### Free values -/

/-- Core cycles that the n-th step takes: the spec gives no cycle counts of its own (log entry 2). -/
opaque stepCycles : Nat → Nat

/-- The n-th byte that the spec leaves unspecified (log entry 3): what a failed write-back leaves in a device (R24), what a copy
onto its own source leaves (R111), the rows of ended strands in a save area (R442). -/
opaque freeByte : Nat → Byte

/-- The n-th word that the spec leaves unspecified (log entry 3). -/
opaque freeWord : Nat → Word

/-- The n-th choice the spec leaves open between two outcomes (log entry 3). -/
opaque freeBool : Nat → Bool

/-- The n-th number of cycles that a device takes where the spec bounds none (log entry 2). -/
opaque freeNat : Nat → Nat

/-- Verification of an image's signature under the fused keys (R462): the cryptography of SM2 and SM3 is no part of the spec
(log entry 4). -/
opaque signatureValid : List Byte → Bool

/-- The SM3 digest of bytes (R462, R465; log entry 4). -/
opaque sm3 : List Byte → BitVec 256

/-- The SM2 signature of a digest under the package's key (R465; log entry 4). -/
opaque sm2Sign : BitVec 256 → BitVec 512

/-- The identity public keys of the package's dies (R463, R465): the cache die, compute positions 0 to 3, optical dies 0 to 3 (log entry 4). -/
opaque identityKey : Nat → BitVec 512

/-- The fused digest of the root key, and the least image version accepted (R462; log entry 4). -/
opaque rootKeyDigest : BitVec 256
opaque minVersion : BitVec 32

end Sys2Proof.Config
end

