-- ==== Sys2Proof/Machine/State.lean ====
section
/-! DEFINITION. The state of the machine, as plain data: memory, the caches and tables of the cache die, the strands with
all their registers, the gangs, the engines, the launch machinery and the configuration registers, and the state after reset. -/

namespace Sys2Proof.Machine

open Sys2Proof

/-! ### Strands -/

/-- One 32-bit register across the 32 lanes (R120); lane 0 first. -/
abbrev Row := List Word

/-- The states of a resident strand (R381, Table 1). -/
inductive StrandState where
  | active | held | waiting | parked | frozen | ended
  deriving DecidableEq, Repr

/-- The privilege a strand runs at (R129, sr.status.MODE). -/
inductive Mode where
  | user | supervisor | firmware
  deriving DecidableEq, Repr

/-- Why a strand is parked or held (R267, R381). -/
inductive Park where
  /-- A source or destination register is empty (R124). -/
  | register
  /-- An instruction line is missing (R100). -/
  | fetch
  /-- A reply of the fabric for a synchronous access to a peer (R228, R232). -/
  | remote
  /-- Acknowledgements of posted remote stores (R374). -/
  | posted
  /-- `tlbinv` until its invalidation round completes (R48), or for room among the package's rounds (R49). -/
  | round
  /-- `sleep` until the cycle (R252). -/
  | sleep (until_ : Nat)
  /-- `waitc`, with the cycle of its timeout (R277). -/
  | waitc (until_ : Option Nat)
  /-- A monitor arm refused by a full set, until the cycle at which the core arms again (R80), with the cycle of
the timeout. -/
  | rearm (at_ : Nat) (until_ : Option Nat)
  /-- `osenter` (R279). -/
  | osenter
  /-- `osenter.any` (R279). -/
  | osenterAny
  /-- `bar` at a level: 0 workgroup, 1 gang, 2 launch (R272). -/
  | bar (level : Nat) (inv : Bool)
  /-- `regroup` (R217). -/
  | regroup
  /-- `tbar.wait` (R276). -/
  | tbar
  /-- `cwait` (R283). -/
  | cwait
  /-- `cqput` or `halox` for room on its queue (R282). -/
  | cqput
  /-- `ringawait` (R284). -/
  | ring
  /-- `twlwait`, or `twl` for room in the engine (R288). -/
  | twl
  /-- A matrix instruction for room in the reservation table, a tile, or `msync` (R301, R304, R311). -/
  | matrix
  /-- `emit` for room in a full node buffer (R287, R400). -/
  | emit
  /-- `ubres` or another privileged wait for a busy reservation (R260). -/
  | ubres
  /-- `exit` for stored requests or posted stores (R251). -/
  | exit
  /-- `frpop` or `ubmig` while a page is moved. -/
  | page
  /-- The access finds every ordinary way of the line's set pinned (R73), or its die stopped (R466). -/
  | way (line : Nat)
  deriving DecidableEq, Repr

/-- The system registers a strand holds for itself (R128, R129); what they derive from other state is not repeated here. -/
structure SysRegs where
  hnd : Bool
  rpt : Bool
  mode : Mode
  cause : Word
  epc : W64
  emask : Word
  donemask : Word
  faddr : W64
  rptstate : Word
  fpmode : Word
  fpflags : Word
  rsvflags : Word
  handler : W64
  rfault : W64
  oobcount : Word
  hscratch0 : W64
  hscratch1 : W64
  sysmap : W64
  walkent : W64
  deriving DecidableEq, Repr

/-- An entry of a batch: a published copy packet (R283, R442). -/
structure BatchEntry where
  die : Die
  queue : BitVec 6
  index : BitVec 48
  done : Bool
  deriving DecidableEq, Repr

/-- A batch of a strand (R283). -/
structure Batch where
  entries : List BatchEntry
  sealed : Bool
  failed : Bool
  deriving DecidableEq, Repr

/-- A Twill ticket of a strand (R288, R360). -/
structure Ticket where
  descriptor : List Byte
  header : W64
  done : Bool
  failed : Bool
  deriving DecidableEq, Repr

/-- The state of one lane's request in an `osenter` or `osenter.any` (R279, R422). -/
inductive LaneEntry where
  /-- Sent, or refused for space and to be sent again, and not yet answered. -/
  | sent
  | waiting
  | granted
  /-- Refused: the class and detail of the fault. -/
  | refused (cls : BitVec 8) (detail : BitVec 16)
  /-- Not requested by this issue (R279). -/
  | idle
  deriving DecidableEq, Repr

/-- A lane of an `osenter`: lane, key, sequence number, and what the table has answered. -/
structure SectionLane where
  lane : Nat
  key : W64
  seq : BitVec 31
  state : LaneEntry
  deriving DecidableEq, Repr

/-- A fault or trap of a strand (R430): class, detail, the lanes at entry (none: the live lanes), the lanes complete, the
address and the walk entry reported. -/
structure Trap where
  cls : BitVec 8
  detail : BitVec 16
  lanes : Option Word
  done : Word
  faddr : W64
  walkent : W64
  deriving DecidableEq, Repr

/-- The replies of the fabric that a strand holds for (R228, R232, R246): the lanes whose part is complete, and the lanes that
faulted, each with the class met at the peer and the address; a uniform access names its one access as lane 0. -/
structure RemoteOp where
  result : Nat
  /-- The trap that the checks of this package decided, if any (R227). -/
  trap : Option Trap
  done : Word
  faults : List (Nat × BitVec 8 × W64)
  /-- For an `acq` at a peer: base and size of the regions bound to the object when its read was performed there, once that is known to
  lie behind (R270). -/
  bound : Option (List (BitVec 57 × Nat))
  deriving DecidableEq, Repr

/-- A resident strand, or the firmware slot of a core: its place and all its registers (R120). -/
structure Strand where
  who : Who
  ctxSlot : Slot
  core : CoreId
  /-- The strand slot on the core; 512 is the firmware slot (R129). -/
  slot : Nat
  state : StrandState
  /-- The state before the freeze (R381). -/
  before : StrandState
  park : Option Park
  /-- The instruction the strand waits in (R267). -/
  waiting : Option Instr
  remote : Option RemoteOp
  /-- What peers have answered to the accesses that the instruction at hand makes one after another, by access (R228). -/
  script : List (Nat × List Byte)
  /-- A fault that the strand takes when it next issues: a stall of its stored request (R425). -/
  owed : Option Trap
  /-- The lanes of the `osenter` in which the strand waits (R279). -/
  entering : List SectionLane
  pc : W64
  /-- The next iteration of the `rpt` sequence at the pc (R143, R144). -/
  rptAt : Nat
  /-- The sequence at the pc is issued again after `rfe`, over m0 and not sr.donemask (R227, R255). -/
  reissue : Bool
  v : List Row
  w : List Word
  m : List Word
  b : List (BitVec 128)
  /-- The v registers whose full/empty bit is clear (R123). -/
  emptyV : List Nat
  /-- The w registers whose full/empty bit is clear (R123). -/
  emptyW : List Nat
  live : Word
  sr : SysRegs
  /-- The quad-coherence bits (R219). -/
  quadCoherent : BitVec 8
  /-- The lease (R129, R404, R405): declared, lines in force, the peak of the measured lines in this epoch, and whether the strand
  has been Active or Held in it. -/
  leaseDecl : Bool
  leaseLines : Nat
  leasePeak : Nat
  leaseSeen : Bool
  /-- The admission number, and the place of the last admission among all admissions of the package (R407, R408). -/
  admission : Nat
  order : Nat
  /-- The spell that the strand has been Active or Held without a break: a number of its own for each (R407). -/
  spell : Nat
  /-- The cycles at which it entered Waiting for admission, and last issued or was admitted (R410, R413). -/
  waitSince : Nat
  issueSince : Nat
  yielded : Bool
  /-- Posted remote stores not yet acknowledged (R374). -/
  posted : Nat
  /-- The first matrix failure since the last `msync` (R311). -/
  mfail : Word
  /-- An index claimed by `cqput` or `halox` and not yet published (R282). -/
  claim : Option (BitVec 63)
  openBatch : Batch
  sealedBatches : List (Option Batch)
  tickets : List (Option Ticket)
  deriving DecidableEq, Repr

/-! ### Gangs -/

/-- A barrier counter (R382): registered participants, arrivals of the current instance, and the instance number. -/
structure BarCounter where
  registered : Nat
  arrived : Nat
  inst : Nat
  deriving DecidableEq, Repr

/-- The static facts of a gang's kernel, from its header (R133). -/
structure Kernel where
  header : W64
  entry : Nat
  codeSize : Nat
  calltab : W64
  strands : Nat
  wgs : Nat
  vregs : Nat
  vault : Nat
  lease : Nat
  lbar : Bool
  matrix : Bool
  node : Bool
  nodeWords : Nat
  paramSize : Nat
  wpre : Nat
  /-- The header's copy of bytes [19:8] (SHAPE, R441). -/
  shape : BitVec 96
  /-- The preloaded words (R134). -/
  preload : List Word
  /-- The patch overlay: byte offset from the header, and the word laid over it (R135). -/
  patches : List (Nat × Word)
  deriving DecidableEq, Repr

/-- A placed gang (R378). -/
structure Gang where
  ctx : BitVec 12
  ctxSlot : Slot
  gang : BitVec 24
  index : Nat
  ticket : BitVec 64
  die : Die
  quad : Quad
  /-- The cores that hold workgroups 0, 1, ... -/
  cores : List (BitVec 2)
  kernel : Kernel
  roles : List W64
  /-- The entry of the quad's vault allocation table that holds its allocation (R90). -/
  vat : Option (BitVec 5)
  /-- The map from acc0 to acc7 to physical tiles (R127). -/
  accMap : List (Option Nat)
  /-- Workgroup barrier counters and regroup counters, by workgroup (R382). -/
  wgBars : List BarCounter
  regroups : List BarCounter
  gangBar : BarCounter
  /-- The gang runs a node of a work graph (R399). -/
  isNode : Bool
  frozen : Bool
  /-- The cycle from which its strands may first issue: a co-resident launch is placed at once, and STAGGER orders the first issue of its gangs
  (R396). -/
  firstAt : Nat
  deriving DecidableEq, Repr

/-! ### Memory, translation and caches -/

/-- The bytes of every store of the package, in one list of the bytes that differ from 0, addresses strictly rising. The
device's memory, the host's, the vaults, the accumulator tiles and the unbacked page slots have ranges of their own
(`Config`). -/
abbrev Memory := List Host.Cell

/-- The canonical form: addresses strictly rising, and no entry equal to 0, which an unlisted address reads as. -/
def Memory.wf : Memory → Bool
  | [] => true
  | [c] => c.2 != 0
  | c :: d :: rest => c.2 != 0 && decide (c.1 < d.1) && Memory.wf (d :: rest)

/-- A cached translation (R41): context, virtual page number of the granule looked up, the leaf with its level, and where
the leaf stands. -/
structure TlbEntry where
  ctx : BitVec 12
  vpn : BitVec 41
  level : Nat
  leaf : W64
  leafDie : Die
  leafOff : BitVec 37
  deriving DecidableEq, Repr

/-- A cached pointer entry of the walk cache (R41): the table entry of a context at a level, by the va bits above the next
level's index. -/
structure WalkEntry where
  ctx : BitVec 12
  level : Nat
  pre : Nat
  entry : W64
  deriving DecidableEq, Repr

/-- A line of a first-level cache (R94): tag, set and way, the valid bits and the bytes of the sectors, the strand that filled
it with its admission number and spell (R405, R407), whether it is demoted (R415), and the sectors whose bits have changed, so that
their parity fails at the next look-up (R97). -/
structure L1Line where
  core : CoreId
  ctx : BitVec 12
  vline : BitVec 50
  set : Nat
  way : Nat
  valid : BitVec 4
  data : List Byte
  filler : Who
  adm : BitVec 4
  spell : Nat
  demoted : Bool
  upset : BitVec 4
  deriving DecidableEq, Repr

/-- A line of a quad's instruction/constant cache (R99). -/
structure ICLine where
  die : Die
  quad : Quad
  ctx : BitVec 12
  vline : BitVec 50
  set : Nat
  way : Nat
  data : List Byte
  deriving DecidableEq, Repr

/-- The bits of a tree pseudo-LRU over the ways of a set (R73, R94, R99): the cache, the set and the tree's node bits. -/
structure PlruTree where
  cache : Nat
  set : Nat
  bits : BitVec 16
  deriving DecidableEq, Repr

/-- A victim tag (R98), with the filler, its admission number at the fill, modulo 16 (R407), and its spell in the active set then. -/
structure VictimTag where
  core : CoreId
  set : Nat
  ctx : BitVec 12
  vline : BitVec 50
  filler : Who
  adm : BitVec 4
  spell : Nat
  deriving DecidableEq, Repr

/-- The sideband of a line (R30): format code and two S8 scales; absent when the valid bit is clear. -/
structure Sideband where
  fmt : BitVec 4
  scale0 : Byte
  scale1 : Byte
  deriving DecidableEq, Repr

/-- A resident ordinary line of the L2 (R70, R72, R74): its home address, slice, set and way, the sector bits, the pin count,
the sideband, and whether the sideband was dropped while pinned (R33). -/
structure L2Line where
  line : Nat
  slice : Nat
  set : Nat
  way : Nat
  valid : BitVec 4
  dirty : BitVec 4
  pins : Nat
  sideband : Option Sideband
  dropAtUnpin : Bool
  deriving DecidableEq, Repr

/-- The operation and element type a word of a partial copy is tagged with (R82): an integer operation of a width, or a
floating-point reduction. -/
inductive RedTag where
  | int (wide : Bool) (op : BitVec 4)
  | float (type : BitVec 2) (op : BitVec 2) (ftz : Bool)
  deriving DecidableEq, Repr

/-- A word of a partial copy: byte offset in the line, tag and value (R82). -/
structure PartialWord where
  off : Nat
  tag : RedTag
  val : W64
  deriving DecidableEq, Repr

/-- A partial copy of a line held for a virtual die (R82). -/
structure PartialCopy where
  line : Nat
  die : Die
  words : List PartialWord
  deriving DecidableEq, Repr

/-- A page slot of the unbacked partition (R58, R61): its quarter, context and page, the leaf it came from, and the written
mask. The data lie in `Memory`. -/
structure PageSlot where
  die : Die
  ctx : BitVec 12
  vpn : BitVec 41
  leafDie : Die
  leafOff : BitVec 37
  leaf : W64
  written : BitVec 512
  deriving DecidableEq, Repr

/-- A condition-monitor entry (R77, Table 2), with the slice, set and way it stands in. -/
structure Monitor where
  slice : Nat
  set : Nat
  way : Nat
  addr : Nat
  wide : Bool
  cond : BitVec 4
  val : W64
  ctx : BitVec 12
  pkg : BitVec 9
  who : Who
  fired : Bool
  deriving DecidableEq, Repr

/-- A wake on its way to a waiter, with the value of the word (R79). -/
structure Wake where
  who : Who
  value : W64
  deriving DecidableEq, Repr

/-- What a pending access does at its home (R228 to R237, R268 to R276). -/
inductive Access where
  /-- Read `n` bytes. -/
  | read (n : Nat)
  /-- Write the bytes. -/
  | write (data : List Byte)
  /-- An atomic of R232: 64-bit or 32-bit, operation, operand. -/
  | atomic (wide : Bool) (op : BitVec 4) (x : W64)
  /-- A compare-and-swap of R233 of `n` bytes. -/
  | cas (n : Nat) (c new : BitVec 128)
  /-- A reduction of R234. -/
  | redInt (wide : Bool) (op : BitVec 4) (x : W64)
  /-- A reduction of R235. -/
  | redFloat (type op : BitVec 2) (ftz : Bool) (x : W64)
  /-- A compensated-pair reduction of R237: 64-bit or 32-bit elements. -/
  | redPair (wide : Bool) (x : W64)
  /-- A monitor arm of R78: 64-bit or 32-bit word, condition, comparand. -/
  | arm (wide : Bool) (cond : BitVec 4) (val : W64)
  /-- A transaction-barrier arrival or expectation of R275: the arrivals and the bytes expected it adds, and the unbacked page that it
  writes, whose slot it takes at the home (R62). -/
  | tbar (arrive : Nat) (expect : Nat) (page : Option PageSlot)
  deriving DecidableEq, Repr

/-- Where the answer of an access goes: the deferred result, and the registers of one lane of it (or of the uniform set). -/
structure Reply where
  result : Nat
  /-- The lane; `none` for w registers. -/
  lane : Option Nat
  regs : List Nat
  /-- The b register that takes the 16 bytes instead (R247). -/
  breg : Option Nat
  deriving DecidableEq, Repr

/-- An access that has passed its checks and is on its way to its home (R362, R366). -/
structure Req where
  id : Nat
  who : Who
  /-- The issuing core, for its L1 (R94) and for the die of a partial copy (R82). -/
  core : CoreId
  ctx : BitVec 12
  /-- The address in `Memory`. -/
  addr : Nat
  size : Nat
  access : Access
  reply : Option Reply
  /-- The virtual line and the path when the access is one whose line the L1 may hold: fill at a generic load, refresh at a
  generic store, invalidate at any other (R94, Table 3). -/
  vline : BitVec 50
  path : BitVec 4
  deriving DecidableEq, Repr

/-- The result of a deferred instruction (R123): the registers whose bits it sets, the values that have come in, the accesses
still to be performed, and the sticky flags it raises. -/
structure Result where
  id : Nat
  who : Who
  vregs : List Nat
  wregs : List Nat
  vwrites : List (Nat × Nat × Word)
  wwrites : List (Nat × Word)
  mwrites : List (Nat × Word)
  bwrites : List (Nat × BitVec 128)
  pending : List Nat
  flags : BitVec 6
  rsvflags : BitVec 5
  deriving DecidableEq, Repr

/-! ### Invalidation rounds, the fabric, the host and boot -/

/-- Who started an invalidation round: a strand's `tlbinv`, the host's UINVA, the device itself, or a peer's KIND 7 packet with
its tag. -/
inductive RoundBy where
  | strand (w : Who)
  | host
  | device
  | peer (pkg : BitVec 9) (tag : BitVec 16)
  deriving DecidableEq, Repr

/-- An invalidation round in flight (R45 to R48): its fields, the agents that have received it, each with
the number that the next access had then, and those that have acknowledged it, and the peer
packages whose acknowledgement is awaited. -/
structure Round where
  id : Nat
  by_ : RoundBy
  kind : BitVec 2
  ctx : BitVec 12
  vpn : BitVec 41
  count : Nat
  pod : Bool
  received : List (Agent × Nat)
  acked : List Agent
  /-- The acknowledgements of the package that the initiator has counted (R48). -/
  counted : List Agent
  /-- The peers that have yet to acknowledge a `.pod` round, with the tag sent to each. -/
  peers : List (BitVec 9 × BitVec 16)
  deriving DecidableEq, Repr

/-- An agent that makes accesses of its own and is no strand: a channel of a copy engine (R103), the taking of a copy queue's or a launch queue's
entries (R107, R389), and the placing of a launch (R395). -/
inductive AgentKey where
  | channel (die : Die) (ch : BitVec 4)
  /-- The record of a channel's failure in its queue's header (R119). -/
  | halt (die : Die) (ch : BitVec 4)
  | copyQueue (die : Die) (queue : BitVec 6)
  | launchQueue (queue : BitVec 6)
  | launch (ticket : W64)
  deriving DecidableEq, Repr

/-- An access outstanding to a peer package (R374, R450): its tag, whether it is posted, the issuer, the reply's place, the
address, and the cycle it was sent. -/
structure PeerReq where
  tag : BitVec 16
  dst : BitVec 9
  kind : BitVec 4
  posted : Bool
  who : Option Who
  reply : Option Reply
  bytes : Nat
  /-- The flat address of the access, and the device physical address at the peer. -/
  va : W64
  dpa : Nat
  sent : Nat
  /-- The copy channel that made it, with the segment and the place in the row (R104). -/
  engine : Option (Nat × Nat × Nat)
  /-- It is one access of several that its strand's instruction makes in turn. -/
  script : Bool
  /-- The agent that awaits its answer (R39). -/
  agent : Option AgentKey
  deriving DecidableEq, Repr

/-- A packet the package has sent: the port it left by (R449), header flit and payload (R446). -/
structure Packet where
  port : Nat
  header : BitVec 256
  payload : List Byte
  deriving DecidableEq, Repr

/-- The lifetime counters of the field records (R469, Table 7). -/
structure FieldRecords where
  poweron : W64
  memcorr : W64
  memunc : W64
  ucreplay : W64
  ucoff : W64
  vaultcorr : W64
  l1par : W64
  monovf : W64
  keyovf : W64
  zdrop : W64
  zreplay : W64
  trips : W64
  fwstop : W64
  temphist : List W64
  curhist : List W64
  hosterr : W64
  /-- Completion signals that faulted (R398); Table 7 names no counter for them. -/
  sigfault : W64
  deriving DecidableEq, Repr

/-- All counters zero. -/
def FieldRecords.zero : FieldRecords :=
  ⟨0, 0, 0, 0, 0, 0, 0, 0, 0, 0, 0, 0, 0, List.replicate 16 0, List.replicate 16 0, 0, 0⟩

/-- The boot controller's own state (R461 to R465): the reason each physical position is excluded, the UCIe modules disabled,
the optical dies that failed, and the accepted image. -/
structure Boot where
  /-- Why each physical position is excluded (R464, CAP.WHY). -/
  why : List (BitVec 2)
  /-- The UCIe modules disabled, as CAP.UCOFF counts them, and those of each of the 12 links (R13). -/
  ucOff : BitVec 7
  linkOff : List Nat
  opticalFailed : BitVec 4
  /-- The digest of the accepted image's body, and its security version (R465). -/
  fwDigest : BitVec 256
  svn : BitVec 32
  nonce : List Byte
  report : List Byte
  deriving DecidableEq, Repr

/-- The state before stage 1. -/
def Boot.start : Boot := ⟨List.replicate 4 0, 0, List.replicate 12 0, 0, 0, 0, List.replicate 32 0, List.replicate 256 0⟩

/-- A `waitc` armed at a peer (R452): the strand, the package, the word there, and whether its cancel has been sent (R81). -/
structure PeerArm where
  who : Who
  pkg : BitVec 9
  dpa : Nat
  cancelled : Bool
  deriving DecidableEq, Repr

/-- A page being given a frame or moved (R63, R67): the slot's die and page, and the frame's die. -/
structure PageMove where
  die : Die
  ctx : BitVec 12
  vpn : BitVec 41
  target : Die
  /-- The assignment serves a reservation's shrink (R64). -/
  shrink : Bool
  deriving DecidableEq, Repr

/-! ### Ordered sections, regions and waits (R86, R271, R276, R419) -/

/-- A request waiting at the key table (R419): its slice, context, key and sequence number, and the lane. -/
structure KeyReq where
  slice : Nat
  ctx : BitVec 12
  key : W64
  seq : BitVec 31
  who : Who
  lane : Nat
  deriving DecidableEq, Repr

/-- A key-table entry that is not free (R419, Table 1). HELD is set where there is a holder; the sequence held is NEXT. FIRED (R428)
marks a grant kept for a frozen holder. IDLE is the count up to the cycle `idleAt`, and goes on from there while it counts. -/
structure KeyEntry where
  slice : Nat
  set : Nat
  way : Nat
  ctx : BitVec 12
  key : W64
  next : BitVec 31
  holder : Option (Who × Nat)
  fired : Bool
  idle : Nat
  idleAt : Nat
  deriving DecidableEq, Repr

/-- What a message to the key table asks (R422, R423, R426). -/
inductive KeyOp where
  | request
  | leave (close : Bool)
  | withdraw
  deriving DecidableEq, Repr

/-- A message on its way to the key table, or, with `at_`, a request that its core sends again at that cycle (R421). -/
structure KeyMsg where
  op : KeyOp
  ctx : BitVec 12
  key : W64
  seq : BitVec 31
  who : Who
  lane : Nat
  at_ : Nat
  deriving DecidableEq, Repr

/-- A grant on its way to the core of the lane (R422). -/
structure Grant where
  who : Who
  lane : Nat
  key : W64
  seq : BitVec 31
  deriving DecidableEq, Repr

/-- An entry of a context's region table (R271). -/
structure Region where
  ctx : BitVec 12
  obj : BitVec 57
  base : BitVec 57
  k : Nat
  deriving DecidableEq, Repr

/-- A wait of `tbar.wait` held at a quad's vault (R276). -/
structure VaultWait where
  die : Die
  quad : Quad
  addr : Nat
  phase : Word
  who : Who
  deriving DecidableEq, Repr
/-! ### Posted faults (R117, R436) -/

/-- How far a posted fault is: not yet on the ring, waiting for room on it, published with its ANSWER word at an address of `Memory`, or
answered. -/
inductive PostState where
  | queued
  /-- An entry of the ring is claimed, and not yet free to be written (R106). -/
  | claimed (index : Nat)
  | pending (answer : Nat)
  | fixed
  | unfixable
  deriving DecidableEq, Repr

/-- A fault that an engine has posted to the firmware slot of a quad, with the fields of the fix-up record (R436, Table 2). -/
structure Post where
  id : Nat
  die : Die
  quad : Quad
  source : BitVec 4
  unit_ : BitVec 4
  ctx : BitVec 12
  slot : Slot
  cls : BitVec 8
  detail : BitVec 16
  addr : W64
  walkent : W64
  /-- The number that names the posting engine as the waiter of a monitor (R436). -/
  code : Nat
  state : PostState
  deriving DecidableEq, Repr

/-- A segment of an engine's work: not begun, translated and its places checked for a HALO packet (R116), on the fix-up list with its posted fault, waiting for
a peer's replies, or done. -/
inductive SegState where
  | todo
  | checked (ok : Bool)
  | posted (post : Nat)
  | remote
  | done
  deriving DecidableEq, Repr

/-! ### The copy engines (R103 to R119) -/

/-- Where an access goes: a byte of `Memory` that stands for itself, a byte of an unbacked page (R58), or a peer's memory (R36). -/
inductive Place where
  | mem (a : Nat)
  | page (p : PageSlot) (off : Nat)
  | peer (pkg : BitVec 9) (dpa : Nat)
  deriving DecidableEq, Repr

/-- A segment of a copy packet (R117): row, first byte in the row, bytes; and the first byte with a source and the bytes that have one: a FILL
and the clipped bytes have none (R110). -/
structure CopySeg where
  row : Nat
  off : Nat
  len : Nat
  from_ : Nat
  sourced : Nat
  state : SegState
  /-- It is given up: the packet failed before it was written (R119). -/
  void : Bool
  /-- The places its translations gave, of the first byte with a source and of its first byte (R44, R116). -/
  src : Option Place
  dest : Option Place
  /-- What a peer has answered of its source so far: place among the bytes with a source, and bytes. -/
  got : List (Nat × List Byte)
  deriving DecidableEq, Repr

/-- A channel of a copy engine with the packet it runs (R103, R109). -/
structure Channel where
  id : Nat
  die : Die
  ch : BitVec 4
  queue : BitVec 6
  index : W64
  ctx : BitVec 12
  slot : Slot
  quad : Quad
  /-- The virtual address of its queue's ring header when it was taken (R108). -/
  header : W64
  packet : List Byte
  /-- The launch queue that its work is charged to (R402). -/
  payQ : Option (BitVec 6)
  /-- The strand whose `cqput` handed the packet over (R115). -/
  by_ : Option Who
  started : Bool
  segs : List CopySeg
  /-- The destination in force: the packet's DST, or the ring entry claimed (R110). -/
  dst : W64
  /-- The index of the ring entry claimed (R110), and whether it is published. -/
  ring : Option W64
  published : Bool
  /-- The notification of R114 is made, or given up. -/
  notified : Bool
  /-- The posted fault that the channel waits for, and of what: 0 the destination ring, 1 its publication, 2 the notification, 3 the record of a
  failure and 4 the release, both in the queue's ring header. -/
  post : Option Nat
  postFor : Nat
  /-- A segment of it has met a fault while the fix-up list was full: it issues no other until an entry frees (R117). -/
  stuck : Bool
  /-- The entry of its matrix command, once it has entered, and whether the pass has been applied (R112). -/
  command : Option Nat
  applied : Bool
  /-- The error code of Table 5; 0 while none; and whether the queue has been halted with it (R119). -/
  code : Nat
  halted : Bool
  /-- The packet is complete but for the release of its entry, which is made in index order (R107). -/
  complete : Bool
  deriving DecidableEq, Repr

/-- A queue whose next entry could not be taken, with the posted fault it waits for (R107, R390), and what faulted: 0 the header,
1 the entry or its tag. -/
structure QueueWait where
  /-- The copy engine's die; none for a launch queue. -/
  die : Option Die
  queue : BitVec 6
  post : Nat
  stage : Nat
  deriving DecidableEq, Repr

/-- An entry that a strand's `cqput` published: where it stands and whose it is (R115). -/
structure Handed where
  die : Die
  queue : BitVec 6
  index : W64
  who : Who
  /-- The launch queue that its work is charged to (R402), and the packet. -/
  payQ : Option (BitVec 6)
  packet : List Byte
  deriving DecidableEq, Repr

/-- A monitor that an engine or agent has armed (R106, R107, R389, R436), by its waiter; after a refusal, with the cycle at which it arms again
(R80). -/
structure EngineArm where
  who : Who
  again : Option Nat
  deriving DecidableEq, Repr

/-- A launch entry whose packet the agents have read, once, and which they have not taken off its ring yet (R389, R391): its queue's context and
header at that moment, and the packet. -/
structure LaunchTaken where
  queue : BitVec 6
  ctx : BitVec 12
  slot : Slot
  header : W64
  index : Nat
  packet : List Byte
  /-- The posted fault that it waits for, of a structure the packet names or of the ring header, and the status with which it is refused if that of a
  structure is not fixed. -/
  post : Option Nat
  unfixable : Nat
  /-- The status of its refusal, or of a NOP, whose signal is still to be performed (R393, R398). -/
  status : Option Nat
  /-- It is accepted, or its signal has been performed: only its release is left. -/
  finished : Bool
  deriving DecidableEq, Repr

/-! ### The matrix engines (R290 to R315) -/

/-- The kind of a reservation-table entry (R314, Table 5). -/
inductive MxKind where
  | mz | mma | gath | img
  | load (kind : BitVec 3)
  | drain (kind : BitVec 3)
  deriving DecidableEq, Repr

/-- A segment of an entry's fetch or drain (R298): the flat address of its first byte, cut at a 64 KiB granule. -/
structure MxSeg where
  operand : Nat
  granule : W64
  state : SegState
  deriving DecidableEq, Repr

/-- A line that a command has read, as it was at that instant, with its sideband if a fetch asked for it (R75, R297). -/
structure MxLine where
  addr : Nat
  data : List Byte
  sideband : Option (Option Sideband)
  deriving DecidableEq, Repr

/-- A vector or row that the engine holds: its flat address, its bytes, its block scale, if it has one, and the lines it was read from. -/
structure MxVec where
  operand : Nat
  addr : W64
  data : List Byte
  scale : Option Byte
  lines : List MxLine
  deriving DecidableEq, Repr

/-- An entry of a quad's reservation table (R299). -/
structure MxEntry where
  id : Nat
  die : Die
  quad : Quad
  /-- The strand that entered it; none for a command of the copy channel `chan`. -/
  who : Option Who
  chan : Option Nat
  /-- The operand that a copy delivered to a vault, and the gang whose roles resolve it (R112, R115). -/
  via : Option (Nat × BitVec 24)
  core : CoreId
  ctx : BitVec 12
  slot : Slot
  gang : BitVec 24
  tile : Nat
  kind : MxKind
  mcw : W64
  opa : W64
  opb : W64
  lanes : Word
  rows : List W64
  segs : List MxSeg
  held : List MxVec
  /-- The lines it has pinned (R74). -/
  pins : List Nat
  /-- Its failure code (Table 3), once it has failed. -/
  code : Nat
  aged : Bool
  /-- Frozen with its gang (R312). -/
  frozen : Bool
  /-- The cycle at which it became ready. -/
  readyAt : Option Nat
  deriving DecidableEq, Repr

/-! ### Rays and light trees (R317 to R337) -/

/-- The instruction that a lane's traversal serves. -/
inductive RayKind where
  | trace | traceocc | trres | ltwalk
  deriving DecidableEq, Repr

/-- A lane under way: its operands at issue, its answer once it has ended, and the posted fault it waits for. -/
structure RayLane where
  lane : Nat
  a : List Word
  b : List Word
  answer : Option (List Word)
  post : Option Nat
  deriving DecidableEq, Repr

/-- A `trace`, `traceocc`, `trres` or `ltwalk` in flight (R332): it is named by its deferred result. -/
structure RayOp where
  result : Nat
  who : Who
  core : CoreId
  ctx : BitVec 12
  slot : Slot
  kind : RayKind
  dest : Nat
  lanes : List RayLane
  deriving DecidableEq, Repr

/-- A core's copy of a context's ray format table (R318). -/
structure RayTable where
  core : CoreId
  ctx : BitVec 12
  entries : List W64
  /-- The posted fault of the load that has not been answered. -/
  post : Option Nat
  deriving DecidableEq, Repr

/-! ### The Twill engines (R351 to R361) -/

/-- A candidate of a pixel (R354, R355): its record, kind, index and draw, and the ph that the callable has given. -/
structure TwillCand where
  rec_ : List Word
  kind : Nat
  index : Nat
  draw : Word
  ph : Option Word
  deriving DecidableEq, Repr

/-- The pixel at hand: its current record and candidates. -/
structure TwillWork where
  pixel : Nat
  cur : List Word
  cands : List TwillCand
  deriving DecidableEq, Repr

/-- An operation of a quad's Twill engine (R353). -/
structure TwillOp where
  id : Nat
  die : Die
  quad : Quad
  who : Who
  ticket : Nat
  ctx : BitVec 12
  slot : Slot
  /-- The descriptor's address (R356) and the descriptor. -/
  addr : W64
  descriptor : List Byte
  header : W64
  started : Bool
  /-- The next pixel of the rectangle, in row order. -/
  pixel : Nat
  work : Option TwillWork
  /-- Pixels set aside on the fix-up list, each with its posted fault (R359). -/
  fixups : List (Nat × Nat)
  failed : Bool
  deriving DecidableEq, Repr

/-! ### Launches (R389 to R403) -/

/-- A node of a work graph (R399 to R401): the fields of its entry, the records appended and taken so far, the cycle at which the
first record arrived while none was pending, and its kernel. -/
structure Node where
  kernel : Kernel
  /-- The role words of the parameter block that its kernel names. -/
  roles : List W64
  buf : W64
  cap : Nat
  timer : Nat
  appended : Nat
  taken : Nat
  firstAt : Nat
  /-- Its timer has lapsed, or an `emit` is parked on its full buffer: its records are due. -/
  due : Bool
  deriving DecidableEq, Repr

/-- An entry of the launch table (R393). -/
structure Launch where
  ticket : W64
  queue : BitVec 6
  ctx : BitVec 12
  slot : Slot
  packet : List Byte
  kernel : Kernel
  /-- The role words of the parameter block, and the words of its user area that the launch preloads and patches (R134, R135). -/
  roles : List W64
  n : Nat
  next : Nat
  base : Nat
  retired : Nat
  /-- Node gangs placed and not retired (R401). -/
  nodeGangs : Nat
  /-- STATUS, once the launch has failed. -/
  status : Nat
  /-- The cycle of its last placement on each virtual die (R395). -/
  lastOn : NatMap
  /-- The cycle since which it has been deferred for headroom. -/
  deferred : Option Nat
  /-- The free-room bits published for it (R394). -/
  room : BitVec 4
  /-- The copy entries that REL waits for once the last gang has retired (R392). -/
  waits : List (Die × BitVec 6 × W64)
  /-- The copy channels that have completed such entries at a narrower scope than `.pod`, and whose remote writes a launch of that scope still
  waits for. -/
  acks : List Nat
  nodes : List Node
  /-- The posted fault of an affinity byte. -/
  post : Option Nat
  /-- The status with which it ends, once only its signal is left (R398). -/
  closing : Option Nat
  deriving DecidableEq, Repr

/-- A charge that has not been subtracted yet: queue and femtojoules (R402). -/
structure Charge where
  queue : BitVec 6
  amount : Nat
  deriving DecidableEq, Repr

/-! ### Context commands (R438, R439) -/

/-- A context command under way: what it has come to, and the posted fault it waits for. -/
structure CtxRun where
  /-- The outcome, once there is one: success, or failure. -/
  outcome : Option Bool
  post : Option Nat
  /-- KIND of the record that the command itself leaves in CTXSTATs instead of 4: the kill's 3. -/
  kind : Nat
  deriving DecidableEq, Repr


/-! ### The state -/

/-- One entry of the agenda: which agent moves next. Where the spec lets several agents move in any order, the agenda, which
is plain data, fixes the order of one run. -/
inductive Turn where
  /-- The strand at this place of `State.strands` issues its next sequence or iteration, and the cycles pass. -/
  | issue (strand cycles : Nat)
  /-- The event happens. -/
  | event (i : Instr)
  /-- The partial copy of a line held for a virtual die is evicted, and combined alone (R83). -/
  | evictCopy (line : Nat) (die : Die)
  /-- An ordinary line of the L2 is evicted (R72). -/
  | evictLine (line : Nat)
  /-- The host processor writes, or reads, bytes of its own memory, by host physical address (R458). -/
  | hostStore (addr : Nat) (data : List Byte)
  | hostLoad (addr n : Nat)
  /-- A bit of a resident L1 sector changes, so that its parity fails (R97). -/
  | upsetL1 (core : CoreId) (ctx : BitVec 12) (vline : BitVec 50) (sector : BitVec 2)
  /-- One bit, or two, of the 32-byte vault word that holds a byte change (R93). -/
  | upsetVault (addr : Nat) (double : Bool)
  /-- The cycles pass. -/
  | pass (cycles : Nat)
  deriving DecidableEq, Repr

/-- Why the machine stops with a fault. -/
inductive Fault where
  /-- Raised by `exec` of an instruction word when `State.cur` names no strand: an instruction is always some strand's. Safe:
  no run of the machine issues an instruction of no strand. -/
  | noStrand
  deriving DecidableEq, Repr

/-- Why the model refuses a step. -/
inductive Refusal where
  /-- Raised by an arm of `exec` whose instruction has no meaning yet. Safe: nothing is claimed of it. -/
  | notModelled (mnemonic : String)
  deriving DecidableEq, Repr

/-- The whole state of the package. -/
structure State where
  strands : List Strand
  /-- The strand that issues. -/
  cur : Nat
  agenda : List Turn
  gangs : List Gang
  mem : Memory
  /-- The configuration registers that differ from their reset values. -/
  regs : List (CReg × W64)
  coreTlb : List (CoreId × TlbEntry)
  quadTlb : List (Die × Quad × TlbEntry)
  walkCache : List (Die × WalkEntry)
  l1 : List L1Line
  icache : List ICLine
  plru : List PlruTree
  victims : List VictimTag
  l2 : List L2Line
  partials : List PartialCopy
  slots : List PageSlot
  monitors : List Monitor
  wakes : List Wake
  reqs : List Req
  results : List Result
  nextId : Nat
  /-- Invalidation rounds in flight and, queued in order of arrival, those received from peers (R49). -/
  rounds : List Round
  /-- Accesses outstanding to peers, and the packets sent. -/
  peerReqs : List PeerReq
  zsent : List Packet
  /-- The packages to which no new request is sent until those outstanding are answered, since their number of ports changed
  (R449). -/
  routeStale : List (BitVec 9)
  /-- The Zotan ports that are up (R445), and the flit failures in a row of each port and each UCIe link (R12, R445). -/
  portsUp : BitVec 16
  portFails : NatMap
  linkFails : NatMap
  /-- The attempts of each GDDR7 sector access under retry, by device physical address and kind (R23). -/
  memTries : NatMap
  /-- The clock sweeper's hand of each virtual die (R54). -/
  hands : NatMap
  /-- The answers given to the host: data, and whether the access was in error (R457). -/
  hostOut : List (List Byte × Bool)
  records : FieldRecords
  /-- The copy of the field records in the module's flash (R469): it survives module reset. -/
  flash : FieldRecords
  boot : Boot
  /-- The firmware slots that have stopped, by die, quad and core (R434). -/
  stopped : List CoreId
  /-- The compute die whose warm reset runs (R466). -/
  dieReset : Option Die
  /-- The dies whose warm reset failed (R466): their memory is an uncorrectable error. -/
  deadDies : List Die
  /-- The clock state asked for by an accepted PWRCTL write (R467). -/
  clockPending : Option (BitVec 4)
  /-- Late frame assignments waiting for a frame or a round (R63). -/
  moves : List PageMove
  /-- Each core's budget, its locality losses of the epoch that count, and sr.vtthresh.THRESH (R406, R407). -/
  budgets : List (CoreId × Nat)
  losses : List (CoreId × Nat)
  thresholds : List (CoreId × Word)
  /-- Admissions so far, in the package (R408). -/
  admissions : Nat
  /-- The launch-barrier counters taken, by ticket (R382, R384). -/
  lbars : List (W64 × BarCounter)
  /-- The key table (R86, R419): entries, stored requests, messages and grants on their way, and requests to be sent again. -/
  keys : List KeyEntry
  keyReqs : List KeyReq
  keyMsgs : List KeyMsg
  keyGrants : List Grant
  keyRetries : List KeyMsg
  /-- The region tables (R271). -/
  regions : List Region
  /-- The waits held at the vaults (R276). -/
  vaultWaits : List VaultWait
  /-- The sizes asked of unbacked partitions and not yet taken (R60). -/
  resizes : List (Die × Nat)
  /-- The `waitc` strands whose cancel is on its way to the home (R81, R277). -/
  cancels : List Who
  /-- The last epoch that has ended, by core (R405). -/
  epochs : List (CoreId × Nat)
  /-- The faults posted to the firmware slots (R436). -/
  posts : List Post
  /-- The copy engines: channels, queues that wait for an answer, entries handed over by strands, and the monitors that engines and agents have
  armed (R103, R107, R115, R389). -/
  channels : List Channel
  queueWaits : List QueueWait
  handed : List Handed
  armed : List EngineArm
  /-- What peers have answered to the accesses that an agent's operation makes one after another, by access; none for a fault (R39). -/
  scripts : List (AgentKey × Nat × Option (List Byte))
  /-- The configuration registers whose last write has taken effect and is not complete: a CQCTLn or LQCTLn whose EN was cleared (R108,
  R390), an FWCTLn whose EN was changed (R29). -/
  pendingWrites : List CReg
  /-- The matrix engines: reservation tables, the cycle until which each quad's engine is busy, and the activity counters, three to a quad
  (R299, R302). -/
  mxEntries : List MxEntry
  mxBusy : NatMap
  activity : NatMap
  /-- Traversals and walks in flight, and the cores' format tables (R317, R318). -/
  rayOps : List RayOp
  rayTables : List RayTable
  /-- The entries of vault allocation tables of which a write was refused: the errors that the quads' Bureau agents have received, latest first (R90). -/
  vatErrors : List (Die × Quad × BitVec 5)
  /-- The operations of the Twill engines (R351). -/
  twills : List TwillOp
  /-- The addresses of the descriptors of the strands' tickets (R356), by strand and ticket: a saved record does not hold them (R360). -/
  twillAddrs : List (Who × Nat × W64)
  /-- The launch table, the launch entries taken and not yet released, and the ticket counter (R389, R393). -/
  launches : List Launch
  taken : List LaunchTaken
  ticketNext : W64
  /-- The launches whose context has been saved, with what the agents read when they accepted them (R134, R440). -/
  keptLaunches : List Launch
  /-- The gangs that are swapped out, and the contexts of which no further gang is placed (R439). -/
  swapped : List (BitVec 12 × BitVec 24 × W64)
  ctxHeld : List (BitVec 12)
  /-- Charges under way, the charges of each die since it last published HEAD with the cycle of that, and the cycle of each queue's last
  refill (R394, R402, R403). -/
  charges : List Charge
  dieCharges : NatMap
  headAt : NatMap
  refills : NatMap
  /-- The context whose accesses the event at hand makes, the queue they are charged to, and the die of the work (R24, R402). -/
  payer : Option (BitVec 12 × Option (BitVec 6) × Die)
  /-- The sectors of dies whose warm reset failed that the event at hand met: die, die offset, and the context that made the access (R24,
  R466). -/
  lost : List (Die × Nat × BitVec 12)
  /-- The contexts whose vault words that the event at hand read have an uncorrectable error (R93). -/
  lostVault : List (BitVec 12)
  /-- The lines of the accesses, since reset, that could not be performed in the step that made them: no way (R73), a stopped die, or an
  uncorrectable error. The step that adds to it is undone but for what it says of errors, so it is empty between steps. -/
  stalled : List Nat
  /-- The sectors whose last fetch, for an access of no context, has failed: the access that waits for it is answered in error (R24). -/
  memFails : List Nat
  /-- The 32-byte vault words in which one bit, or two, have changed since they were written (R93). -/
  vaultUpsets : List (Nat × Bool)
  /-- The waits armed at peers (R452). -/
  peerArms : List PeerArm
  /-- The core clock in force, in units of 0.05 GHz (R467, R468). -/
  clock : Nat
  /-- The context command under way (R438). -/
  ctxRun : Option CtxRun
  /-- Core cycles since module reset (sr.cycle, R130). -/
  cycle : Nat
  /-- Steps taken, and free values drawn: what the free values of `Config` are applied to. -/
  stepNo : Nat
  fresh : Nat
  deriving DecidableEq, Repr

/-- The machine right after module reset: nothing resident, every table empty, every configuration register at its reset
value, and memory with nothing listed. -/
def State.reset : State where
  strands := []
  cur := 0
  agenda := []
  gangs := []
  mem := []
  regs := []
  coreTlb := []
  quadTlb := []
  walkCache := []
  l1 := []
  icache := []
  plru := []
  victims := []
  l2 := []
  partials := []
  slots := []
  monitors := []
  wakes := []
  reqs := []
  results := []
  nextId := 0
  rounds := []
  peerReqs := []
  zsent := []
  routeStale := []
  portsUp := 0xFFFF
  portFails := []
  linkFails := []
  memTries := []
  hands := []
  hostOut := []
  records := FieldRecords.zero
  flash := FieldRecords.zero
  boot := Boot.start
  stopped := []
  dieReset := none
  deadDies := []
  clockPending := none
  moves := []
  budgets := []
  losses := []
  thresholds := []
  admissions := 0
  lbars := []
  keys := []
  keyReqs := []
  keyMsgs := []
  keyGrants := []
  keyRetries := []
  regions := []
  vaultWaits := []
  resizes := []
  cancels := []
  epochs := []
  posts := []
  channels := []
  queueWaits := []
  handed := []
  armed := []
  scripts := []
  pendingWrites := []
  mxEntries := []
  mxBusy := []
  activity := []
  rayOps := []
  rayTables := []
  vatErrors := []
  twills := []
  twillAddrs := []
  launches := []
  taken := []
  ticketNext := 0
  keptLaunches := []
  swapped := []
  ctxHeld := []
  charges := []
  dieCharges := []
  headAt := []
  refills := []
  payer := none
  lost := []
  lostVault := []
  stalled := []
  memFails := []
  vaultUpsets := []
  peerArms := []
  clock := 20
  ctxRun := none
  cycle := 0
  stepNo := 0
  fresh := 0

end Sys2Proof.Machine
end

