-- ==== Sys2Proof/Machine/Ops.lean ====
section
/-! DEFINITION. The named operations over the state: register tables, rows, memory, configuration registers, strands, time
and free values, taking a fault or trap and escalation (R431 to R434), and the return from a handler. -/

namespace Sys2Proof.Machine

open Sys2Proof

/-! ### Tables of registers -/

/-- A table of `n` registers with one written. The result always has `n` entries. -/
def tabSet {α : Type} (n : Nat) (l : List α) (i : Nat) (x d : α) : List α :=
  (List.range n).map (fun j => if j = i then x else l.getD j d)

/-- A set of numbers, kept without repeats: one added. -/
def addTo (l : List Nat) (r : Nat) : List Nat := if l.contains r then l else r :: l

/-- A set of numbers with one taken out. -/
def dropFrom (l : List Nat) (r : Nat) : List Nat := l.filter (· != r)

/-- A row built lane by lane. -/
def buildRow (f : Nat → Word) : Row := (List.range 32).map f

/-- Lane `i` of a row. -/
def laneOf (r : Row) (i : Nat) : Word := r.getD i 0

/-- A row in which the lanes of `act` take new values and the others keep theirs (R126, R178). -/
def mergeRow (act : Word) (f : Nat → Word) (old : Row) : Row :=
  buildRow (fun i => if act.getLsbD i then f i else laneOf old i)

/-- A lane mask built lane by lane. -/
def buildMask (f : Nat → Bool) : Word := BitVec.ofNat 32 ((List.range 32).foldl (fun n i => if f i then n + 2 ^ i else n) 0)

/-- The lanes of a mask in ascending order. -/
def lanesOf (m : Word) : List Nat := (List.range 32).filter (fun i => m.getLsbD i)

/-- The number of bits set. -/
def popCount {n : Nat} (x : BitVec n) : Nat := (List.range n).foldl (fun k i => if x.getLsbD i then k + 1 else k) 0

/-! ### Bit fields -/

/-- Bits [hi:lo] of a word, as a number. -/
def field {n : Nat} (x : BitVec n) (hi lo : Nat) : Nat := x.toNat / 2 ^ lo % 2 ^ (hi - lo + 1)

/-- A word with bits [hi:lo] replaced. -/
def setField {n : Nat} (x : BitVec n) (hi lo v : Nat) : BitVec n :=
  BitVec.ofNat n (x.toNat - field x hi lo * 2 ^ lo + v % 2 ^ (hi - lo + 1) * 2 ^ lo)

/-! ### Memory -/

/-- The byte at an address; an unlisted address reads as 0. -/
def Memory.get (m : Memory) (a : Nat) : Byte :=
  match m.find? (fun c => c.1 == a) with
  | some c => c.2
  | none => 0

/-- The cells of a run of bytes; a zero byte has none. -/
def cellsOf : Nat → List Byte → Memory
  | _, [] => []
  | a, b :: bs => if b == 0 then cellsOf (a + 1) bs else (a, b) :: cellsOf (a + 1) bs

/-- Memory with the run of bytes from `a` replaced. -/
def Memory.put (m : Memory) (a : Nat) (data : List Byte) : Memory :=
  m.filter (fun c => decide (c.1 < a)) ++ cellsOf a data ++ m.filter (fun c => decide (a + data.length ≤ c.1))

/-- Memory with the bytes of a range zero. -/
def Memory.zero (m : Memory) (a n : Nat) : Memory := m.filter (fun c => decide (c.1 < a) || decide (a + n ≤ c.1))

/-- The bytes of a range. -/
def Memory.read (m : Memory) (a n : Nat) : List Byte := (List.range n).map (fun i => m.get (a + i))

/-- The number of little-endian bytes (R3). -/
def leNat : List Byte → Nat
  | [] => 0
  | b :: bs => b.toNat + 256 * leNat bs

/-- The `n` little-endian bytes of a number (R3). -/
def leBytes : Nat → Nat → List Byte
  | 0, _ => []
  | n + 1, x => BitVec.ofNat 8 x :: leBytes n (x / 256)

/-- A little-endian number of `n` bytes at an address. -/
def Memory.nat (m : Memory) (a n : Nat) : Nat := leNat (m.read a n)

/-- Memory with a little-endian number of `n` bytes written. -/
def Memory.putNat (m : Memory) (a n x : Nat) : Memory := m.put a (leBytes n x)

/-- Two ranges of bytes overlap. -/
def overlaps (a n b m : Nat) : Bool := decide (a < b + m) && decide (b < a + n)

/-! ### Configuration registers (R5) -/

/-- The reset value of a configuration register: the Reset columns of its table, and zero for a field the table gives no
value (log entry 5). -/
def resetValue : CReg → W64
  | .vdmap => 0x0FE4             -- R8
  | .head _ => 0x05000500        -- R394
  | .therm _ => 0x00DC0000       -- R467
  | .ztmo => 100000              -- R454
  | _ => 0

/-- The value of a configuration register. -/
def State.reg (s : State) (r : CReg) : W64 :=
  match s.regs.find? (fun e => e.1 == r) with
  | some e => e.2
  | none => resetValue r

/-- A configuration register given a value. -/
def State.setReg (s : State) (r : CReg) (v : W64) : State :=
  let rest := s.regs.filter (fun e => e.1 != r)
  { s with regs := if v == resetValue r then rest else (r, v) :: rest }

/-- A field of a configuration register given a value. -/
def State.setRegField (s : State) (r : CReg) (hi lo v : Nat) : State := s.setReg r (setField (s.reg r) hi lo v)

/-- The virtual die is bound to a physical position (R8). -/
def State.dieValid (s : State) (v : Die) : Bool := field (s.reg .vdmap) 11 8 / 2 ^ v.toNat % 2 == 1

/-- The physical position of a virtual die (R8). -/
def State.phys (s : State) (v : Die) : Nat := field (s.reg .vdmap) (2 * v.toNat + 1) (2 * v.toNat)

/-- The package's own number (R448). -/
def State.package (s : State) : Nat := field (s.reg .zpkg) 8 0

/-- The enabled context slot of a context identifier (R40). -/
def State.slotOf (s : State) (ctx : BitVec 12) : Option Slot :=
  ((List.range 16).map (BitVec.ofNat 4)).find?
    (fun k => (s.reg (.trbase k)).getLsbD 63 && field (s.reg (.trbase k)) 59 48 == ctx.toNat)

/-! ### Strands -/

/-- The firmware slots carry this gang number, which is no gang's (R379). -/
def firmwareGang : BitVec 24 := 0xFFFFFF

/-- Register row vN. -/
def Strand.row (st : Strand) (r : Nat) : Row := st.v.getD r []
/-- Lane i of vN. -/
def Strand.lane (st : Strand) (r i : Nat) : Word := laneOf (st.row r) i
/-- Lane i of the pair vN:vN+1. -/
def Strand.lane2 (st : Strand) (r i : Nat) : W64 := pair (st.lane r i) (st.lane (r + 1) i)
/-- Register wN. -/
def Strand.wreg (st : Strand) (r : Nat) : Word := st.w.getD r 0
/-- The pair wN:wN+1. -/
def Strand.wpair (st : Strand) (r : Nat) : W64 := pair (st.wreg r) (st.wreg (r + 1))
/-- Mask mN. -/
def Strand.mask (st : Strand) (r : Nat) : Word := st.m.getD r 0
/-- Buffer record bN. -/
def Strand.brec (st : Strand) (r : Nat) : BitVec 128 := st.b.getD r 0
/-- The allotment A (R121). -/
def Strand.allotment (st : Strand) : Nat := st.v.length
/-- The strand is a firmware slot. -/
def Strand.isFirmware (st : Strand) : Bool := st.who.gang == firmwareGang
/-- The strand runs in user mode (R129). -/
def Strand.isUser (st : Strand) : Bool := st.sr.mode == .user

/-- The lanes of vN in `act` written; the register is full afterwards (R123). -/
def Strand.setV (st : Strand) (r : Nat) (act : Word) (f : Nat → Word) : Strand :=
  { st with v := st.v.set r (mergeRow act f (st.row r)), emptyV := dropFrom st.emptyV r }

/-- wN written; the register is full afterwards (R123). -/
def Strand.setW (st : Strand) (r : Nat) (x : Word) : Strand :=
  { st with w := tabSet 64 st.w r x 0, emptyW := dropFrom st.emptyW r }

/-- The pair wN:wN+1 written. -/
def Strand.setW2 (st : Strand) (r : Nat) (x : W64) : Strand := (st.setW r (lo32 x)).setW (r + 1) (hi32 x)

/-- A run of w registers written. -/
def Strand.setWs (st : Strand) : Nat → List Word → Strand
  | _, [] => st
  | r, x :: xs => (st.setW r x).setWs (r + 1) xs

/-- mN written; m0 is ANDed with the live mask (R126). -/
def Strand.setM (st : Strand) (r : Nat) (x : Word) : Strand :=
  { st with m := tabSet 8 st.m r (if r = 0 then x &&& st.live else x) 0 }

/-- bN written. -/
def Strand.setB (st : Strand) (r : Nat) (x : BitVec 128) : Strand := { st with b := tabSet 16 st.b r x 0 }

/-- Full/empty bits cleared (R123). -/
def Strand.clearBits (st : Strand) (vs ws : List Nat) : Strand :=
  { st with emptyV := vs.foldl addTo st.emptyV, emptyW := ws.foldl addTo st.emptyW }

/-- Full/empty bits set (R123). -/
def Strand.setBits (st : Strand) (vs ws : List Nat) : Strand :=
  { st with emptyV := vs.foldl dropFrom st.emptyV, emptyW := ws.foldl dropFrom st.emptyW }

/-- Sticky floating-point flags raised (R164). -/
def Strand.orFlags (st : Strand) (f : BitVec 6) : Strand :=
  { st with sr := { st.sr with fpflags := st.sr.fpflags ||| f.setWidth 32 } }

/-- sr.status (R129, Table 3): REQ and SEC are given by the key table, which the caller knows. -/
def Strand.status (st : Strand) (req sec : Bool) : Word :=
  BitVec.ofNat 32
    ((if req then 256 else 0) + (if sec then 128 else 0) + (if st.sr.rfault.getLsbD 63 then 64 else 0)
      + (if st.sr.rpt then 32 else 0) + (if st.sr.hnd then 16 else 0)
      + (match st.sr.mode with | .user => 0 | .supervisor => 1 | .firmware => 2))

/-! ### The strands of the state -/

/-- The strand at an index changed. -/
def State.modStrand (s : State) (i : Nat) (f : Strand → Strand) : State :=
  match s.strands[i]? with
  | some st => { s with strands := s.strands.set i (f st) }
  | none => s

/-- The issuing strand changed. -/
def State.modCur (s : State) (f : Strand → Strand) : State := s.modStrand s.cur f

/-- The index of a strand by name. -/
def State.findStrand (s : State) (w : Who) : Option Nat := s.strands.findIdx? (fun st => st.who == w)

/-- The strand of a name changed, if it is resident. -/
def State.modWho (s : State) (w : Who) (f : Strand → Strand) : State :=
  match s.findStrand w with
  | some i => s.modStrand i f
  | none => s

/-- The gang of a strand. -/
def State.gangOf (s : State) (st : Strand) : Option Gang :=
  s.gangs.find? (fun g => g.ctx == st.who.ctx && g.gang == st.who.gang)

/-- A resident gang by name. -/
def State.findGang (s : State) (ctx : BitVec 12) (gang : BitVec 24) : Option Gang :=
  s.gangs.find? (fun g => g.ctx == ctx && g.gang == gang)

/-- A gang changed. -/
def State.modGang (s : State) (ctx : BitVec 12) (gang : BitVec 24) (f : Gang → Gang) : State :=
  { s with gangs := s.gangs.map (fun g => if g.ctx == ctx && g.gang == gang then f g else g) }

/-- A parked or held strand goes on at a cycle: a held one is active again, a parked one waits for admission (R381, Table 1); the
firmware slot is always in the active set (R413). -/
def Strand.wake (st : Strand) (now : Nat) : Strand :=
  match st.state with
  | .held => { st with state := .active, park := none }
  | .parked => { st with state := if st.isFirmware then .active else .waiting, park := none, waitSince := now }
  | .frozen =>
    { st with park := none, waitSince := now, before := match st.before with | .held => .active | .parked => .waiting | x => x }
  | _ => { st with park := none }

/-- A strand held in place, with its lease (R381). -/
def Strand.hold (st : Strand) (p : Park) : Strand := { st with state := .held, park := some p }

/-- A strand parked, with no lease (R381). -/
def Strand.parkAt (st : Strand) (p : Park) : Strand := { st with state := .parked, park := some p }

/-- A fresh identifier. -/
def State.newId (s : State) : Nat × State := (s.nextId, { s with nextId := s.nextId + 1 })

/-- A fresh free word (log entry 3). -/
def State.freeWord (s : State) : Word × State := (Config.freeWord s.fresh, { s with fresh := s.fresh + 1 })

/-- A fresh free choice (log entry 3). -/
def State.freeBool (s : State) : Bool × State := (Config.freeBool s.fresh, { s with fresh := s.fresh + 1 })

/-- A free number of cycles (log entry 2). -/
def State.freeNat (s : State) : Nat × State := (Config.freeNat s.fresh, { s with fresh := s.fresh + 1 })

/-! ### Charges (R402) -/

/-- The rates of charges in femtojoules (R402, Table 7). -/
def chargeLane : Nat := 20000
def chargeUniform : Nat := 5000
def chargeSector : Nat := 6000
def chargeDram : Nat := 30000
def chargeVault : Nat := 2000
def chargeBox : Nat := 400
def chargeTriangle : Nat := 1200
def chargeFlit : Nat := 640000
/-- The rate of a matrix product, by its class: DY8, 8-bit, 16-bit. -/
def chargeProduct (cls : Nat) : Nat := if cls == 0 then 60 else if cls == 1 then 120 else 250

/-- An amount charged to a queue, and counted for the die (R394, R402). -/
def State.chargeQueue (s : State) (queue : BitVec 6) (die : Die) (fj : Nat) : State :=
  let old := match s.charges.find? (fun c => c.queue == queue) with | some c => c.amount | none => 0
  { s with
    charges := s.charges.filter (fun c => c.queue != queue) ++ [⟨queue, old + fj⟩]
    dieCharges := s.dieCharges.set die.toNat (s.dieCharges.get 0 die.toNat + fj) }

/-- The launching queue of a gang (R402): none for a gang of no launch. -/
def State.queueFor (s : State) (ctx : BitVec 12) (gang : BitVec 24) : Option (BitVec 6) :=
  (s.findGang ctx gang).bind (fun g => (s.launches.find? (fun l => l.ticket == g.ticket)).map (fun l => l.queue))

/-- An amount charged to the launching queue of a gang; activity of no launch's gang is charged to no queue (R402). -/
def State.charge (s : State) (ctx : BitVec 12) (gang : BitVec 24) (die : Die) (fj : Nat) : State :=
  match s.queueFor ctx gang with
  | some q => s.chargeQueue q die fj
  | none => s

/-- The accesses of the event at hand are made for the context of this gang and charged to its queue, on this die. -/
def State.paidBy (s : State) (ctx : BitVec 12) (gang : BitVec 24) (die : Die) : State :=
  { s with payer := some (ctx, s.queueFor ctx gang, die) }

/-- The accesses of the event at hand are made for a context, and charged to a queue. -/
def State.workFor (s : State) (ctx : BitVec 12) (queue : Option (BitVec 6)) (die : Die) : State := { s with payer := some (ctx, queue, die) }

/-- An amount charged to whom the event at hand is charged. -/
def State.pay (s : State) (fj : Nat) : State :=
  match s.payer with
  | some (_, some q, die) => s.chargeQueue q die fj
  | _ => s

/-! ### Faults and traps (R430 to R434) -/

/-- A trap of the whole strand, with no address (R430). -/
def Trap.plain (cls : BitVec 8) (detail : BitVec 16) : Trap := ⟨cls, detail, none, 0, 0, 0⟩

/-- Illegal instruction. -/
def Trap.illegal : Trap := Trap.plain 0x01 0
/-- Privilege. -/
def Trap.privilege : Trap := Trap.plain 0x02 0
/-- Empty register. -/
def Trap.empty : Trap := Trap.plain 0x03 0

/-- sr.cause of a trap (R129). -/
def Trap.cause (t : Trap) : Word := 1#1 ++ 0#7 ++ t.cls ++ t.detail

/-- sr.faddr is written for these classes, and zero for the others (R430). -/
def Trap.namesAddr (t : Trap) : Bool :=
  t.cls == 0x04 || (decide (0x10 ≤ t.cls.toNat) && decide (t.cls.toNat ≤ 0x19)) || t.cls == 0x22 || t.cls == 0x2A

/-- The w registers whose bits a wait has cleared (R123, R266). -/
def Strand.waitRegs (st : Strand) : List Nat :=
  match st.waiting with
  | some (.waitc _ d _ _ x _) => if x == 1 then [d.toNat, d.toNat + 1] else [d.toNat]
  | some (.tbarWait _ d _ _) => [d.toNat]
  | some (.tbarArrive _ d _ _ _) => [d.toNat]
  | _ => []

/-- The wait of a strand that takes a fault or trap has ended, and the bits of its destinations are set (R125); one that was parked waits for
admission (R409). -/
def Strand.stopWait (st : Strand) : Strand :=
  { st with
    emptyW := st.waitRegs.foldl dropFrom st.emptyW
    state := match st.state with | .parked => if st.isFirmware then .active else .waiting | .held => .active | x => x
    before := match st.state, st.before with | .frozen, .parked => .waiting | .frozen, _ => .active | _, b => b
    waiting := none
    remote := none
    script := []
    entering := []
    park := none }

/-- Handler entry (R431): the saved registers, the lanes, supervisor mode, and the handler's first word. A firmware slot stays
in firmware mode. A parked strand's wait ends, and it waits for admission (R409). -/
def Strand.enter (st : Strand) (t : Trap) (epc : W64) (rptstate : Word) : Strand :=
  { st.stopWait with
    sr := { st.sr with
      cause := t.cause
      epc := epc &&& ~~~3
      emask := st.mask 0
      donemask := t.done
      faddr := if t.namesAddr then t.faddr else 0
      walkent := t.walkent
      rptstate := rptstate
      rpt := rptstate.getLsbD 31
      hnd := true
      mode := if st.isFirmware then .firmware else .supervisor }
    m := tabSet 8 st.m 0 ((t.lanes.getD st.live) &&& st.live) 0
    pc := st.sr.handler &&& ~~~3
    rptAt := 0
    reissue := false }

/-- An event recorded in CTXSTATs (R438, Table 4): a second event while EV stands only counts in MORE. -/
def State.recordCtx (s : State) (slot : Slot) (kind : Nat) (cls : Nat) (detail : Nat) (gang : Nat) : State :=
  let r := s.reg (.ctxstat slot)
  if r.getLsbD 63 then s.setReg (.ctxstat slot) (setField r 11 0 (min 4095 (field r 11 0 + 1)))
  else
    s.setReg (.ctxstat slot)
      (BitVec.ofNat 64 (2 ^ 63 + kind * 2 ^ 60 + cls * 2 ^ 52 + detail * 2 ^ 36 + gang * 2 ^ 12))

/-- The fields of a `regroup`: first payload register, key, last payload register. -/
def regroupFields : Option Instr → Nat × Nat × Nat
  | some (.regroup _ d a b) => (d.toNat, a.toNat, b.toNat)
  | _ => (0, 0, 0)

/-- The payload bits of a `regroup` set again (R220). -/
def Strand.payloadFull (st : Strand) : Strand :=
  let (d, _, b) := regroupFields st.waiting
  { st with emptyV := (List.range (b - d + 1)).foldl (fun l j => dropFrom l (d + j)) st.emptyV }

/-- The wait is kept through a freeze: it is saved as a wait (R125, R267), or its instruction is under way (R435). -/
def Strand.keepsWait (st : Strand) : Bool :=
  match st.park, st.waiting with
  | some (.waitc _), _ => true
  | some (.rearm _ _), some (.waitc ..) => true
  | some .osenter, _ => true
  | some .osenterAny, _ => true
  | some (.bar 2 _), _ => true
  | some .cqput, _ => st.claim.isSome
  | some .remote, _ => true
  | some .posted, _ => true
  | some .round, _ => true
  | some .ubres, _ => true
  | some .tbar, _ => st.state == .held
  | _, _ => false

/-- A wait withdrawn (R125, R267): the strand issues the instruction again, and the bits of its destinations are set. Of a parked strand, sr.epc
names the first word of the instruction; a strand that is held, or waits for admission, is in no wait of R267. -/
def Strand.withdraw (st : Strand) : Strand :=
  let st1 := match st.waiting with | some (.regroup ..) => st.payloadFull | _ => st
  { st1 with
    park := none
    waiting := none
    script := []
    emptyW := st.waitRegs.foldl dropFrom st1.emptyW
    sr := if st.state == .parked then { st1.sr with epc := st.pc } else st1.sr }

/-- An interrupted repeat recorded outside a handler (R144): sr.rptstate, sr.status.RPT, and sr.epc at the `rpt` word. -/
def Strand.noteRepeat (st : Strand) : Strand :=
  if st.rptAt == 0 || st.sr.hnd then st
  else { st with sr := { st.sr with rptstate := 0x80000000 ||| BitVec.ofNat 32 st.rptAt, rpt := true, epc := st.pc } }

/-- A frozen strand goes on as it was (R386, R439): an interrupted repeat resumes at its next iteration (R144). One that is Active or Held again begins
a spell of its own (R407), and its peak is taken again (R405). -/
def Strand.resume (st : Strand) (spell : Nat) : Strand :=
  match st.state with
  | .frozen =>
    { st with
      state := st.before
      spell := spell
      leaseSeen := st.leaseSeen || st.before == .active || st.before == .held
      sr := if st.sr.hnd then st.sr else { st.sr with rpt := false, rptstate := st.sr.rptstate &&& 0x7FFFFFFF } }
  | _ => st

/-- The strand sleeps (R252): its `sleep` has retired. -/
def Strand.sleeps (st : Strand) : Bool := match st.park with | some (.sleep _) => true | _ => false

/-- A strand frozen: it remembers the state it had, and a wait that is not kept is withdrawn (R381, R386). A sleep ends, and the strand goes on with
the next sequence (R252). A strand of a handler that is inside a repeat runs on to the end of its sequence (R435). -/
def Strand.freeze (st : Strand) : Strand :=
  match st.state with
  | .frozen => st
  | .ended => st
  | .active => if st.sr.hnd && st.rptAt != 0 then st else { st.noteRepeat with state := .frozen, before := .active }
  | x =>
    if st.sleeps then { st with park := none, state := .frozen, before := if x == .held then .active else .waiting }
    else if st.keepsWait then { st.noteRepeat with state := .frozen, before := x }
    else { st.withdraw.noteRepeat with state := .frozen, before := if x == .held then .active else .waiting }

/-- The launch of a gang is co-resident: it holds a launch-barrier counter (R384). -/
def State.coresident (s : State) (g : Gang) : Bool := s.lbars.any (fun e => e.1 == g.ticket)

/-- The gangs that a freeze of one gang takes: the gang itself, and with it every gang of a co-resident launch, its node gangs among them (R385). -/
def State.freezeSet (s : State) (ctx : BitVec 12) (gang : BitVec 24) : List (BitVec 12 × BitVec 24) :=
  match s.findGang ctx gang with
  | none => []
  | some g =>
    if s.coresident g then (s.gangs.filter (fun h => h.ctx == ctx && h.ticket == g.ticket)).map (fun h => (h.ctx, h.gang))
    else [(ctx, gang)]

/-- A pin lowered (R74, R76); at the last one a postponed drop of the sideband takes effect (R33). -/
def State.unpin (s : State) (line : Nat) : State :=
  { s with l2 := s.l2.map (fun l =>
      if l.line == line && l.pins > 0 then
        if l.pins == 1 && l.dropAtUnpin then { l with pins := 0, sideband := none, dropAtUnpin := false }
        else { l with pins := l.pins - 1 }
      else l) }

/-- The fix-up postings of an entry's segments (R298). -/
def MxEntry.posts (e : MxEntry) : List Nat := e.segs.filterMap (fun x => match x.state with | .posted p => some p | _ => none)

/-- An entry that is to fetch again (R76, R312): nothing of it is held. -/
def MxEntry.unfetched (e : MxEntry) : MxEntry :=
  { e with segs := e.segs.map (fun x => { x with state := .todo }), held := [], pins := [], readyAt := none, aged := false }

/-- The unapplied entries of gangs become frozen entries: their pins are released, and their segments leave the fix-up list (R312). -/
def State.freezeEntries (s : State) (l : List (BitVec 12 × BitVec 24)) : State :=
  let mine := s.mxEntries.filter (fun e => l.contains (e.ctx, e.gang) && !e.frozen)
  let s1 := mine.foldl (fun s e => e.pins.foldl State.unpin s) s
  { s1 with
    mxEntries := s1.mxEntries.map (fun e => if l.contains (e.ctx, e.gang) then { e.unfetched with frozen := true } else e)
    posts := s1.posts.filter (fun p => !mine.any (fun e => e.posts.contains p.id)) }

/-- A strand of the gangs keeps its wait on a monitor through the freeze (R81). -/
def State.monitorKept (s : State) (w : Who) : Bool :=
  match s.strands.find? (fun st => st.who == w) with
  | some st => st.keepsWait
  | none => true

/-- A counter whose arrivals are withdrawn (R267, R386). -/
def BarCounter.withdrawn (b : BarCounter) : BarCounter := { b with arrived := 0 }

/-- The gangs of a list frozen: every strand Frozen, the gangs marked, the arrivals, monitors and wakes of withdrawn waits taken back, and the
matrix commands frozen with them (R81, R267, R312, R386). A peer's monitors here are not touched: their waiters are other strands (R77). -/
def State.freezeGangs (s : State) (l : List (BitVec 12 × BitVec 24)) : State :=
  let mine := fun (w : Who) => l.contains (w.ctx, w.gang)
  let s1 := s.freezeEntries l
  { s1 with
    strands := s1.strands.map (fun st => if mine st.who then st.freeze else st)
    gangs := s1.gangs.map (fun g =>
      if l.contains (g.ctx, g.gang) then
        { g with
          frozen := true
          wgBars := g.wgBars.map BarCounter.withdrawn
          regroups := g.regroups.map BarCounter.withdrawn
          gangBar := g.gangBar.withdrawn }
      else g)
    monitors := s1.monitors.filter (fun m => m.pkg.toNat != s1.package || !mine m.who || s1.monitorKept m.who)
    wakes := s1.wakes.filter (fun w => !mine w.who || s1.monitorKept w.who)
    reqs := s1.reqs.filter (fun r => !mine r.who || s1.monitorKept r.who || (match r.access with | .arm .. => false | _ => true))
    vaultWaits := s1.vaultWaits.filter (fun w => !mine w.who) }

/-- A counter of the field records raised; it saturates (R469). -/
def bumpRec (x : W64) : W64 := if x == BitVec.allOnes 64 then x else x + 1

/-- A firmware slot stops (R434): it counts in FWSTOP, and the host interrupt of bit 6 stands while a slot is stopped. -/
def State.stopFirmware (s : State) (i : Nat) (c : CoreId) : State :=
  { s.modStrand i (fun st => { st with state := .ended, park := none }) with
    stopped := c :: s.stopped
    records := { s.records with fwstop := bumpRec s.records.fwstop } }

/-- A strand whose second event escalates is frozen where it stands; its system registers stay as they were (R434). -/
def Strand.halt (st : Strand) : Strand :=
  match st.state with
  | .frozen => st
  | .ended => st
  | x => { st with state := .frozen, before := x }

/-- A fault or trap of the strand at an index (R431, R434): handler entry, an escalation that freezes its gang and is recorded
in CTXSTATs with KIND 1, or the stop of a firmware slot. -/
def State.takeTrap (s : State) (i : Nat) (t : Trap) (epc : W64) (rptstate : Word) : State :=
  match s.strands[i]? with
  | none => s
  | some st =>
    if st.sr.hnd || st.sr.handler &&& ~~~3 == 0 then
      if st.isFirmware then s.stopFirmware i st.core
      else
        (((s.modStrand i Strand.stopWait).freezeGangs (s.freezeSet st.who.ctx st.who.gang)).modStrand i (fun x => { x.halt with sr := st.sr })).recordCtx
          st.ctxSlot 1 t.cls.toNat t.detail.toNat st.who.gang.toNat
    else s.modStrand i (fun st => { st.enter t epc rptstate with waitSince := s.cycle })

/-- What `rfe` restores (R255): m0, the mode, and the sequence at sr.epc, with an interrupted repeat resumed at NEXT (R144). -/
def Strand.returnFrom (st : Strand) : Strand :=
  { st with
    m := tabSet 8 st.m 0 (st.sr.emask &&& st.live) 0
    pc := st.sr.epc &&& ~~~3
    rptAt := if st.sr.rptstate.getLsbD 31 then field st.sr.rptstate 7 0 else 0
    reissue := true
    sr := { st.sr with
      hnd := false
      rpt := false
      rptstate := st.sr.rptstate &&& 0x7FFFFFFF
      cause := st.sr.cause &&& 0x7FFFFFFF
      mode := if st.isFirmware then .firmware else .user } }

end Sys2Proof.Machine
end

