-- ==== Sys2Proof/Machine/Operands.lean ====
section
/-! DEFINITION. How an instruction sequence issues (R143, R144, R148): the checks in their order, the operands of one
iteration, the active lanes, and what follows an iteration: the next one, the next sequence, a jump, a wait or a trap. -/

namespace Sys2Proof.Machine

open Sys2Proof

/-! ### The fields of one iteration -/

/-- The field with the stride of iteration `k` added (R143); only v fields move. -/
def strideFld (f : Fld) (stride k : Nat) : Fld := if f.cls == .v then { f with reg := f.reg + k * stride } else f

/-- The operand a field names once `ext` has turned it into a w register (R142). -/
def asW (ua : Bool) (f : Fld) : Fld := if ua then { f with cls := .w } else f

/-- The repeat prefix of a sequence, or one iteration with no stride. -/
def seqRpt (p : Pfx) : Rpt := p.rpt.getD ⟨1, 0, 0, 0⟩

/-- The iterations of a sequence (R143). -/
def seqCount (p : Pfx) : Nat := (seqRpt p).count.toNat

/-- The words of a sequence (R136). -/
def seqWords (p : Pfx) : Nat :=
  (if p.rpt.isSome then 1 else 0) + (if p.ext.isSome then 1 else 0) + 1 + (if p.lit.isSome then 2 else 0)

/-- The operand fields of iteration `k`: [23:16] or [23:18], [15:8] or [17:12], [7:0] or [11:6], and the further group. A
literal leaves no last field (R145). -/
structure Fields where
  d : Fld
  a : Fld
  b : Fld
  x : Fld
  deriving DecidableEq, Repr

/-- The fields of iteration `k`. -/
def fieldsAt (i : Instr) (k : Nat) : Fields :=
  let o := opInfo i
  let p := i.px
  let r := seqRpt p
  let e := p.extD
  { d := strideFld o.d r.sd.toNat k
    a := strideFld (asW e.ua o.a) r.sa.toNat k
    b := if p.lit.isSome then Fld.none else strideFld (asW e.ub o.b) (if o.form == .lm then 0 else r.sb.toNat) k
    x := if p.lit.isSome && o.form == .ua && o.b.cls == .none then Fld.none else o.x }

/-- A register group lies in its file and starts where R139 lets it (R121, R139). -/
def groupOk (allot : Nat) (align : Bool) (f : Fld) : Bool :=
  let lim := match f.cls with | .v => allot | .w => 64 | _ => 8
  f.cls == .none || f.cls == .mask
    || (decide (f.reg + f.size ≤ lim) && (!align || f.size ≤ 1 || f.reg % min f.size 4 == 0))

/-- The register checks of one iteration (R121, R139). -/
def rangesOk (i : Instr) (allot k : Nat) : Bool :=
  let f := fieldsAt i k
  groupOk allot true f.d && groupOk allot true f.a && groupOk allot true f.b && groupOk allot (opInfo i).xAlign f.x

/-- The register checks of every iteration from `k` on, `n` of them (R144). -/
def rangesOkFrom (i : Instr) (allot : Nat) : Nat → Nat → Bool
  | _, 0 => true
  | k, n + 1 => rangesOk i allot k && rangesOkFrom i allot (k + 1) n

/-- A group holds an empty register (R123). -/
def Strand.hasEmpty (st : Strand) (f : Fld) : Bool :=
  match f.cls with
  | .v => (List.range f.size).any (fun j => st.emptyV.contains (f.reg + j))
  | .w => (List.range f.size).any (fun j => st.emptyW.contains (f.reg + j))
  | _ => false

/-- Trap on empty: a source that the prefix names and that is empty (R124, R142). -/
def trapsEmpty (i : Instr) (st : Strand) (k : Nat) : Bool :=
  let e := i.px.extD
  let f := fieldsAt i k
  (e.tea && f.a.rd && st.hasEmpty f.a) || (e.teb && f.b.rd && st.hasEmpty f.b) || (e.ted && f.d.rd && st.hasEmpty f.d)

/-- Some register that the iteration reads or writes is empty (R124). -/
def waitsEmpty (i : Instr) (st : Strand) (k : Nat) : Bool :=
  let f := fieldsAt i k
  st.hasEmpty f.d || st.hasEmpty f.a || st.hasEmpty f.b || st.hasEmpty f.x

/-! ### The order of the checks (R148) -/

/-- What the checks of R148 decide for a sequence. -/
inductive Verdict where
  /-- A trap before any effect. -/
  | trap (t : Trap)
  /-- No iteration is to execute (R144). -/
  | empty
  /-- The strand waits for a full/empty bit (R124). -/
  | wait
  /-- Iteration `k` executes. -/
  | go (k : Nat)
  deriving DecidableEq, Repr

/-- The iteration at hand (R144): a sequence with no repeat prefix issues once, whatever sr.rptstate said (R255). -/
def Strand.iter (i : Instr) (st : Strand) : Nat := if i.px.rpt.isSome then st.rptAt else 0

/-- The checks of a sequence at issue, in the order of R148: encoding, privilege, registers, full/empty state. -/
def verdict (i : Instr) (st : Strand) : Verdict :=
  let n := seqCount i.px
  let k := st.iter i
  if !i.wf then .trap Trap.illegal
  else if (opInfo i).privileged && st.isUser then .trap Trap.privilege
  else if n ≤ k then .empty
  else if !rangesOkFrom i st.allotment k (n - k) then .trap Trap.illegal
  else if trapsEmpty i st k then .trap Trap.empty
  else if waitsEmpty i st k then .wait
  else .go k

/-! ### One iteration -/

/-- What follows the effect of one iteration. -/
inductive After where
  /-- The iteration is complete. -/
  | done
  /-- The sequence is complete, and the strand goes on at the address. -/
  | jump (pc : W64)
  /-- The sequence has not issued: the strand has been put in a wait and issues it again. -/
  | again
  /-- The iteration took a fault or trap. -/
  | trap (t : Trap)
  /-- `trap n`: the trap is taken with sr.epc at the next sequence (R252). -/
  | trapNext (t : Trap)
  deriving DecidableEq, Repr

/-- The effect of one iteration on the state: it is given the iteration's number. -/
abbrev Body := Nat → State → State × After

/-- The address after the sequence. -/
def nextPc (i : Instr) (st : Strand) : W64 := st.pc + BitVec.ofNat 64 (4 * seqWords i.px)

/-- A sequence retires: the done mask of a re-issued one is cleared (R227). -/
def Strand.retire (st : Strand) (pc : W64) : Strand :=
  { st with
    pc := pc
    rptAt := 0
    reissue := false
    sr := if st.reissue then { st.sr with donemask := 0 } else st.sr }

/-- An iteration of several is complete (R143): the next one is at hand. -/
def Strand.stepRpt (st : Strand) (k : Nat) : Strand :=
  { st with
    rptAt := k + 1
    reissue := false
    sr := if st.reissue then { st.sr with donemask := 0 } else st.sr }

/-- The lanes already complete when a re-issued sequence traps (R431: the mask is cumulative over re-issues); a uniform sequence
has none (R245). -/
def Strand.priorDone (st : Strand) (i : Instr) : Word :=
  if st.reissue && ((opInfo i).form == .la || (opInfo i).form == .lb || (opInfo i).form == .lm) then st.sr.donemask else 0

/-- sr.rptstate at a trap in iteration `k` (R144): V and NEXT for a repeated sequence. -/
def rptstateAt (i : Instr) (k : Nat) : Word := if i.px.rpt.isSome then 0x80000000 ||| BitVec.ofNat 32 k else 0

/-- What follows iteration `k`. -/
def finish (i : Instr) (idx k : Nat) (before : Strand) (s : State) (a : After) : State :=
  match a with
  | .done =>
    if k + 1 < seqCount i.px then s.modStrand idx (fun st => st.stepRpt k)
    else s.modStrand idx (fun st => st.retire (nextPc i before))
  | .jump pc => s.modStrand idx (fun st => st.retire pc)
  | .again => s
  | .trap t => s.takeTrap idx { t with done := before.priorDone i ||| t.done } before.pc (rptstateAt i k)
  | .trapNext t => s.takeTrap idx { t with done := before.priorDone i ||| t.done } (nextPc i before) 0

/-- A fault that the strand owes comes before the sequence (R425). -/
def owedOr (v : Verdict) (st : Strand) : Verdict := match st.owed with | some t => .trap t | none => v

/-- An iteration that has met an access that cannot be performed now has not been executed: the strand is held until the access can be made (R73,
R466), and what an uncorrectable error leaves is settled at the end of the turn (R24, R93). -/
def State.heldBack (s t : State) : State :=
  { s.modCur (fun st => st.hold (.way (t.stalled.headD 0))) with lost := t.lost, lostVault := t.lostVault }

/-- One sequence, or one iteration of it, issued by the strand at `State.cur`. -/
def issue (i : Instr) (body : Body) (s : State) : Host.Outcome State Fault Refusal :=
  match s.strands[s.cur]? with
  | none => .fault .noStrand
  | some st =>
    match owedOr (verdict i st) st with
    | .trap t =>
      .next ((s.modCur (fun x => { x with owed := none })).takeTrap s.cur { t with done := st.priorDone i ||| t.done } st.pc
        (if st.iter i == 0 then 0 else rptstateAt i (st.iter i)))
    | .empty => .next (s.modCur (fun st => st.retire (nextPc i st)))
    | .wait => .next (s.modCur (fun st => st.hold .register))
    | .go k =>
      let r := body k s
      .next (if r.1.stalled == s.stalled then finish i s.cur k st r.1 r.2 else s.heldBack r.1)

/-- An iteration that only changes the strand. -/
def pureBody (f : Nat → Strand → Strand) : Body := fun k s => (s.modCur (f k), .done)

/-! ### Active lanes and operands -/

/-- The lanes an instruction acts on (R126, R178, R227): those of m0, of the predicate, and not already complete on a
re-issue. -/
def Strand.active (st : Strand) (px : Pfx) : Word :=
  let e := px.extD
  let p := if e.pred == 0 then BitVec.allOnes 32 else if e.pinv then ~~~st.mask e.pred.toNat else st.mask e.pred.toNat
  let m := st.mask 0 &&& p
  if st.reissue then m &&& ~~~st.sr.donemask else m

/-- The lanes of m0 alone, for `sel` (R178). -/
def Strand.activeNoPred (st : Strand) : Word := if st.reissue then st.mask 0 &&& ~~~st.sr.donemask else st.mask 0

/-- The operand a of lane `i`: v, or w under UA. -/
def srcA (px : Pfx) (f : Fields) (st : Strand) (i : Nat) : Word := if px.extD.ua then st.wreg f.a.reg else st.lane f.a.reg i

/-- The operand b of lane `i`: the literal, w under UB, or v. -/
def srcB (px : Pfx) (f : Fields) (st : Strand) (i : Nat) : Word :=
  match px.lit with
  | some l => l
  | none => if px.extD.ub then st.wreg f.b.reg else st.lane f.b.reg i

/-- The pair a of lane `i`. -/
def srcA2 (px : Pfx) (f : Fields) (st : Strand) (i : Nat) : W64 :=
  if px.extD.ua then st.wpair f.a.reg else st.lane2 f.a.reg i

/-- The pair b of lane `i`. -/
def srcB2 (px : Pfx) (f : Fields) (st : Strand) (i : Nat) : W64 :=
  if px.extD.ub then st.wpair f.b.reg else st.lane2 f.b.reg i

/-- The lanes of `act` of vN written, when there is any (R178). -/
def Strand.putV (st : Strand) (r : Nat) (act : Word) (f : Nat → Word) : Strand := if act == 0 then st else st.setV r act f

/-- The lanes of `act` of the pair vN:vN+1 written together. -/
def Strand.putV2 (st : Strand) (r : Nat) (act : Word) (f : Nat → W64) : Strand :=
  (st.putV r act (fun i => lo32 (f i))).putV (r + 1) act (fun i => hi32 (f i))

/-- The bits of `act` of mN written, when there is any (R178, R188). -/
def Strand.putM (st : Strand) (r : Nat) (act : Word) (f : Nat → Bool) : Strand :=
  if act == 0 then st else st.setM r ((st.mask r &&& ~~~act) ||| (buildMask f &&& act))

/-- A per-lane result of the sources a and b. -/
def laneBody2 (i : Instr) (f : Word → Word → Word) : Body :=
  pureBody (fun k st =>
    let fs := fieldsAt i k
    st.putV fs.d.reg (st.active i.px) (fun l => f (srcA i.px fs st l) (srcB i.px fs st l)))

/-- A per-lane result of the source a. -/
def laneBody1 (i : Instr) (f : Word → Word) : Body :=
  pureBody (fun k st =>
    let fs := fieldsAt i k
    st.putV fs.d.reg (st.active i.px) (fun l => f (srcA i.px fs st l)))

/-- A per-lane result of the sources a and b and the prior vd. -/
def laneBody3 (i : Instr) (f : Word → Word → Word → Word) : Body :=
  pureBody (fun k st =>
    let fs := fieldsAt i k
    st.putV fs.d.reg (st.active i.px) (fun l => f (srcA i.px fs st l) (srcB i.px fs st l) (st.lane fs.d.reg l)))

/-! ### Deferred results (R123) -/

/-- A deferred result of the issuing strand put under way: the bits of its registers are cleared. -/
def State.defer (s : State) (st : Strand) (r : Result) : State :=
  let s1 := s.modCur (fun x => x.clearBits r.vregs r.wregs)
  { s1 with results := s1.results ++ [{ r with id := s1.nextId, who := st.who }], nextId := s1.nextId + 1 }

/-- A result with nothing yet. -/
def Result.blank (who : Who) : Result := ⟨0, who, [], [], [], [], [], [], [], 0, 0⟩

/-- The writes of one v register in the lanes of `act`. -/
def vWrites (r : Nat) (act : Word) (f : Nat → Word) : List (Nat × Nat × Word) :=
  (lanesOf act).map (fun i => (r, i, f i))

end Sys2Proof.Machine
end

