-- ==== Sys2Proof/Machine/Flags.lean ====
section
/-! DEFINITION. The rounding mode and the sticky flags of the floating-point instructions (R158, R164, R193): results with
flags over the active lanes, completed at issue or deferred (R206). -/

namespace Sys2Proof.Machine

open Sys2Proof

/-- The rounding mode of an instruction: RMO's when it is present, sr.fpmode.RM otherwise (R158). -/
def roundMode (px : Pfx) (st : Strand) : Rm :=
  let r := px.extD.rmo
  Rm.ofCode (if r == 0 then st.sr.fpmode.extractLsb' 0 2 else r.extractLsb' 0 2)

/-- A rounded 32-bit result as a word. -/
def FRes.word (r : FRes) : Word := BitVec.ofNat 32 r.bits

/-- A rounded 64-bit result as a pair. -/
def FRes.pair (r : FRes) : W64 := BitVec.ofNat 64 r.bits

/-- The flags of the lanes of a mask, ORed (R164). -/
def laneFlags (act : Word) (f : Nat → FRes) : Flags := (lanesOf act).foldl (fun x i => x ||| (f i).flags) 0

/-- A floating-point result of one register, complete at issue. -/
def fpBody (i : Instr) (f : Nat → Strand → Fields → Nat → FRes) : Body :=
  pureBody (fun k st =>
    let fs := fieldsAt i k
    let act := st.active i.px
    (st.putV fs.d.reg act (fun l => (f k st fs l).word)).orFlags (laneFlags act (f k st fs)))

/-- A floating-point result of a pair, complete at issue. -/
def fpBodyPair (i : Instr) (f : Nat → Strand → Fields → Nat → FRes) : Body :=
  pureBody (fun k st =>
    let fs := fieldsAt i k
    let act := st.active i.px
    (st.putV2 fs.d.reg act (fun l => (f k st fs l).pair)).orFlags (laneFlags act (f k st fs)))

/-- A deferred floating-point result (R206): with no active lane nothing happens; otherwise the bits of vd are cleared, and the
values and flags are set when the result arrives. -/
def fpDeferred (i : Instr) (wide : Bool) (f : Nat → Strand → Fields → Nat → FRes) : Body := fun k s =>
  match s.strands[s.cur]? with
  | none => (s, .done)
  | some st =>
    let fs := fieldsAt i k
    let act := st.active i.px
    if act == 0 then (s, .done)
    else
      let r := { Result.blank st.who with
        vregs := if wide then [fs.d.reg, fs.d.reg + 1] else [fs.d.reg]
        vwrites :=
          if wide then
            vWrites fs.d.reg act (fun l => lo32 (f k st fs l).pair)
              ++ vWrites (fs.d.reg + 1) act (fun l => hi32 (f k st fs l).pair)
          else vWrites fs.d.reg act (fun l => (f k st fs l).word)
        flags := laneFlags act (f k st fs) }
      (s.defer st r, .done)

end Sys2Proof.Machine
end

