-- ==== Sys2Proof/Machine/LaneInt.lean ====
section
/-! DEFINITION. The per-lane integer, logic and compare instructions, opcodes 0x01 to 0x23 (R178 to R192). -/

namespace Sys2Proof.Machine

open Sys2Proof

/-- Sat over the signed 32-bit range (R160, R172). -/
def sat32 (x : Int) : Word := BitVec.ofInt 32 (max (-(2 ^ 31)) (min (2 ^ 31 - 1) x))

/-- A signed operation on words, exact, then saturated or taken modulo 2^32 (R180). -/
def arith (sat : Bool) (x : Int) : Word := if sat then sat32 x else BitVec.ofInt 32 x

/-- A condition of Table 3 on two words (R140, R188). -/
def condHolds {n : Nat} (c : BitVec 4) (a b : BitVec n) : Bool :=
  match c.toNat with
  | 0 => a == b
  | 1 => a != b
  | 2 => a.slt b
  | 3 => a.sle b
  | 4 => b.slt a
  | 5 => b.sle a
  | 6 => a.ult b
  | 7 => a.ule b
  | 8 => b.ult a
  | 9 => b.ule a
  | _ => false

/-- `iadd` (R180). -/
def addOp (sat : Bool) (a b : Word) : Word := arith sat (a.toInt + b.toInt)
/-- `isub` (R180). -/
def subOp (sat : Bool) (a b : Word) : Word := arith sat (a.toInt - b.toInt)
/-- `imul` (R180). -/
def mulOp (sat : Bool) (a b : Word) : Word := arith sat (a.toInt * b.toInt)
/-- `imad`: one exact product and sum (R180). -/
def madOp (sat : Bool) (a b d : Word) : Word := arith sat (a.toInt * b.toInt + d.toInt)
/-- `imulh`: bits [63:32] of the signed product (R182). -/
def mulhOp (a b : Word) : Word := (BitVec.ofInt 64 (a.toInt * b.toInt)).extractLsb' 32 32
/-- `imulhn`: bits [63:32] of the unsigned product (R182). -/
def mulhnOp (a b : Word) : Word := (BitVec.ofNat 64 (a.toNat * b.toNat)).extractLsb' 32 32
/-- `iabs` (R183). -/
def absOp (a : Word) : Word := if a.slt 0 then -a else a
/-- The lesser of two words, signed (R183). -/
def minOp {n : Nat} (a b : BitVec n) : BitVec n := if b.slt a then b else a
/-- The greater of two words, signed (R183). -/
def maxOp {n : Nat} (a b : BitVec n) : BitVec n := if a.slt b then b else a
/-- The lesser of two words, unsigned (R183). -/
def minnOp {n : Nat} (a b : BitVec n) : BitVec n := if b.ult a then b else a
/-- The greater of two words, unsigned (R183). -/
def maxnOp {n : Nat} (a b : BitVec n) : BitVec n := if a.ult b then b else a

/-- `shl` by the whole word (R185). -/
def shlOp {n : Nat} (a : BitVec n) (b : Word) : BitVec n := if b.toNat < n then a <<< b.toNat else 0
/-- `shr` (R185). -/
def shrOp {n : Nat} (a : BitVec n) (b : Word) : BitVec n := if b.toNat < n then a >>> b.toNat else 0
/-- `sra` (R185). -/
def sraOp {n : Nat} (a : BitVec n) (b : Word) : BitVec n := a.sshiftRight (min b.toNat n)
/-- `rotl` by the count modulo 32 (R185). -/
def rotlOp (a b : Word) : Word := a.rotateLeft (b.toNat % 32)

/-- `popc` (R186). -/
def popcOp (a : Word) : Word := BitVec.ofNat 32 (popCount a)
/-- `clz` (R186). -/
def clzOp (a : Word) : Word := BitVec.ofNat 32 (32 - bitLen a.toNat)
/-- The number of zero bits below the lowest set bit, among the `n` lowest; `n` when there is none. -/
def trailing (x : Nat) : Nat → Nat
  | 0 => 0
  | n + 1 => if x % 2 == 1 then 0 else trailing (x / 2) n + 1
/-- `ctz` (R186). -/
def ctzOp (a : Word) : Word := BitVec.ofNat 32 (trailing a.toNat 32)
/-- `brev` (R186). -/
def brevOp (a : Word) : Word := buildMask (fun i => a.getLsbD (31 - i))

/-- The position and width of a field control (R187). -/
def fieldControl (b : Word) : Nat × Nat := (field b 7 0, min (field b 15 8) 32)

/-- `bfe` (R187). -/
def bfeOp (a b : Word) : Word :=
  let (p, w) := fieldControl b
  BitVec.ofNat 32 (a.toNat / 2 ^ p % 2 ^ w)

/-- `bfes` (R187): the sign of a extends it without bound. -/
def bfesOp (a b : Word) : Word :=
  let (p, w) := fieldControl b
  if w == 0 then 0
  else
    let x := (a.toInt / 2 ^ p) % 2 ^ w
    BitVec.ofInt 32 (if x ≥ 2 ^ (w - 1) then x - 2 ^ w else x)

/-- `bfi` (R187): field bits past bit 31 are dropped. -/
def bfiOp (a b d : Word) : Word :=
  let (p, w) := fieldControl b
  let m := BitVec.ofNat 32 ((2 ^ w - 1) * 2 ^ p)
  (d &&& ~~~m) ||| (BitVec.ofNat 32 (a.toNat * 2 ^ p) &&& m)

/-! ### The instructions -/

/-- A two-source instruction. -/
def laneInstr2 (i : Instr) (f : Word → Word → Word) (s : State) : Host.Outcome State Fault Refusal := issue i (laneBody2 i f) s
/-- A one-source instruction. -/
def laneInstr1 (i : Instr) (f : Word → Word) (s : State) : Host.Outcome State Fault Refusal := issue i (laneBody1 i f) s
/-- A three-source instruction. -/
def laneInstr3 (i : Instr) (f : Word → Word → Word → Word) (s : State) : Host.Outcome State Fault Refusal :=
  issue i (laneBody3 i f) s

/-- A carry instruction (R181): the carry of lane i is bit i of m7; `f` gives the exact sum or difference of its operands and
the carry, and the carry out is that it leaves the unsigned range. -/
def carryBody (i : Instr) (f : Int → Int → Int → Int) : Body :=
  pureBody (fun k st =>
    let fs := fieldsAt i k
    let act := st.active i.px
    let x := fun l => f (srcA i.px fs st l).toNat (srcB i.px fs st l).toNat (if (st.mask 7).getLsbD l then 1 else 0)
    (st.putV fs.d.reg act (fun l => BitVec.ofInt 32 (x l))).putM 7 act (fun l => decide (x l < 0 ∨ 2 ^ 32 ≤ x l)))

/-- A comparison that writes a mask (R188, R197): the truth and the flags of each active lane. -/
def compareBody (i : Instr) (f : Word → Word → Bool × Flags) : Body :=
  pureBody (fun k st =>
    let fs := fieldsAt i k
    let act := st.active i.px
    let x := fun l => f (srcA i.px fs st l) (srcB i.px fs st l)
    (st.putM fs.d.reg act (fun l => (x l).1)).orFlags (laneFlags act (fun l => ⟨0, (x l).2⟩)))

/-- `iadd`. -/
def execIadd (px : Pfx) (d a b : BitVec 8) (s : State) : Host.Outcome State Fault Refusal :=
  laneInstr2 (.iadd px d a b) (addOp px.sat) s
/-- `iaddc`. -/
def execIaddc (px : Pfx) (d a b : BitVec 8) (s : State) : Host.Outcome State Fault Refusal :=
  issue (.iaddc px d a b) (carryBody (.iaddc px d a b) (fun x y c => x + y + c)) s
/-- `isub`. -/
def execIsub (px : Pfx) (d a b : BitVec 8) (s : State) : Host.Outcome State Fault Refusal :=
  laneInstr2 (.isub px d a b) (subOp px.sat) s
/-- `isubb`. -/
def execIsubb (px : Pfx) (d a b : BitVec 8) (s : State) : Host.Outcome State Fault Refusal :=
  issue (.isubb px d a b) (carryBody (.isubb px d a b) (fun x y c => x - y - c)) s
/-- `imul`. -/
def execImul (px : Pfx) (d a b : BitVec 8) (s : State) : Host.Outcome State Fault Refusal :=
  laneInstr2 (.imul px d a b) (mulOp px.sat) s
/-- `imulh`. -/
def execImulh (px : Pfx) (d a b : BitVec 8) (s : State) : Host.Outcome State Fault Refusal :=
  laneInstr2 (.imulh px d a b) mulhOp s
/-- `imulhn`. -/
def execImulhn (px : Pfx) (d a b : BitVec 8) (s : State) : Host.Outcome State Fault Refusal :=
  laneInstr2 (.imulhn px d a b) mulhnOp s
/-- `imad`. -/
def execImad (px : Pfx) (d a b : BitVec 8) (s : State) : Host.Outcome State Fault Refusal :=
  laneInstr3 (.imad px d a b) (madOp px.sat) s
/-- `iabs`. -/
def execIabs (px : Pfx) (d a : BitVec 8) (s : State) : Host.Outcome State Fault Refusal := laneInstr1 (.iabs px d a) absOp s
/-- `imin`. -/
def execImin (px : Pfx) (d a b : BitVec 8) (s : State) : Host.Outcome State Fault Refusal :=
  laneInstr2 (.imin px d a b) minOp s
/-- `imax`. -/
def execImax (px : Pfx) (d a b : BitVec 8) (s : State) : Host.Outcome State Fault Refusal :=
  laneInstr2 (.imax px d a b) maxOp s
/-- `iminn`. -/
def execIminn (px : Pfx) (d a b : BitVec 8) (s : State) : Host.Outcome State Fault Refusal :=
  laneInstr2 (.iminn px d a b) minnOp s
/-- `imaxn`. -/
def execImaxn (px : Pfx) (d a b : BitVec 8) (s : State) : Host.Outcome State Fault Refusal :=
  laneInstr2 (.imaxn px d a b) maxnOp s
/-- `icmp` (R188). -/
def execIcmp (px : Pfx) (c : BitVec 4) (m : BitVec 3) (a b : BitVec 8) (s : State) : Host.Outcome State Fault Refusal :=
  issue (.icmp px c m a b) (compareBody (.icmp px c m a b) (fun x y => (condHolds c x y, 0))) s

/-- `sel` (R189): the predicate chooses the operand and masks no lane. -/
def execSelL (px : Pfx) (d a b : BitVec 8) (s : State) : Host.Outcome State Fault Refusal :=
  let i : Instr := .selL px d a b
  issue i
    (pureBody (fun k st =>
      let fs := fieldsAt i k
      let p := st.mask px.extD.pred.toNat
      st.putV fs.d.reg st.activeNoPred
        (fun l => if p.getLsbD l != px.extD.pinv then srcA px fs st l else srcB px fs st l))) s

/-- `and`. -/
def execAndL (px : Pfx) (d a b : BitVec 8) (s : State) : Host.Outcome State Fault Refusal :=
  laneInstr2 (.andL px d a b) (· &&& ·) s
/-- `or`. -/
def execOrL (px : Pfx) (d a b : BitVec 8) (s : State) : Host.Outcome State Fault Refusal :=
  laneInstr2 (.orL px d a b) (· ||| ·) s
/-- `xor`. -/
def execXorL (px : Pfx) (d a b : BitVec 8) (s : State) : Host.Outcome State Fault Refusal :=
  laneInstr2 (.xorL px d a b) (· ^^^ ·) s
/-- `andn`. -/
def execAndn (px : Pfx) (d a b : BitVec 8) (s : State) : Host.Outcome State Fault Refusal :=
  laneInstr2 (.andn px d a b) (fun x y => x &&& ~~~y) s
/-- `not`. -/
def execNotL (px : Pfx) (d a : BitVec 8) (s : State) : Host.Outcome State Fault Refusal :=
  laneInstr1 (.notL px d a) (fun x => ~~~x) s
/-- `shl`. -/
def execShl (px : Pfx) (d a b : BitVec 8) (s : State) : Host.Outcome State Fault Refusal :=
  laneInstr2 (.shl px d a b) shlOp s
/-- `shr`. -/
def execShr (px : Pfx) (d a b : BitVec 8) (s : State) : Host.Outcome State Fault Refusal :=
  laneInstr2 (.shr px d a b) shrOp s
/-- `sra`. -/
def execSra (px : Pfx) (d a b : BitVec 8) (s : State) : Host.Outcome State Fault Refusal :=
  laneInstr2 (.sra px d a b) sraOp s
/-- `rotl`. -/
def execRotl (px : Pfx) (d a b : BitVec 8) (s : State) : Host.Outcome State Fault Refusal :=
  laneInstr2 (.rotl px d a b) rotlOp s
/-- `popc`. -/
def execPopc (px : Pfx) (d a : BitVec 8) (s : State) : Host.Outcome State Fault Refusal := laneInstr1 (.popc px d a) popcOp s
/-- `clz`. -/
def execClz (px : Pfx) (d a : BitVec 8) (s : State) : Host.Outcome State Fault Refusal := laneInstr1 (.clz px d a) clzOp s
/-- `ctz`. -/
def execCtz (px : Pfx) (d a : BitVec 8) (s : State) : Host.Outcome State Fault Refusal := laneInstr1 (.ctz px d a) ctzOp s
/-- `brev`. -/
def execBrev (px : Pfx) (d a : BitVec 8) (s : State) : Host.Outcome State Fault Refusal := laneInstr1 (.brev px d a) brevOp s
/-- `bfe`. -/
def execBfe (px : Pfx) (d a b : BitVec 8) (s : State) : Host.Outcome State Fault Refusal :=
  laneInstr2 (.bfe px d a b) bfeOp s
/-- `bfes`. -/
def execBfes (px : Pfx) (d a b : BitVec 8) (s : State) : Host.Outcome State Fault Refusal :=
  laneInstr2 (.bfes px d a b) bfesOp s
/-- `bfi`. -/
def execBfi (px : Pfx) (d a b : BitVec 8) (s : State) : Host.Outcome State Fault Refusal :=
  laneInstr3 (.bfi px d a b) bfiOp s
/-- `mov` (R190). -/
def execMov (px : Pfx) (d a : BitVec 8) (s : State) : Host.Outcome State Fault Refusal := laneInstr1 (.mov px d a) id s

/-- `movw`: the halves of the pair together (R190). -/
def execMovw (px : Pfx) (d a : BitVec 8) (s : State) : Host.Outcome State Fault Refusal :=
  let i : Instr := .movw px d a
  issue i
    (pureBody (fun k st =>
      let fs := fieldsAt i k
      st.putV2 fs.d.reg (st.active px) (fun l => srcA2 px fs st l))) s

/-- `movi`: the sign-extended immediate, or the literal (R190). -/
def execMovi (px : Pfx) (d : BitVec 8) (v : BitVec 16) (s : State) : Host.Outcome State Fault Refusal :=
  let i : Instr := .movi px d v
  issue i
    (pureBody (fun k st => st.putV (fieldsAt i k).d.reg (st.active px) (fun _ => px.lit.getD (v.signExtend 32)))) s

/-- The position `lid` writes (R191). -/
def lidValue (kind : BitVec 8) (who : Who) (strands l : Nat) : Word :=
  match kind.toNat with
  | 0 => BitVec.ofNat 32 l
  | 1 => BitVec.ofNat 32 (who.widx.toNat * 32 + l)
  | _ => BitVec.ofNat 32 ((who.wg.toNat * strands + who.widx.toNat) * 32 + l)

/-- `lid` (R191). -/
def execLid (px : Pfx) (d kind : BitVec 8) (s : State) : Host.Outcome State Fault Refusal :=
  let i : Instr := .lid px d kind
  issue i
    (fun k s =>
      (s.modCur (fun st =>
        let strands := match s.gangOf st with | some g => g.kernel.strands | none => 0
        st.putV (fieldsAt i k).d.reg (st.active px) (lidValue kind st.who strands)), .done)) s

end Sys2Proof.Machine
end

