-- ==== Sys2Proof/Machine/Home.lean ====
section
/-! DEFINITION. The homes (R70 to R85, R362): the operations of atomics and reductions, the L2's lines with their sideband and
pins, partial copies and combines, condition monitors, and reads, writes, atomics and reductions performed at a home. -/

namespace Sys2Proof.Machine

open Sys2Proof

/-! ### Operations (R232, R234, R235, R237) -/

/-- An integer operation of Table 7 of the instruction words: add, min, max, minn, maxn, and, or, xor, xchg, inc. -/
def intOpN {n : Nat} (op : BitVec 4) (w x : BitVec n) : BitVec n :=
  match op.toNat with
  | 0 => w + x
  | 1 => minOp w x
  | 2 => maxOp w x
  | 3 => minnOp w x
  | 4 => maxnOp w x
  | 5 => w &&& x
  | 6 => w ||| x
  | 7 => w ^^^ x
  | 8 => x
  | _ => if x.ule w then 0 else w + 1

/-- An integer operation on an element of 32 or 64 bits. -/
def intOp (wide : Bool) (op : BitVec 4) (w x : W64) : W64 :=
  if wide then intOpN op w x else (intOpN op (lo32 w) (lo32 x)).setWidth 64

/-- A subnormal read or written as zero of its sign (R162). -/
def ftzBits (f : Fmt) (x : Nat) : Nat :=
  match f.decode x with
  | .fin neg m _ => if m < 2 ^ f.fbits then f.zero neg else x
  | _ => x

/-- A floating-point reduction of one element (R235): 0 fadd, 1 fmin, 2 fmax. -/
def floatElem (f : Fmt) (op : BitVec 2) (ftz : Bool) (w x : Nat) : Nat :=
  let z := fun y => if ftz then ftzBits f y else y
  z (match op.toNat with
    | 0 => (fAdd f .rn (z w) (z x)).bits
    | 1 => (fMinMax f false (z w) (z x)).bits
    | _ => (fMinMax f true (z w) (z x)).bits)

/-- A floating-point reduction of a word (R235): .h2, .bh2, .f32 or .f64. -/
def floatOp (type op : BitVec 2) (ftz : Bool) (w x : W64) : W64 :=
  let two := fun f => BitVec.ofNat 64
    (floatElem f op ftz (w.toNat / 65536 % 65536) (x.toNat / 65536 % 65536) * 65536
      + floatElem f op ftz (w.toNat % 65536) (x.toNat % 65536))
  match type.toNat with
  | 0 => two fp16
  | 1 => two bf16
  | 2 => BitVec.ofNat 64 (floatElem fp32 op ftz (w.toNat % 2 ^ 32) (x.toNat % 2 ^ 32))
  | _ => BitVec.ofNat 64 (floatElem fp64 op ftz w.toNat x.toNat)

/-- The bytes of a tagged word (R82). -/
def RedTag.size : RedTag → Nat
  | .int wide _ => if wide then 8 else 4
  | .float type _ _ => if type == 3 then 8 else 4

/-- A reduction onto a word. -/
def RedTag.apply (t : RedTag) (w x : W64) : W64 :=
  match t with
  | .int wide op => intOp wide op w x
  | .float type op ftz => floatOp type op ftz w x

/-- The identity of a floating-point element (R82): −0 for fadd, the canonical NaN for fmin and fmax. -/
def floatIdentity (f : Fmt) (op : BitVec 2) : Nat := if op == 0 then f.zero true else f.canon

/-- The identity that a new partial copy holds in a word (R82). -/
def RedTag.identity : RedTag → W64
  | .int wide op =>
    match op.toNat with
    | 1 => if wide then 0x7FFFFFFFFFFFFFFF else 0x7FFFFFFF
    | 2 => if wide then 0x8000000000000000 else 0x80000000
    | 3 | 5 => if wide then BitVec.allOnes 64 else 0xFFFFFFFF
    | _ => 0
  | .float type op _ =>
    match type.toNat with
    | 0 => BitVec.ofNat 64 (floatIdentity fp16 op * 65537)
    | 1 => BitVec.ofNat 64 (floatIdentity bf16 op * 65537)
    | 2 => BitVec.ofNat 64 (floatIdentity fp32 op)
    | _ => BitVec.ofNat 64 (floatIdentity fp64 op)

/-- A compensated-pair step on (s, e) with operand x (R237). -/
def pairStep (f : Fmt) (s e x : Nat) : Nat × Nat :=
  let add := fun a b => (fAdd f .rn a b).bits
  let sub := fun a b => (fSub f .rn a b).bits
  let t := add s x
  if (f.decode s).isNan || (f.decode e).isNan || (f.decode x).isNan || (f.decode t).isInf then
    (t, f.zero false)
  else
    let bp := sub t s
    let ap := sub t bp
    (t, add e (add (sub s ap) (sub x bp)))

/-! ### Kinds of address -/

/-- The first byte of the line. -/
def lineOf (a : Nat) : Nat := a - a % 128
/-- The address lies in device memory. -/
def isDevice (a : Nat) : Bool := decide (a < 2 ^ 39)
/-- The address lies in host memory. -/
def isHost (a : Nat) : Bool := decide (Config.hostBase ≤ a) && decide (a < Config.hostEnd)
/-- The address lies in a vault. -/
def isVault (a : Nat) : Bool := decide (Config.vaultBase ≤ a) && decide (a < Config.tileBase)
/-- The address lies in an unbacked page's slot. -/
def isPage (a : Nat) : Bool := decide (Config.pageBase ≤ a)
/-- The virtual die of a device address. -/
def dieOf (a : Nat) : Die := BitVec.ofNat 2 (a / 2 ^ 37)
/-- The die offset of a device address. -/
def offOf (a : Nat) : Nat := a % 2 ^ 37

/-- The home die, context, page and line of an address in a page slot. -/
def pageOf (a : Nat) : Die × BitVec 12 × BitVec 41 × Nat :=
  let n := (a - Config.pageBase) / Config.pageSize
  (BitVec.ofNat 2 (n / 2 ^ 53), BitVec.ofNat 12 (n / 2 ^ 41), BitVec.ofNat 41 n, (a - Config.pageBase) % Config.pageSize / 128)

/-- The lines that a range of bytes touches. -/
def linesOf (a n : Nat) : List Nat :=
  if n == 0 then [] else (List.range ((a % 128 + n + 127) / 128)).map (fun i => lineOf a + 128 * i)

/-- The home slice and set of a line (R57, R71, R77); for a page slot, the set is the monitor set of R77. -/
def State.homeSlot (s : State) (a : Nat) : Nat × Nat :=
  let hash := fun (l : Nat) => (l % 4) ^^^ (l / 2 ^ 8 % 4) ^^^ (l / 2 ^ 16 % 4) ^^^ (l / 2 ^ 24 % 4)
  let set := fun (l : Nat) => (l / 4 % 2 ^ 15) ^^^ (l / 2 ^ 17 % 2 ^ 13 * 4)
  if isPage a then
    let (d, _, vpn, i) := pageOf a
    (4 * s.phys d + i % 4, vpn.toNat % 8 * 128 + i / 4)
  else if isDevice a then
    let l := offOf a / 128
    (4 * s.phys (dieOf a) + hash l, set l)
  else
    let x := a - Config.hostBase
    let l := x % 2 ^ 37 / 128
    (4 * (x / 2 ^ 12 % 4) + hash l, set l)

/-! ### Tree pseudo-LRU (R73, R94, R99) -/

/-- The tree of a set. -/
def State.plruBits (s : State) (cache set : Nat) : BitVec 16 :=
  match s.plru.find? (fun t => t.cache == cache && t.set == set) with
  | some t => t.bits
  | none => 0

/-- The way the tree names among those allowed: each node's bit names its upper half; a half with no way allowed is passed over. -/
def plruVictim (bits : BitVec 16) (ok : Nat → Bool) : Nat → Nat → Nat → Nat
  | 0, _, lo => lo
  | d + 1, node, lo =>
    let h := 2 ^ d
    let low := (List.range h).any (fun i => ok (lo + i))
    let high := (List.range h).any (fun i => ok (lo + h + i))
    if (bits.getLsbD node && high) || !low then plruVictim bits ok d (2 * node + 1) (lo + h)
    else plruVictim bits ok d (2 * node) lo

/-- The tree after a use of a way: every node on its path names the other half. -/
def plruTouch (way : Nat) : Nat → Nat → BitVec 16 → BitVec 16
  | 0, _, bits => bits
  | d + 1, node, bits =>
    let up := way / 2 ^ d % 2 == 1
    plruTouch way d (2 * node + (if up then 1 else 0)) (if up then bits &&& ~~~((1 : BitVec 16) <<< node) else bits ||| ((1 : BitVec 16) <<< node))

/-- A use of a way recorded. -/
def State.plruUse (s : State) (cache set depth way : Nat) : State :=
  { s with plru := ⟨cache, set, plruTouch way depth 1 (s.plruBits cache set)⟩
      :: s.plru.filter (fun t => !(t.cache == cache && t.set == set)) }

/-! ### Packets of the fabric (R446) -/

/-- The fields of a header flit (R446, Table 1). -/
structure Header where
  ftype : Nat := 0
  esize : Nat := 0
  ctx : BitVec 12
  cls : Nat := 0
  op : Nat := 0
  addr : Nat := 0
  tag : BitVec 16 := 0
  kind : Nat
  dst : BitVec 9
  /-- LEN + 1 where it is not the length of the payload: the bytes a read asks for. -/
  len : Option Nat := none
  deriving DecidableEq, Repr

/-- The ports up that lead to a package (R449). -/
def State.portsTo (s : State) (dst : BitVec 9) : List Nat :=
  (List.range 16).filter (fun p => field (s.reg (.zroute dst)) 15 0 / 2 ^ p % 2 == 1 && s.portsUp.getLsbD p)

/-- The port that a packet to a package leaves by (R449): the j-th of those up, j = L mod n. -/
def State.portFor (s : State) (dst : BitVec 9) (addr : Nat) : Nat :=
  let ps := s.portsTo dst
  ps.getD (addr / 128 % 2 ^ 32 % ps.length) 0

/-- A packet sent (R446), its flits charged (R402); with no port up that leads to its destination, it is lost. -/
def State.send (s0 : State) (h : Header) (payload : List Byte) : State :=
  if (s0.portsTo h.dst).isEmpty then s0
  else
  let s := s0.pay (chargeFlit * (1 + (payload.length + 31) / 32))
  { s with zsent := s.zsent ++ [⟨s.portFor h.dst h.addr, BitVec.ofNat 256
      (h.ftype * 2 ^ 116 + h.esize * 2 ^ 112 + h.ctx.toNat * 2 ^ 100 + h.cls * 2 ^ 92 + h.op * 2 ^ 84 + h.addr % 2 ^ 39 * 2 ^ 45
        + ((h.len.getD payload.length) - 1) % 128 * 2 ^ 38 + h.tag.toNat * 2 ^ 22 + h.kind * 2 ^ 18 + s.package * 2 ^ 9 + h.dst.toNat),
      payload⟩] }

/-! ### Condition monitors (R77 to R81) -/

/-- WAITER: gang, workgroup and strand index (R77). -/
def waiterCode (w : Who) : Nat := w.gang.toNat * 2 ^ 11 + w.wg.toNat * 2 ^ 9 + w.widx.toNat

/-- The bytes of a monitored word. -/
def Monitor.size (m : Monitor) : Nat := if m.wide then 8 else 4

/-- The condition of a monitor on a value. -/
def monHolds (wide : Bool) (cond : BitVec 4) (val : W64) (v : Nat) : Bool :=
  if wide then condHolds cond (BitVec.ofNat 64 v) val else condHolds cond (BitVec.ofNat 32 v) (lo32 val)

/-- An entry placed into a list by way. -/
def insertByWay (m : Monitor) : List Monitor → List Monitor
  | [] => [m]
  | x :: xs => if m.way < x.way then m :: x :: xs else x :: insertByWay m xs

/-- The strand's gang can receive a wake: it is resident and not frozen (R81). A firmware slot always can. -/
def State.wakeable (s : State) (w : Who) : Bool :=
  w.gang == firmwareGang || s.gangs.any (fun g => g.ctx == w.ctx && g.gang == w.gang && !g.frozen)

/-- A wake sent: to a waiter of this package, or as a KIND 11 packet to a peer's (R79, R452). `cancelled` sets bit 0 of byte 13. -/
def State.sendWake (s : State) (m : Monitor) (value : Nat) (cancelled : Bool) : State :=
  if m.pkg.toNat == s.package then { s with wakes := s.wakes ++ [⟨m.who, BitVec.ofNat 64 value⟩] }
  else s.send { ctx := m.ctx, kind := 11, dst := m.pkg }
    (leBytes 8 value ++ leBytes 5 (waiterCode m.who) ++ [if cancelled then 1 else 0] ++ List.replicate 18 0)

/-- The entries of a word that a write touched, evaluated (R79): one whose condition holds is freed and its waiter woken, or
marked FIRED while the waiter's gang is not resident (R81). -/
def State.evalMonitors (s : State) (a n : Nat) : State :=
  let hit := fun (m : Monitor) =>
    overlaps m.addr m.size a n && !m.fired && monHolds m.wide m.cond m.val (s.mem.nat m.addr m.size)
  let hits := (s.monitors.filter hit).foldl (fun l m => insertByWay m l) []
  hits.foldl (fun s m =>
    if m.pkg.toNat != s.package || s.wakeable m.who then
      ({ s with monitors := s.monitors.filter (· != m) }).sendWake m (s.mem.nat m.addr m.size) false
    else { s with monitors := s.monitors.map (fun x => if x == m then { x with fired := true } else x) }) s

/-! ### Format windows (R28 to R33) -/

/-- The enabled window of a die that holds an offset. -/
def State.windowOf (s : State) (v : Die) (off : Nat) : Option (BitVec 4) :=
  ((List.range 16).map (BitVec.ofNat 4)).find? (fun n =>
    (s.reg (.fwctl v n)).getLsbD 4
      && decide (field (s.reg (.fwbase v n)) 36 16 * 65536 ≤ off)
      && decide (off < (field (s.reg (.fwlimit v n)) 36 16 + 1) * 65536))

/-- The die offset of the first scale byte of a line inside a window (R30). -/
def State.scaleOff (s : State) (v : Die) (n : BitVec 4) (off : Nat) : Nat :=
  field (s.reg (.fwscale v n)) 36 10 * 1024 + (off - field (s.reg (.fwbase v n)) 36 16 * 65536) / 64

/-- The sideband of resident lines of a die whose offsets lie in a range dropped (R29, R32); a pinned line drops it at its unpin
(R33). -/
def State.dropSideband (s : State) (v : Die) (lo hi : Nat) : State :=
  { s with l2 := s.l2.map (fun l =>
      if isDevice l.line && dieOf l.line == v && decide (lo ≤ offOf l.line) && decide (offOf l.line < hi) then
        if l.pins == 0 then { l with sideband := none } else { l with dropAtUnpin := true }
      else l) }

/-- A write of device bytes drops the sideband of the data lines whose scale lines it touches (R32). -/
def State.scaleWrite (s : State) (a n : Nat) : State :=
  if !isDevice a then s
  else
    let v := dieOf a
    (List.range 16).foldl (fun s k =>
      let w := BitVec.ofNat 4 k
      let d0 := field (s.reg (.fwbase v w)) 36 16 * 65536
      let d1 := (field (s.reg (.fwlimit v w)) 36 16 + 1) * 65536
      let s0 := field (s.reg (.fwscale v w)) 36 10 * 1024
      if (s.reg (.fwctl v w)).getLsbD 4 && overlaps (offOf a) n s0 ((d1 - d0) / 64) then
        (linesOf (offOf a) n).foldl (fun s l =>
          if s0 ≤ l then s.dropSideband v (d0 + (l - s0) * 64) (d0 + (l - s0) * 64 + 8192) else s) s
      else s) s

/-! ### Partial copies (R82, R83) -/

/-- Sectors of a resident line written: valid and dirty (R72). A line that is not resident stays so. -/
def State.soil (s : State) (a n : Nat) : State :=
  { s with l2 := s.l2.map (fun (l : L2Line) =>
      let bits := BitVec.ofNat 4 ((List.range 4).foldl (fun x i => if overlaps (l.line + 32 * i) 32 a n then x + 2 ^ i else x) 0)
      if bits == 0 then l else { l with valid := l.valid ||| bits, dirty := l.dirty ||| bits }) }

/-- The sectors of a line that hold a word of a partial copy. -/
def PartialCopy.sectors (c : PartialCopy) : Nat := ((List.range 4).filter (fun i => c.words.any (fun w => w.off / 32 == i))).length

/-- One partial copy folded into its home line and freed; the combined words count as writes for the monitors. Its sectors are charged to the work
that makes it combine (R402). -/
def State.combineCopy (s : State) (c : PartialCopy) : State :=
  let mem := c.words.foldl (fun m w =>
    let a := c.line + w.off
    m.putNat a w.tag.size (w.tag.apply (BitVec.ofNat 64 (m.nat a w.tag.size)) w.val).toNat) s.mem
  let s1 := { s with mem := mem, partials := s.partials.filter (fun d => !(d.line == c.line && d.die == c.die)) }
  let s2 := c.words.foldl (fun (s : State) w => s.soil (c.line + w.off) w.tag.size) s1
  ((s2.scaleWrite c.line 128).evalMonitors c.line 128).pay (chargeSector * c.sectors)

/-- The partial copy of a line that a die holds. -/
def State.copyOf (s : State) (line : Nat) (d : Die) : Option PartialCopy :=
  s.partials.find? (fun c => c.line == line && c.die == d)

/-- A line combined: its copies folded in ascending virtual die order (R83). -/
def State.combineLine (s : State) (line : Nat) : State :=
  [(0 : Die), 1, 2, 3].foldl (fun s d => match s.copyOf line d with | some c => s.combineCopy c | none => s) s

/-- The lines of a range combined. -/
def State.combineRange (s : State) (a n : Nat) : State :=
  if s.partials.isEmpty then s else (linesOf a n).foldl State.combineLine s

/-! ### L2 lines (R72, R73) -/

/-- The ways of a slice that the unbacked partition takes (R60, R73). -/
def State.partitionWays (s : State) (slice : Nat) : Nat :=
  match [(0 : Die), 1, 2, 3].find? (fun v => s.dieValid v && s.phys v == slice / 4) with
  | some v => (field (s.reg (.ubpart v)) 27 16 + 255) / 256
  | none => 0

/-- The resident line at an address. -/
def State.l2Line (s : State) (line : Nat) : Option L2Line := s.l2.find? (fun l => l.line == line)

/-- The sectors of a device line that a write-back transfers: the dirty ones (R72). -/
def State.dirtySectors (s : State) (line : Nat) : Nat :=
  match s.l2Line line with
  | some l => if isDevice line then popCount l.dirty else 0
  | none => 0

/-- The line given up by its way: combined first, written back, its sideband discarded (R30, R72, R83), the sectors charged to the work that takes the
way (R402). The bytes of a line and of its memory are one in the model. -/
def State.l2Evict (s : State) (l : L2Line) : State :=
  let s1 := s.combineLine l.line
  { s1.pay (chargeDram * s1.dirtySectors l.line) with l2 := s1.l2.filter (fun x => x.line != l.line) }

/-- The sideband that a fill attaches (R30): the scale line is read at its home. -/
def State.attach (s : State) (line : Nat) : State × Option Sideband :=
  if !isDevice line then (s, none)
  else
    match s.windowOf (dieOf line) (offOf line) with
    | none => (s, none)
    | some n =>
      let a := Config.devAddr (dieOf line) (s.scaleOff (dieOf line) n (offOf line))
      let s1 := s.combineRange a 2
      (s1, some ⟨BitVec.ofNat 4 (field (s.reg (.fwctl (dieOf line) n)) 3 0), s1.mem.get a, s1.mem.get (a + 1)⟩)

/-- The sector bits of a range within a line. -/
def sectorBits (line a n : Nat) : BitVec 4 :=
  BitVec.ofNat 4 ((List.range 4).foldl (fun x i => if overlaps (line + 32 * i) 32 a n then x + 2 ^ i else x) 0)

/-- The sectors that a range covers whole. -/
def wholeSectors (line a n : Nat) : BitVec 4 :=
  BitVec.ofNat 4 ((List.range 4).foldl (fun x i => if a ≤ line + 32 * i ∧ line + 32 * i + 32 ≤ a + n then x + 2 ^ i else x) 0)

/-- Room for a line in its set (R73): the line is resident already, or a way is found for it; none when every ordinary way is
pinned. -/
def State.l2Alloc (s : State) (line : Nat) : Option State :=
  match s.l2Line line with
  | some _ => some s
  | none =>
    let (slice, set) := s.homeSlot line
    let low := s.partitionWays slice
    let here := s.l2.filter (fun l => l.slice == slice && l.set == set)
    let pinned := fun w => here.any (fun l => l.way == w && l.pins > 0)
    let ways := (List.range 16).filter (fun w => low ≤ w)
    let put := fun (s : State) (w : Nat) => { s with l2 := s.l2 ++ [⟨line, slice, set, w, 0, 0, 0, none, false⟩] }
    match ways.find? (fun w => !here.any (fun l => l.way == w)) with
    | some w => some (put s w)
    | none =>
      if ways.all pinned then none
      else
        let w := plruVictim (s.plruBits slice set) (fun w => decide (low ≤ w) && decide (w < 16) && !pinned w) 4 1 0
        match here.find? (fun l => l.way == w) with
        | some l => some (put (s.l2Evict l) w)
        | none => some (put s w)

/-- An access to a line of device or host memory recorded in the L2 (R72): sectors filled, with the sideband of R30, and the
sectors written dirty. -/
def State.l2Access (s : State) (line a n : Nat) (write : Bool) : Option State :=
  match s.l2Alloc line with
  | none => none
  | some s1 =>
    match s1.l2Line line with
    | none => some s1
    | some l =>
      let bits := sectorBits line a n
      let filled := (bits &&& ~~~l.valid) &&& ~~~(if write then wholeSectors line a n else 0)
      let (s2, sb) := if filled != 0 && l.sideband.isNone then s1.attach line else (s1, l.sideband)
      let s3 := { s2 with l2 := s2.l2.map (fun (x : L2Line) =>
        if x.line == line then
          { x with valid := x.valid ||| bits, dirty := if write then x.dirty ||| bits else x.dirty, sideband := sb }
        else x) }
      some (s3.plruUse l.slice l.set 4 l.way)

/-- The charges of an access to bytes at their home (R402): for every 64 bytes of a vault; for every sector of the L2, with a GDDR7
sector for each device sector that the L2 does not hold and a write does not cover. -/
def State.payHome (s : State) (a n : Nat) (write : Bool) : State :=
  if isVault a then s.pay (chargeVault * ((n + 63) / 64))
  else
    s.pay ((linesOf a n).foldl (fun k l =>
      let bits := sectorBits l a n
      let held := match s.l2Line l with | some x => x.valid | none => 0
      let fetched := if isDevice a then bits &&& ~~~held &&& ~~~(if write then wholeSectors l a n else 0) else 0
      k + chargeSector * popCount bits + chargeDram * popCount fetched) 0)

/-- A sector of a range that the L2 does not hold: the access goes to the device. -/
def State.l2Miss (s : State) (a n : Nat) : Option Nat :=
  (linesOf a n).findSome? (fun l =>
    let held := match s.l2Line l with | some x => x.valid | none => 0
    ((List.range 4).find? (fun i => (sectorBits l a n &&& ~~~held).getLsbD i)).map (fun i => l + 32 * i))

/-- An access that cannot be performed in the step at hand: the step is undone, and made again later (`State.stalled`). -/
def State.stall (s : State) (line : Nat) : State := { s with stalled := line :: s.stalled }

/-- An access to a die whose warm reset failed is an uncorrectable error, for the context that makes it: no data is delivered and no line
filled, since the step is undone (R24, R466). -/
def State.loseSector (s : State) (a n : Nat) : State :=
  if s.deadDies.isEmpty || !isDevice a || !s.deadDies.contains (dieOf a) then s
  else
    match s.l2Miss a n with
    | some x =>
      { s with
        lost := s.lost ++ [(dieOf a, offOf x, match s.payer with | some (ctx, _) => ctx | none => 0xFFF)]
        stalled := lineOf x :: s.stalled }
    | none => s

/-- The context that a vault byte's allocation names (R90, R93); none where no allocation holds the byte. -/
def State.vaultOwner (s : State) (a : Nat) : BitVec 12 :=
  let q := (a - Config.vaultBase) / Config.vaultSize
  let u := (a - Config.vaultBase) % Config.vaultSize / 65536
  match ((List.range 32).map (fun k => s.reg (.vat (BitVec.ofNat 2 (q / 16)) (BitVec.ofNat 4 q) (BitVec.ofNat 5 k)))).find? (fun e =>
      e.getLsbD 31 && decide (field e 7 0 ≤ u) && decide (u < field e 7 0 + field e 16 8)) with
  | some e => BitVec.ofNat 12 (field e 28 17)
  | none => 0xFFF

/-- The code of the vault words that an access reads or merges into (R93): a corrected bit only counts; an uncorrectable word delivers no data,
and is an error of the context that owns it. A word written whole has a new code. -/
def State.vaultCode (s : State) (a n : Nat) (write : Bool) : State :=
  if s.vaultUpsets.isEmpty || !isVault a then s
  else
    let covered := fun (w : Nat) => write && decide (a ≤ w) && decide (w + 32 ≤ a + n)
    let met := s.vaultUpsets.filter (fun (u : Nat × Bool) => overlaps u.1 32 a n && !covered u.1)
    let bad := met.filter (fun u => u.2)
    { s with
      vaultUpsets := s.vaultUpsets.filter (fun (u : Nat × Bool) => !covered u.1)
      records := { s.records with vaultcorr := (met.filter (fun u => !u.2)).foldl (fun x _ => bumpRec x) s.records.vaultcorr }
      lostVault := s.lostVault ++ bad.map (fun u => s.vaultOwner u.1)
      stalled := bad.map (fun u => u.1) ++ s.stalled }

/-- The warm reset of a die has stopped it: its quarter holds no page slot (R65, R466). -/
def State.dieStopped (s : State) (d : Die) : Bool := s.dieReset == some d && !s.slots.any (fun p => p.die == d)

/-- An access to a range waits at its home, since its die is stopped for a warm reset (R466). -/
def State.waitsReset (s : State) (a n : Nat) : Bool := isDevice a && s.dieStopped (dieOf a) && (s.l2Miss a n).isSome

/-- An access waits for a die that is stopped (R466). -/
def State.stallReset (s : State) (a n : Nat) : State := if s.waitsReset a n then s.stall (lineOf a) else s

/-- An access to the lines of a range charged and recorded. One that meets an uncorrectable error (R24, R93), a stopped die (R466) or a set with
every ordinary way pinned (R73) is not performed in this step. -/
def State.l2Touch (s0 : State) (a n : Nat) (write : Bool) : State :=
  let s := (((s0.loseSector a n).vaultCode a n write).stallReset a n).payHome a n write
  if isDevice a || isHost a then (linesOf a n).foldl (fun s l => (s.l2Access l a n write).getD (s.stall l)) s else s

/-- Every line of the range can be given a way now (R73), and none waits for a die that is reset (R466). -/
def State.l2Ready (s : State) (a n : Nat) : Bool :=
  !(isDevice a || isHost a) || ((linesOf a n).all (fun l => (s.l2Alloc l).isSome) && !s.waitsReset a n)

/-- The way is one that a raise of UBPART.PAGES under way takes (R76). -/
def State.wayTaken (s : State) (l : L2Line) : Bool :=
  s.resizes.any (fun (e : Die × Nat) => l.slice / 4 == s.phys e.1 && decide (l.way < (e.2 + 255) / 256))

/-- A pin asked for (R74): granted when the line is resident, its count below 63, and an unpinned ordinary way remains; not in a way that a
waiting raise of the partition takes (R76). The L2's lines are those of device and host memory; a line of an unbacked page, which no replacement
evicts (R61), takes no pin and is copy-pinned (R75; DESIGN CHOICE, log entry 61). -/
def State.pin (s : State) (line : Nat) : Option State :=
  match s.l2Line line with
  | none => none
  | some l =>
    let low := s.partitionWays l.slice
    let here := s.l2.filter (fun x => x.slice == l.slice && x.set == l.set)
    let busy := (here.filter (fun x => x.pins > 0 || x.line == line)).length
    if l.pins < 63 && busy < 16 - low && !s.wayTaken l then
      some { s with l2 := s.l2.map (fun x => if x.line == line then { x with pins := x.pins + 1 } else x) }
    else none

/-! ### Unbacked page slots (R58 to R62) -/

/-- The slot of a page. -/
def State.slotAt (s : State) (d : Die) (ctx : BitVec 12) (vpn : BitVec 41) : Option PageSlot :=
  s.slots.find? (fun p => p.die == d && p.ctx == ctx && p.vpn == vpn)

/-- USED of a context's reservation, and FREE of the quarter, after `n` slots are taken or given back (R59). -/
def State.countSlots (s : State) (d : Die) (ctx : BitVec 12) : State :=
  let all := (s.slots.filter (fun p => p.die == d)).length
  let mine := (s.slots.filter (fun p => p.die == d && p.ctx == ctx)).length
  let s1 := s.setRegField (.ubpart d) 11 0 (field (s.reg (.ubpart d)) 27 16 - all)
  match s.slotOf ctx with
  | some k => s1.setRegField (.ubrsv d k) 11 0 mine
  | none => s1

/-- A slot taken in the quarter of a die under warm reset is to be emptied with the others (R65): its page waits for a frame of the lowest-numbered
other die. -/
def State.evacuate (s : State) (p : PageSlot) : State :=
  if s.dieReset == some p.die then
    { s with moves := s.moves ++ [⟨p.die, p.ctx, p.vpn,
        (([(0 : Die), 1, 2, 3].filter s.dieValid).find? (fun x => x != p.die)).getD p.die, false⟩] }
  else s

/-- The check and allocation of R62 for a write: the page has a slot, or takes one; none when USED = LIMIT. -/
def State.allocSlot (s : State) (p : PageSlot) : Option State :=
  match s.slotAt p.die p.ctx p.vpn with
  | some _ => some s
  | none =>
    let lim := match s.slotOf p.ctx with | some k => field (s.reg (.ubrsv p.die k)) 27 16 | none => 0
    let mine := (s.slots.filter (fun q => q.die == p.die && q.ctx == p.ctx)).length
    if mine < lim then some ((({ s with slots := s.slots ++ [{ p with written := 0 }] }).evacuate p).countSlots p.die p.ctx) else none

/-- The written bits of the lines a write touches (R61). -/
def State.markWritten (s : State) (a n : Nat) : State :=
  if !isPage a then s
  else
    let (d, ctx, vpn, _) := pageOf a
    { s with slots := s.slots.map (fun p =>
        if p.die == d && p.ctx == ctx && p.vpn == vpn then
          { p with written := (linesOf a n).foldl (fun m l => m ||| (1 <<< (pageOf l).2.2.2)) p.written }
        else p) }

/-- A slot given up: its lines read as zero. -/
def State.dropSlot (s : State) (p : PageSlot) : State :=
  let s1 := { s with
    mem := s.mem.zero (Config.pageAddr p.die p.ctx p.vpn) Config.pageSize
    slots := s.slots.filter (fun q => !(q.die == p.die && q.ctx == p.ctx && q.vpn == p.vpn)) }
  s1.countSlots p.die p.ctx

/-- A slot freed by a discard: the freeing counts as a write for the monitors (R66, R79). -/
def State.freeSlot (s : State) (p : PageSlot) : State :=
  (s.dropSlot p).evalMonitors (Config.pageAddr p.die p.ctx p.vpn) Config.pageSize

/-! ### Reads and writes at the home (R362, R363) -/

/-- Bytes read at their home: update-only lines are combined first. -/
def State.homeRead (s : State) (a n : Nat) : State × List Byte :=
  let s1 := (s.l2Touch a n false).combineRange a n
  (s1, s1.mem.read a n)

/-- A little-endian number read at its home. -/
def State.homeNat (s : State) (a n : Nat) : State × Nat :=
  let r := s.homeRead a n
  (r.1, leNat r.2)

/-- Bytes written at their home (R32, R61, R79, R83). -/
def State.homeWrite (s : State) (a : Nat) (data : List Byte) : State :=
  let n := data.length
  let s1 := (s.l2Touch a n true).combineRange a n
  let s2 := { s1 with mem := s1.mem.put a data }
  ((s2.scaleWrite a n).markWritten a n).evalMonitors a n

/-- A little-endian number written at its home. -/
def State.homePut (s : State) (a n x : Nat) : State := s.homeWrite a (leBytes n x)

/-- An element read and rewritten in one step at its home (R85): the old value. A write that leaves the value as it was is still a
write. -/
def State.homeUpdate (s : State) (a n : Nat) (f : Nat → Nat) : State × Nat :=
  let r := s.homeNat a n
  (r.1.homePut a n (f r.2), r.2)

/-- A compare-and-swap at the home (R51, R233): the old value. -/
def State.homeCas (s : State) (a n old new : Nat) : State × Nat := s.homeUpdate a n (fun w => if w == old then new else w)

/-- A word added to a partial copy (R82): a word whose tag or place differs makes the copy combine first. -/
def State.partialAdd (s : State) (d : Die) (a : Nat) (t : RedTag) (x : W64) : State :=
  let line := lineOf a
  let off := a - line
  let clash := match s.copyOf line d with
    | some c => c.words.any (fun w => overlaps w.off w.tag.size off t.size && !(w.off == off && w.tag == t))
    | none => false
  let s1 := if clash then (match s.copyOf line d with | some c => s.combineCopy c | none => s) else s
  let words := match s1.copyOf line d with | some c => c.words | none => []
  let old := match words.find? (fun w => w.off == off) with | some w => w.val | none => t.identity
  let rest := words.filter (fun w => w.off != off)
  { s1 with partials := ⟨line, d, rest ++ [⟨off, t, t.apply old x⟩]⟩
      :: s1.partials.filter (fun c => !(c.line == line && c.die == d)) }

/-- An ordinary-mode reduction issued on a die (R82, R234, R235): to a partial copy when the line is homed in another quarter, at
the home otherwise. Only device lines take partial copies, and inc takes none. -/
def State.homeReduce (s : State) (d : Die) (a : Nat) (t : RedTag) (x : W64) : State :=
  let inc := match t with | .int _ op => op == 9 | _ => false
  if isDevice a && !inc && dieOf a != d then (s.pay chargeSector).partialAdd d a t x
  else
    let s1 := s.l2Touch a t.size true
    let s2 := if inc then s1.combineRange a t.size else s1
    let s3 := { s2 with mem := s2.mem.putNat a t.size (t.apply (BitVec.ofNat 64 (s2.mem.nat a t.size)) x).toNat }
    ((s3.scaleWrite a t.size).markWritten a t.size).evalMonitors a t.size

/-- A compensated-pair reduction at its home (R84, R237). -/
def State.homePair (s : State) (a : Nat) (wide : Bool) (x : W64) : State :=
  let n := if wide then 8 else 4
  let f := if wide then fp64 else fp32
  (s.homeUpdate a (2 * n) (fun w =>
    let r := pairStep f (w % 2 ^ (8 * n)) (w / 2 ^ (8 * n)) (x.toNat % 2 ^ (8 * n))
    r.1 + r.2 * 2 ^ (8 * n))).1

/-- The lowest free way of a monitor set of 8 ways (R77). -/
def State.monitorWay (s : State) (slice set : Nat) : Option Nat :=
  (List.range 8).find? (fun w => !s.monitors.any (fun m => m.slice == slice && m.set == set && m.way == w))

/-- The answer of a monitor arm (R78, R80). -/
inductive ArmAnswer where
  | holds (value : Nat)
  | armed
  | full
  deriving DecidableEq, Repr

/-- A monitor arm at the home, in one step (R78, R80). -/
def State.armMonitor (s : State) (a : Nat) (wide : Bool) (cond : BitVec 4) (val : W64) (ctx : BitVec 12) (pkg : BitVec 9) (who : Who) :
    State × ArmAnswer :=
  let n := if wide then 8 else 4
  let r := s.homeNat a n
  if monHolds wide cond val r.2 then (r.1, .holds r.2)
  else
    let (slice, set0) := r.1.homeSlot a
    let set := set0 % 1024
    match r.1.monitorWay slice set with
    | some w => ({ r.1 with monitors := r.1.monitors ++ [⟨slice, set, w, a, wide, cond, val, ctx, pkg, who, false⟩] }, .armed)
    | none => ({ r.1 with records := { r.1.records with monovf := bumpRec r.1.records.monovf } }, .full)

end Sys2Proof.Machine
end

