-- ==== Sys2Proof/Machine/Translate.lean ====
section
/-! DEFINITION. Flat addresses and translation (R34 to R44, R88 to R91): paths, vault bounds, the page-table walk, the TLBs and the
walk cache, permissions, and the place that an address names. -/

namespace Sys2Proof.Machine

open Sys2Proof

/-! ### Requests and answers -/

/-- What an access does, for the permission checks (R39). -/
inductive AccessKind where
  | read | write | fetch
  deriving DecidableEq, Repr

/-- Who translates: the context and its slot, the die and quad whose TLBs and walkers serve it, the core whose TLB it looks up
first, whether U is checked, and the kind of access. -/
structure Xreq where
  ctx : BitVec 12
  slot : Slot
  die : Die
  quad : Quad
  core : Option CoreId
  user : Bool
  kind : AccessKind
  deriving DecidableEq, Repr

/-- A fault of an access: its place in the order of R226 and R227, its class and detail, and the entry it reports (R433). -/
structure AFault where
  rank : Nat
  cls : BitVec 8
  detail : BitVec 16
  walkent : W64
  deriving DecidableEq, Repr

/-- An answer: a value, or a fault. -/
inductive Ans (α : Type) where
  | ok (x : α)
  | bad (f : AFault)
  deriving DecidableEq, Repr

/-- The path fault (R34). -/
def pathFault : AFault := ⟨1, 0x10, 0, 0⟩
/-- The vault bounds fault (R34). -/
def vaultFault : AFault := ⟨2, 0x11, 0, 0⟩
/-- The alignment fault (R226). -/
def alignFault : AFault := ⟨3, 0x12, 0, 0⟩
/-- The target fault (R39, R346). -/
def targetFault : AFault := ⟨7, 0x17, 0, 0⟩

/-! ### Table entries (R35 to R38) -/

/-- The lowest va bit of a level's index (R35, Table 2). -/
def levelShift : Nat → Nat
  | 0 => 16
  | 1 => 21
  | 2 => 30
  | _ => 39

/-- The index of a va at a level. -/
def walkIndex (lvl va : Nat) : Nat :=
  va / 2 ^ levelShift lvl % 2 ^ (match lvl with | 0 => 5 | 1 => 9 | 2 => 9 | _ => 18)

/-- The bytes of a table of a level. -/
def tableBytesAt : Nat → Nat
  | 0 => 256
  | 1 => 4096
  | 2 => 4096
  | _ => 0x200000

/-- sr.walkent for an entry (R433). -/
def walkRecord (lvl : Nat) (d : Die) (off : Nat) : W64 :=
  BitVec.ofNat 64 (2 ^ 63 + lvl * 2 ^ 40 + d.toNat * 2 ^ 37 + off % 2 ^ 37)

/-- A pointer entry is malformed (R38). -/
def State.pointerBad (s : State) (lvl : Nat) (e : W64) : Bool :=
  let next := field e 47 8 * 256
  let size := tableBytesAt (lvl - 1)
  lvl == 0 || field e 63 61 != 0 || field e 58 48 != 0 || field e 7 2 != 0 || !s.dieValid (BitVec.ofNat 2 (field e 60 59))
    || next % size != 0 || decide (Config.populated < next + size)

/-- The leaf names this package's own memory (R36). -/
def State.leafLocal (s : State) (e : W64) : Bool :=
  field e 63 61 == 0 || (field e 63 61 == 2 && field e 58 50 == s.package)

/-- A leaf entry is malformed (R38, R56). One with TGT 2 that names the own package is held to the checks of a local leaf (DEDUCED, log entry 17). -/
def State.leafBad (s : State) (lvl : Nat) (e : W64) : Bool :=
  let tgt := field e 63 61
  let frame := field e 47 16 * 65536
  let size := 2 ^ levelShift lvl
  lvl == 3 || field e 49 48 != 0 || field e 15 6 != 0 || decide (4 ≤ tgt)
    || ((s.leafLocal e || tgt == 3) && !s.dieValid (BitVec.ofNat 2 (field e 60 59)))
    || (s.leafLocal e && decide (Config.populated < frame + size))
    || frame % size != 0
    || (tgt == 3 && (frame != 0 || lvl != 0))
    || (e.getLsbD 3 && tgt != 0)
    || (field e 58 50 != 0 && tgt != 2)

/-! ### Walks (R41, R42) -/

/-- The first `n` elements of a list that satisfy `p`, and all that do not. -/
def keepFirst {α : Type} (p : α → Bool) : Nat → List α → List α
  | _, [] => []
  | n, x :: xs =>
    if p x then match n with | 0 => keepFirst p 0 xs | k + 1 => x :: keepFirst p k xs
    else x :: keepFirst p n xs

/-- The cached pointer entry of a walk (R41). -/
def State.cachedPointer (s : State) (die : Die) (ctx : BitVec 12) (lvl va : Nat) : Option W64 :=
  match s.walkCache.find? (fun e => e.1 == die && e.2.ctx == ctx && e.2.level == lvl && e.2.pre == va / 2 ^ levelShift lvl) with
  | some e => some e.2.entry
  | none => none

/-- A pointer entry cached; each die keeps 1,024 (R41, Table 6). -/
def State.cachePointer (s : State) (die : Die) (ctx : BitVec 12) (lvl va : Nat) (e : W64) : State :=
  let w : WalkEntry := ⟨ctx, lvl, va / 2 ^ levelShift lvl, e⟩
  if s.walkCache.contains (die, w) then s
  else { s with walkCache := keepFirst (fun (x : Die × WalkEntry) => x.1 == die) 1024 ((die, w) :: s.walkCache) }

/-- A leaf found by a walk: its level, the entry and where it stands. -/
structure Leaf where
  level : Nat
  entry : W64
  die : Die
  off : Nat
  deriving DecidableEq, Repr

/-- The walk of a va from the table of level `n - 1` (R35 to R38): each entry is read at its home, or taken from the walk cache. -/
def walk (die : Die) (ctx : BitVec 12) (va : Nat) : Nat → Die → Nat → State → State × Ans Leaf
  | 0, _, _, s => (s, .bad ⟨4, 0x14, 0, 0⟩)
  | lvl + 1, td, toff, s =>
    let off := toff + 8 * walkIndex lvl va
    let (s1, e) := match s.cachedPointer die ctx lvl va with
      | some e => (s, e)
      | none => let r := s.homeNat (Config.devAddr td off) 8; (r.1, BitVec.ofNat 64 r.2)
    if !e.getLsbD 0 then
      (s1, .bad ⟨5, 0x15, BitVec.ofNat 16 (lvl + (if e.getLsbD 5 then 4 else 0) + field e 60 59 * 8), walkRecord lvl td off⟩)
    else if !e.getLsbD 1 then
      if s1.pointerBad lvl e then (s1, .bad ⟨4, 0x14, BitVec.ofNat 16 lvl, walkRecord lvl td off⟩)
      else walk die ctx va lvl (BitVec.ofNat 2 (field e 60 59)) (field e 47 8 * 256) (s1.cachePointer die ctx lvl va e)
    else if s1.leafBad lvl e then (s1, .bad ⟨4, 0x14, BitVec.ofNat 16 lvl, walkRecord lvl td off⟩)
    else (s1, .ok ⟨lvl, e, td, off⟩)

/-- The address of the frame-table entry of a die's frame (R50). -/
def State.frameEntry (s : State) (d : Die) (fr : Nat) : Nat :=
  Config.devAddr d (field (s.reg (.ftbase d)) 36 16 * 65536 + fr * 8)

/-- A walk that installs a leaf of a local frame sets REF of the frame accessed (R42, R51). A leaf with TGT 2 that names the own package sets none
(DEDUCED, log entry 17). -/
def State.setRef (s : State) (l : Leaf) (va : Nat) : State :=
  if field l.entry 63 61 == 0 then
    let d := BitVec.ofNat 2 (field l.entry 60 59)
    let fr := field l.entry 47 16 + va % 2 ^ levelShift l.level / 65536
    (s.homeUpdate (s.frameEntry d fr) 8 (fun e => if e / 2 ^ 48 % 2 == 1 then e else e + 2 ^ 48)).1
  else s

/-! ### TLBs (R41) -/

/-- A cached translation serves a va. -/
def tlbServes (e : TlbEntry) (ctx : BitVec 12) (va : Nat) : Bool :=
  e.ctx == ctx && e.vpn.toNat * 65536 / 2 ^ levelShift e.level == va / 2 ^ levelShift e.level

/-- The translation as a leaf. -/
def leafOfTlb (e : TlbEntry) : Leaf := ⟨e.level, e.leaf, e.leafDie, e.leafOff.toNat⟩

/-- A leaf as a cached translation. -/
def tlbOf (ctx : BitVec 12) (va : Nat) (l : Leaf) : TlbEntry :=
  ⟨ctx, BitVec.ofNat 41 (va / 65536), l.level, l.entry, l.die, BitVec.ofNat 37 l.off⟩

/-- A translation cached in a core's TLB of 128 entries. -/
def State.fillCoreTlb (s : State) (c : CoreId) (e : TlbEntry) : State :=
  { s with coreTlb := keepFirst (fun (x : CoreId × TlbEntry) => x.1 == c) 128 ((c, e) :: s.coreTlb) }

/-- The set of a quad's TLB that holds a translation: the number of its page modulo 512 (DESIGN CHOICE, log entry 15). -/
def quadSet (e : TlbEntry) : Nat := e.vpn.toNat * 65536 / 2 ^ levelShift e.level % 512

/-- A translation cached in a quad's TLB of 4,096 entries, 8 ways to a set (R41, Table 6). -/
def State.fillQuadTlb (s : State) (d : Die) (q : Quad) (e : TlbEntry) : State :=
  let there : Die × Quad × TlbEntry → Bool := fun x => x.1 == d && x.2.1 == q && quadSet x.2.2 == quadSet e
  { s with quadTlb := keepFirst there 8 ((d, q, e) :: s.quadTlb) }

/-- The context's root (R40): none where the slot holds none for the context. -/
def State.rootOf (s : State) (slot : Slot) (ctx : BitVec 12) : Option (Die × Nat) :=
  let r := s.reg (.trbase slot)
  if r.getLsbD 63 && field r 59 48 == ctx.toNat then some (BitVec.ofNat 2 (field r 38 37), field r 36 21 * 0x200000) else none

/-- The context that no context has: the firmware slots and the engines of system software translate under it (R25; log entry 14). -/
def firmwareCtx : BitVec 12 := 0xFFF

/-- The leaf of a va of the firmware's address space (log entry 14): virtual die and die offset as they stand. -/
def State.firmwareLeaf (s : State) (va : Nat) : Ans Leaf :=
  let d : Die := BitVec.ofNat 2 (va / 2 ^ 37)
  if va < 2 ^ 39 ∧ s.dieValid d ∧ va % 2 ^ 37 < Config.populated then
    .ok ⟨0, BitVec.ofNat 64 (d.toNat * 2 ^ 59 + va % 2 ^ 37 / 65536 * 65536 + 0x1F), d, 0⟩
  else .bad ⟨5, 0x15, 3, 0⟩

/-- The leaf of a va (R41, R42): from the core's TLB, the quad's, or a walk, each filling those before it. A context whose slot holds no root gets
the translation fault of level 3, whatever the TLBs hold (R40). -/
def State.lookup (s : State) (q : Xreq) (va : Nat) : State × Ans Leaf :=
  if q.ctx == firmwareCtx then (s, s.firmwareLeaf va) else
  if (s.rootOf q.slot q.ctx).isNone then (s, .bad ⟨5, 0x15, 3, 0⟩) else
  let inCore := match q.core with
    | some c => s.coreTlb.find? (fun (x : CoreId × TlbEntry) => x.1 == c && tlbServes x.2 q.ctx va)
    | none => none
  let fillCore := fun (s : State) (e : TlbEntry) => match q.core with | some c => s.fillCoreTlb c e | none => s
  match inCore with
  | some x => (s, .ok (leafOfTlb x.2))
  | none =>
    match s.quadTlb.find? (fun (x : Die × Quad × TlbEntry) => x.1 == q.die && x.2.1 == q.quad && tlbServes x.2.2 q.ctx va) with
    | some x => (fillCore s x.2.2, .ok (leafOfTlb x.2.2))
    | none =>
      match s.rootOf q.slot q.ctx with
      | none => (s, .bad ⟨5, 0x15, 3, 0⟩)
      | some (d, off) =>
        match walk q.die q.ctx va 4 d off s with
        | (s1, .bad f) => (s1, .bad f)
        | (s1, .ok l) =>
          let e := tlbOf q.ctx va l
          (fillCore ((s1.setRef l va).fillQuadTlb q.die q.quad e) e, .ok l)

/-- The permissions of a leaf, in their order (R39). -/
def permission (q : Xreq) (l : Leaf) : Option AFault :=
  let w := walkRecord l.level l.die l.off
  if q.user && !l.entry.getLsbD 4 then some ⟨6, 0x16, 0, w⟩
  else if q.kind == .write && !l.entry.getLsbD 2 then some ⟨6, 0x16, 1, w⟩
  else if q.kind == .fetch && !l.entry.getLsbD 3 then some ⟨6, 0x16, 2, w⟩
  else none

/-- The place of a va under its leaf (R36). Of a peer's leaf, FRAME bits above the die offset are not used (DESIGN CHOICE, log entry 17). -/
def State.placeOf (s : State) (ctx : BitVec 12) (va : Nat) (l : Leaf) : Place :=
  let k := levelShift l.level
  let d := BitVec.ofNat 2 (field l.entry 60 59)
  let x := field l.entry 47 16 * 65536 + va % 2 ^ k
  match field l.entry 63 61 with
  | 1 => .mem (Config.hostBase + x)
  | 3 => .page ⟨d, ctx, BitVec.ofNat 41 (va / 65536), l.die, BitVec.ofNat 37 l.off, l.entry, 0⟩ (va % 65536)
  | 2 =>
    if s.leafLocal l.entry then .mem (Config.devAddr d x)
    else .peer (BitVec.ofNat 9 (field l.entry 58 50)) (Config.devAddr d (x % 2 ^ 37))
  | _ => .mem (Config.devAddr d x)

/-- A virtual address translated and its permissions checked (R36 to R41). -/
def State.translate (s : State) (q : Xreq) (va : Nat) : State × Ans (Place × Leaf) :=
  match s.lookup q va with
  | (s1, .bad f) => (s1, .bad f)
  | (s1, .ok l) =>
    match permission q l with
    | some f => (s1, .bad f)
    | none => (s1, .ok (s1.placeOf q.ctx va l, l))

/-- The leaf's page may not be reached by an engine that reaches neither the host nor a peer (R39). -/
def farTarget (l : Leaf) : Bool := field l.entry 63 61 == 1 || field l.entry 63 61 == 2

/-! ### Vaults (R88 to R92) -/

/-- The first byte in `Memory` and the size of a gang's vault allocation; of size 0 without one (R91). -/
def State.allocation (s : State) (g : Gang) : Nat × Nat :=
  match g.vat with
  | some n =>
    let e := s.reg (.vat g.die g.quad n)
    if e.getLsbD 31 then (Config.vaultAddr g.die g.quad (field e 7 0 * 65536), field e 16 8 * 65536) else (0, 0)
  | none => (0, 0)

/-- The gang that a KIND 1 role names (R132). -/
def State.roleGang (s : State) (ctx : BitVec 12) (role : W64) : Option Gang := s.findGang ctx (BitVec.ofNat 24 (field role 23 0))

/-- The vault byte of an address on path 0x2 or 0x3 (R34, R91). -/
def State.vaultPlace (s : State) (ctx : BitVec 12) (g : Option Gang) (a : W64) : Ans Nat :=
  let within := fun (alloc : Nat × Nat) (off : Nat) => if off < alloc.2 then Ans.ok (alloc.1 + off) else .bad vaultFault
  if field a 63 60 == 2 then
    within (match g with | some g => s.allocation g | none => (0, 0)) (field a 59 0)
  else
    let role := match g with | some g => g.roles.getD (field a 59 56) 0 | none => 0
    if field role 63 60 != 1 then .bad pathFault
    else within (match s.roleGang ctx role with | some h => s.allocation h | none => (0, 0)) (field a 55 0)

/-! ### Flat addresses -/

/-- The place of a flat address, with its checks in the order of R226: path, vault bounds, alignment, translation, permission; and
whether its page has TGT 1 or 2 (R39). -/
def State.route (s : State) (q : Xreq) (g : Option Gang) (a : W64) (align : Nat) : State × Ans (Place × Bool) :=
  let path := field a 63 60
  if 5 ≤ path then (s, .bad pathFault)
  else if path == 2 || path == 3 then
    match s.vaultPlace q.ctx g a with
    | .bad f => (s, .bad f)
    | .ok x => if a.toNat % align != 0 then (s, .bad alignFault) else (s, .ok (.mem x, false))
  else if field a 59 57 != 0 then (s, .bad pathFault)
  else if path == 4 && q.kind == .write then (s, .bad pathFault)
  else if a.toNat % align != 0 then (s, .bad alignFault)
  else
    match s.translate q (field a 56 0) with
    | (s1, .bad f) => (s1, .bad f)
    | (s1, .ok (p, l)) => (s1, .ok (p, farTarget l))

/-- The address in `Memory` of a place of this package. -/
def Place.addr : Place → Option Nat
  | .mem a => some a
  | .page p off => some (Config.pageAddr p.die p.ctx p.vpn + off)
  | .peer _ _ => none

/-- The translation request of a strand's access (R39: U is checked for user strands). -/
def Strand.xreq (st : Strand) (kind : AccessKind) : Xreq :=
  ⟨st.who.ctx, st.ctxSlot, st.core.die, st.core.quad, some st.core, st.isUser, kind⟩

end Sys2Proof.Machine
end

