-- ==== Sys2Proof/Machine/Caches.lean ====
section
/-! DEFINITION. The first-level caches with their victim tags, and the instruction/constant caches (R94 to R102, R404 to R415):
fills, hits, refreshes and invalidations. They hold copies, which nothing keeps coherent. -/

namespace Sys2Proof.Machine

open Sys2Proof

/-! ### Per-core values -/

/-- The entry of a core in a list, or the default. -/
def coreGet {α : Type} (l : List (CoreId × α)) (d : α) (c : CoreId) : α :=
  match l.find? (fun (e : CoreId × α) => e.1 == c) with
  | some e => e.2
  | none => d

/-- The list with a core's entry replaced. -/
def coreSet {α : Type} (l : List (CoreId × α)) (c : CoreId) (x : α) : List (CoreId × α) :=
  (c, x) :: l.filter (fun (e : CoreId × α) => e.1 != c)

/-- A scheduling counter raised, modulo 2^64 (R417). -/
def State.countSched (s : State) (c : CoreId) (k : SchedCounter) (n : Nat) : State :=
  s.setReg (.sched c k) (s.reg (.sched c k) + BitVec.ofNat 64 n)

/-- The number of a core among the package's, for the trees of its caches. -/
def coreNumber (c : CoreId) : Nat := (c.die.toNat * 16 + c.quad.toNat) * 4 + c.core.toNat

/-- A quad's number. -/
def quadNumber (d : Die) (q : Quad) : Nat := d.toNat * 16 + q.toNat

/-- A strand is in the active set (R381, R409). -/
def Strand.inActiveSet (st : Strand) : Bool := st.state == .active || st.state == .held

/-! ### L1 (R94 to R98) -/

/-- The virtual line of a va. -/
def vlineOf (va : Nat) : BitVec 50 := BitVec.ofNat 50 (va / 128)

/-- The L1 line of a core. -/
def State.l1Line (s : State) (c : CoreId) (ctx : BitVec 12) (v : BitVec 50) : Option L1Line :=
  s.l1.find? (fun l => l.core == c && l.ctx == ctx && l.vline == v)

/-- Lines of the L1s removed; their victim tags go too (R98). -/
def State.l1Drop (s : State) (p : CoreId → BitVec 12 → BitVec 50 → Bool) : State :=
  { s with
    l1 := s.l1.filter (fun l => !p l.core l.ctx l.vline)
    victims := s.victims.filter (fun t => !p t.core t.ctx t.vline) }

/-- One line removed from a core's L1 (R95). -/
def State.l1Invalidate (s : State) (c : CoreId) (ctx : BitVec 12) (v : BitVec 50) : State :=
  s.l1Drop (fun c' x w => c' == c && x == ctx && w == v)

/-- Every line of a context removed from a core's L1 (R95). -/
def State.l1InvalidateCtx (s : State) (c : CoreId) (ctx : BitVec 12) : State := s.l1Drop (fun c' x _ => c' == c && x == ctx)

/-- The lines of a context in a core that overlap a range of virtual addresses removed. -/
def State.l1InvalidateRange (s : State) (c : CoreId) (ctx : BitVec 12) (va n : Nat) : State :=
  s.l1Drop (fun c' x w => c' == c && x == ctx && overlaps (w.toNat * 128) 128 va n)

/-- The regions bound to an object, by base and size (R271). -/
def State.regionsOf (s : State) (ctx : BitVec 12) (obj : BitVec 57) : List (BitVec 57 × Nat) :=
  (s.regions.filter (fun r => r.ctx == ctx && r.obj == obj)).map (fun r => (r.base, r.k))

/-- The lines of a core in some regions removed (R96). -/
def State.dropRegions (s : State) (c : CoreId) (ctx : BitVec 12) (l : List (BitVec 57 × Nat)) : State :=
  l.foldl (fun s r => s.l1InvalidateRange c ctx r.1.toNat (2 ^ r.2)) s

/-- The lines of a core in the regions bound to an object removed (R96, R270, R271). -/
def State.regionInvalidate (s : State) (c : CoreId) (ctx : BitVec 12) (obj : BitVec 57) : State := s.dropRegions c ctx (s.regionsOf ctx obj)

/-- MEAS: the lines resident that the strand filled (R405). -/
def State.measured (s : State) (st : Strand) : Nat := (s.l1.filter (fun l => l.core == st.core && l.filler == st.who)).length

/-- The peak of MEAS brought up to date (R405). -/
def State.notePeak (s : State) (w : Who) : State :=
  match s.strands.find? (fun st => st.who == w) with
  | some st =>
    if st.inActiveSet then s.modWho w (fun x => { x with leasePeak := max x.leasePeak (s.measured st) }) else s
  | none => s

/-- A generic load that misses looks up the victim tags (R98, R407). -/
def State.victimLookup (s : State) (c : CoreId) (ctx : BitVec 12) (v : BitVec 50) : State :=
  match s.victims.find? (fun t => t.core == c && t.ctx == ctx && t.vline == v) with
  | none => s
  | some t =>
    let s1 := { s with victims := s.victims.filter (fun u => u != t) }
    let counts := s.strands.any (fun st => st.who == t.filler && st.core == c && BitVec.ofNat 4 st.admission == t.adm && st.spell == t.spell
      && st.inActiveSet && !st.isFirmware)
    let s2 := s1.countSched c .loss 1
    if counts then { s2.countSched c .lossc 1 with losses := coreSet s2.losses c (coreGet s2.losses 0 c + 1) } else s2

/-- The way that a fill of the L1 takes (R94). -/
def State.l1Way (s : State) (c : CoreId) (set : Nat) : Nat :=
  let here := s.l1.filter (fun l => l.core == c && l.set == set)
  match (List.range 8).find? (fun w => !here.any (fun l => l.way == w)) with
  | some w => w
  | none =>
    match (List.range 8).find? (fun w => here.any (fun l => l.way == w && l.demoted)) with
    | some w => w
    | none => plruVictim (s.plruBits (64 + coreNumber c) set) (fun w => decide (w < 8)) 3 1 0

/-- A line placed in the L1 with no valid sector; what stood in its way enters the victim tags, 16 to a set (R98). The spec gives no index: the set
is the virtual line's number modulo 256 (DESIGN CHOICE, log entry 61). -/
def State.l1Allocate (s : State) (c : CoreId) (ctx : BitVec 12) (v : BitVec 50) (filler : Who) (by_ : BitVec 4 × Nat) : State :=
  let set := v.toNat % 256
  let way := s.l1Way c set
  let old := s.l1.find? (fun l => l.core == c && l.set == set && l.way == way)
  let tags := match old with
    | some l => ⟨c, set, l.ctx, l.vline, l.filler, l.adm, l.spell⟩ :: s.victims
    | none => s.victims
  { s with
    l1 := ⟨c, ctx, v, set, way, 0, List.replicate 128 0, filler, by_.1, by_.2, false, 0⟩
      :: s.l1.filter (fun l => !(l.core == c && l.set == set && l.way == way))
    victims := keepFirst (fun t => t.core == c && t.set == set) 16 tags }

/-- The bytes of a list with a run replaced. -/
def spliceBytes (l : List Byte) (off : Nat) (d : List Byte) : List Byte := l.take off ++ d ++ l.drop (off + d.length)

/-- Sectors of a resident line given the bytes they hold at the home (R94, R364). -/
def State.l1SetSectors (s : State) (c : CoreId) (ctx : BitVec 12) (v : BitVec 50) (bits : BitVec 4) (home : List Byte) : State :=
  { s with l1 := s.l1.map (fun l =>
      if l.core == c && l.ctx == ctx && l.vline == v then
        { l with
          valid := l.valid ||| bits
          upset := l.upset &&& ~~~bits
          data := (List.range 4).foldl (fun d i =>
            if bits.getLsbD i then spliceBytes d (32 * i) ((home.drop (32 * i)).take 32) else d) l.data }
      else l) }

/-- The parity of the sectors that a look-up reads (R97): one that fails is counted (R469) and treated as a miss. -/
def State.l1Parity (s : State) (c : CoreId) (ctx : BitVec 12) (v : BitVec 50) (bits : BitVec 4) : State :=
  match s.l1Line c ctx v with
  | none => s
  | some l =>
    let bad := l.upset &&& l.valid &&& bits
    if bad == 0 then s
    else
      { s with
        l1 := s.l1.map (fun l =>
          if l.core == c && l.ctx == ctx && l.vline == v then { l with valid := l.valid &&& ~~~bad, upset := l.upset &&& ~~~bad } else l)
        records := { s.records with l1par := (List.range (popCount bad)).foldl (fun x _ => bumpRec x) s.records.l1par } }

/-- A bit of a resident valid sector changes (R97). -/
def State.upsetL1 (s : State) (c : CoreId) (ctx : BitVec 12) (v : BitVec 50) (sector : BitVec 2) : State :=
  { s with l1 := s.l1.map (fun l =>
      if l.core == c && l.ctx == ctx && l.vline == v then { l with upset := l.upset ||| (l.valid &&& ((1 : BitVec 4) <<< sector.toNat)) } else l) }

/-- Bits of a vault word change (R93): two, or a second one, make it uncorrectable. -/
def State.upsetVault (s : State) (a : Nat) (double : Bool) : State :=
  if !isVault a then s
  else
    let w := a - a % 32
    { s with vaultUpsets := (w, double || s.vaultUpsets.any (fun (u : Nat × Bool) => u.1 == w)) :: s.vaultUpsets.filter (fun (u : Nat × Bool) => u.1 != w) }

/-- A generic load of `n` bytes within a line (R94): a hit is served by the copy; a miss, or a sector that fails parity (R97), allocates the line
and fills the sectors read from the home. `a` is the address at the home. -/
def State.l1Load (s0 : State) (who : Who) (c : CoreId) (ctx : BitVec 12) (v : BitVec 50) (a n : Nat) : State × List Byte :=
  let line := lineOf a
  let bits := sectorBits line a n
  let s := s0.l1Parity c ctx v bits
  let hit := match s.l1Line c ctx v with | some l => l.valid &&& bits == bits | none => false
  if hit then
    match s.l1Line c ctx v with
    | some l => (s.plruUse (64 + coreNumber c) l.set 3 l.way, (l.data.drop (a - line)).take n)
    | none => (s, [])
  else
    let sv := s.victimLookup c ctx v
    let by_ := match sv.strands.find? (fun st => st.who == who) with | some st => (BitVec.ofNat 4 st.admission, st.spell) | none => (0, 0)
    let s1 := if (sv.l1Line c ctx v).isSome then sv else sv.l1Allocate c ctx v who by_
    let need := match s1.l1Line c ctx v with | some l => bits &&& ~~~l.valid | none => bits
    let r := s1.homeRead a n
    let s2 := r.1.l1SetSectors c ctx v need (r.1.mem.read line 128)
    let s3 := match s2.l1Line c ctx v with | some l => s2.plruUse (64 + coreNumber c) l.set 3 l.way | none => s2
    let out := match s3.l1Line c ctx v with | some l => (l.data.drop (a - line)).take n | none => r.2
    (s3.notePeak who, out)

/-- A generic store refreshes the resident valid sectors of the same virtual line with their values at the home (R94, R364). -/
def State.l1Refresh (s : State) (c : CoreId) (ctx : BitVec 12) (v : BitVec 50) (a n : Nat) : State :=
  match s.l1Line c ctx v with
  | some l => s.l1SetSectors c ctx v (l.valid &&& sectorBits (lineOf a) a n) (s.mem.read (lineOf a) 128)
  | none => s

/-- The lines that a strand filled demoted, or no longer (R415). -/
def State.demote (s : State) (w : Who) (d : Bool) : State :=
  { s with l1 := s.l1.map (fun l => if l.filler == w then { l with demoted := d } else l) }

/-! ### The instruction/constant cache (R99 to R102) -/

/-- The line of a quad's instruction/constant cache. -/
def State.icLine (s : State) (d : Die) (q : Quad) (ctx : BitVec 12) (v : BitVec 50) : Option ICLine :=
  s.icache.find? (fun l => l.die == d && l.quad == q && l.ctx == ctx && l.vline == v)

/-- Lines of the instruction/constant caches removed (R101). -/
def State.icDrop (s : State) (p : Die → Quad → BitVec 12 → BitVec 50 → Bool) : State :=
  { s with icache := s.icache.filter (fun l => !p l.die l.quad l.ctx l.vline) }

/-- A line filled from its home (R99): the firmware slot's fills use way 0, the others ways 1 to 7. -/
def State.icFill (s : State) (firmware : Bool) (d : Die) (q : Quad) (ctx : BitVec 12) (v : BitVec 50) (line : Nat) : State :=
  let set := v.toNat % 256
  let r := s.homeRead line 128
  let here := r.1.icache.filter (fun l => l.die == d && l.quad == q && l.set == set)
  let cache := 1024 + quadNumber d q
  let way := if firmware then 0
    else match (List.range 8).find? (fun w => 0 < w ∧ !here.any (fun l => l.way == w)) with
      | some w => w
      | none => plruVictim (r.1.plruBits cache set) (fun w => decide (0 < w) && decide (w < 8)) 3 1 0
  { r.1.plruUse cache set 3 way with
    icache := ⟨d, q, ctx, v, set, way, r.2⟩
      :: r.1.icache.filter (fun l => !(l.die == d && l.quad == q && l.set == set && l.way == way)) }

/-- A constant-path load (R94, R101): from the line, filled on a miss. -/
def State.icLoad (s : State) (firmware : Bool) (d : Die) (q : Quad) (ctx : BitVec 12) (v : BitVec 50) (a n : Nat) : State × List Byte :=
  let s1 := match s.icLine d q ctx v with
    | some l => s.plruUse (1024 + quadNumber d q) l.set 3 l.way
    | none => s.icFill firmware d q ctx v (lineOf a)
  match s1.icLine d q ctx v with
  | some l => (s1, (l.data.drop (a % 128)).take n)
  | none => (s1, [])

end Sys2Proof.Machine
end

