-- ==== Sys2Proof/Machine/Access.lean ====
section
/-! DEFINITION. Accesses on their way to their homes (R362 to R367): the queue of a strand's accesses and their order, how each is
performed, the deferred results they deliver (R123), and the requests to peer packages (R228, R374, R449, R450). -/

namespace Sys2Proof.Machine

open Sys2Proof

/-! ### Results (R123 to R125) -/

/-- The first `k` little-endian words of a run of bytes; missing bytes read as zero. -/
def wordsFrom : Nat → List Byte → List Word
  | 0, _ => []
  | k + 1, bs => BitVec.ofNat 32 (leNat (bs.take 4)) :: wordsFrom k (bs.drop 4)

/-- A result changed. -/
def State.modResult (s : State) (id : Nat) (f : Result → Result) : State :=
  { s with results := s.results.map (fun r => if r.id == id then f r else r) }

/-- The answer of an access delivered to its result. -/
def State.answer (s : State) (req : Nat) (rep : Option Reply) (bs : List Byte) : State :=
  match rep with
  | none => s
  | some p =>
    s.modResult p.result (fun r =>
      let vals := p.regs.zip (wordsFrom p.regs.length bs)
      let r1 := { r with pending := r.pending.filter (· != req) }
      match p.breg, p.lane with
      | some b, _ => { r1 with bwrites := r1.bwrites ++ [(b, BitVec.ofNat 128 (leNat bs))] }
      | none, some l => { r1 with vwrites := r1.vwrites ++ vals.map (fun x => (x.1, l, x.2)) }
      | none, none => { r1 with wwrites := r1.wwrites ++ vals })

/-- One lane of a v register written. -/
def Strand.setLane (st : Strand) (r l : Nat) (x : Word) : Strand := { st with v := st.v.set r (mergeRow (1 <<< l) (fun _ => x) (st.row r)) }

/-- A result written into its registers: values, flags, and the full/empty bits set (R123). -/
def Strand.arrive (st : Strand) (r : Result) : Strand :=
  let st1 := r.vwrites.foldl (fun st w => st.setLane w.1 w.2.1 w.2.2) st
  let st2 := r.wwrites.foldl (fun st w => st.setW w.1 w.2) st1
  let st3 := r.mwrites.foldl (fun st w => st.setM w.1 w.2) st2
  let st3 := r.bwrites.foldl (fun st w => st.setB w.1 w.2) st3
  let st4 := (st3.setBits r.vregs r.wregs).orFlags r.flags
  { st4 with sr := { st4.sr with rsvflags := st4.sr.rsvflags ||| r.rsvflags.setWidth 32 } }

/-- The held strand goes on when it waits for a register. -/
def Strand.wakeIf (st : Strand) (p : Park) (now : Nat) : Strand := if st.park == some p then st.wake now else st

/-- A result arrives (R123). -/
def State.arrive (s : State) (r : Result) : State :=
  { s with results := s.results.filter (fun x => x.id != r.id) }.modWho r.who (fun st => (st.arrive r).wakeIf .register s.cycle)

/-! ### Performing an access (R362 to R366) -/

/-- The flat address that the strand gave: path and virtual line, with the place in the line, which is that at the home. -/
def Req.virtual (r : Req) : W64 := BitVec.ofNat 64 (r.path.toNat * 2 ^ 60 + r.vline.toNat * 128 + r.addr % 128)

/-- The access is an ordinary or paired reduction. -/
def Access.isRed : Access → Bool
  | .redInt .. | .redFloat .. | .redPair .. => true
  | _ => false

/-- Two accesses of one strand that stay in order (R84, R366): they touch common bytes, or are reductions to one line. Constant
loads are not ordered. -/
def conflict (a b : Req) : Bool :=
  a.who == b.who && a.path != 4 && b.path != 4
    && (overlaps a.addr a.size b.addr b.size || (a.access.isRed && b.access.isRed && lineOf a.addr == lineOf b.addr))

/-- An earlier access of the queue holds the access back. -/
def blocked : List Req → Req → Bool
  | [], _ => false
  | x :: xs, r => if x.id == r.id then false else conflict x r || blocked xs r

/-- The L1 effect of an access that is no generic load, once performed (R94, Table 3). -/
def State.l1Effect (s : State) (r : Req) : State :=
  if r.path == 0 && (match r.access with | .write _ => true | _ => false) then s.l1Refresh r.core r.ctx r.vline r.addr r.size
  else if r.path == 0 || r.path == 1 then
    match r.access with
    | .read _ => s
    | _ => s.l1Invalidate r.core r.ctx r.vline
  else s

/-- The transaction-barrier update at the home (R275): the phase before it, and whether it was applied. -/
def State.tbarApply (s : State) (a arrive expect : Nat) : State × Nat × Bool :=
  let r := s.homeNat a 16
  let phase := r.2 / 2 ^ 96
  let ini := r.2 / 2 ^ 32 % 2 ^ 32
  let arr := r.2 % 2 ^ 32
  if arrive != 0 && arr == 0 then (r.1, phase, false)
  else
    let bytes := (r.2 / 2 ^ 64 % 2 ^ 32 + expect) % 2 ^ 32
    let arr1 := arr - arrive
    let full := arr1 == 0 && bytes == 0
    let phase1 := if full then (phase + 1) % 2 ^ 32 else phase
    let arr2 := if full then ini else arr1
    (r.1.homePut a 16 (phase1 * 2 ^ 96 + bytes * 2 ^ 64 + ini * 2 ^ 32 + arr2), phase, true)

/-- An access performed at its home, its answer delivered, and its entry removed. -/
def State.perform (s : State) (r : Req) : State :=
  let s0 := ({ s with reqs := s.reqs.filter (fun x => x.id != r.id) } : State).paidBy r.ctx r.who.gang r.core.die
  match r.access with
  | .read n =>
    let (s1, bs) :=
      if r.path == 0 then s0.l1Load r.who r.core r.ctx r.vline r.addr n
      else if r.path == 4 then s0.icLoad (r.who.gang == firmwareGang) r.core.die r.core.quad r.ctx r.vline r.addr n
      else s0.homeRead r.addr n
    s1.answer r.id r.reply bs
  | .write d => (s0.homeWrite r.addr d).l1Effect r
  | .atomic wide op x =>
    let n := if wide then 8 else 4
    let (s1, w) := s0.homeUpdate r.addr n (fun w => (intOp wide op (BitVec.ofNat 64 w) x).toNat)
    (s1.l1Effect r).answer r.id r.reply (leBytes n w)
  | .cas n c new =>
    let (s1, w) := s0.homeCas r.addr n c.toNat new.toNat
    (s1.l1Effect r).answer r.id r.reply (leBytes n w)
  | .redInt wide op x => (s0.homeReduce r.core.die r.addr (.int wide op) x).l1Effect r
  | .redFloat type op ftz x => (s0.homeReduce r.core.die r.addr (.float type op ftz) x).l1Effect r
  | .redPair wide x => (s0.homePair r.addr wide x).l1Effect r
  | .arm .. => s0
  | .tbar .. => s0

/-- The access waits for an event of its own: a monitor arm or a transaction-barrier update. -/
def Access.special : Access → Bool
  | .arm .. | .tbar .. => true
  | _ => false

/-- Every access of a strand performed, in order: what an instruction that follows them all begins with. -/
def State.drain (s : State) (w : Who) : State :=
  (s.reqs.filter (fun r => r.who == w && !r.access.special)).foldl State.perform s

/-- The accesses of a strand to the lines of a range performed, in order. -/
def State.drainAt (s : State) (w : Who) (a n : Nat) : State :=
  (s.reqs.filter (fun r => r.who == w && !r.access.special && overlaps (lineOf r.addr) 128 (lineOf a) (n + a % 128))).foldl
    State.perform s

/-- Every access of a strand performed, and every result of it delivered (R125, R376). -/
def State.settle (s : State) (w : Who) : State :=
  let s1 := s.drain w
  (s1.results.filter (fun r => r.who == w && r.pending.isEmpty)).foldl State.arrive s1

/-! ### Requests to peers (R228, R374, R446 to R450) -/

/-- sr.rfault after a posted store has faulted (R129, R453). -/
def Strand.noteRfault (st : Strand) (pkg : BitVec 9) (cls : Nat) (va : W64) : Strand :=
  let f := st.sr.rfault
  let v := if f.getLsbD 63 then f ||| 0x4000000000000000
    else BitVec.ofNat 64 (2 ^ 63 + pkg.toNat * 2 ^ 53 + cls % 32 * 2 ^ 48 + field va 56 9)
  { st with sr := { st.sr with rfault := v } }

/-- A request to the package would be sent: a route is valid and a port up (R449). -/
def State.reachable (s : State) (pkg : BitVec 9) : Bool := (s.reg (.zroute pkg)).getLsbD 31 && !(s.portsTo pkg).isEmpty

/-- KIND, OP, ESIZE, FTYPE, payload and the bytes a reply carries, of an access as a packet (R446, R447, Table 8). -/
def peerForm : Access → Nat × Nat × Nat × Nat × List Byte × Nat
  | .read n => (0, 0, 0, 0, [], n)
  | .write d => (1, 0, 0, 0, d, 0)
  | .atomic wide op x => (3, op.toNat, if wide then 3 else 2, 0, leBytes (if wide then 8 else 4) x.toNat, if wide then 8 else 4)
  | .cas n c new => (3, 0x10, if n == 4 then 2 else if n == 8 then 3 else 4, 0, leBytes n c.toNat ++ leBytes n new.toNat, n)
  | .redInt wide op x => (2, op.toNat, if wide then 3 else 2, 0, leBytes (if wide then 8 else 4) x.toNat, 0)
  | .redFloat type op ftz x =>
    (2, (if ftz then 0x28 else 0x20) + op.toNat, if type == 3 then 3 else 2, type.toNat, leBytes (if type == 3 then 8 else 4) x.toNat, 0)
  | .redPair wide x => (2, 0x30, if wide then 4 else 3, if wide then 3 else 2, leBytes (if wide then 8 else 4) x.toNat, 0)
  | .arm wide cond val => (10, 0, 0, 0, leBytes 8 val.toNat ++ [BitVec.ofNat 8 (cond.toNat + if wide then 16 else 0)], 8)
  | .tbar .. => (0, 0, 0, 0, [], 0)

/-- The access is posted at a peer (R374). -/
def Access.posted : Access → Bool
  | .write _ | .redInt .. | .redFloat .. | .redPair .. => true
  | _ => false

/-- The waiter's part of an arm's payload: WAITER and zeros (R452). -/
def armTail (w : Who) : List Byte := leBytes 5 (waiterCode w) ++ List.replicate 18 0

/-- A request sent to a peer: a packet, and an entry among those outstanding. -/
def State.sendPeer (s : State) (who : Option Who) (ctx : BitVec 12) (pkg : BitVec 9) (dpa : Nat) (va : W64) (acc : Access)
    (rep : Option Reply) : State :=
  let (kind, op, esize, ftype, payload, n) := peerForm acc
  let tag := BitVec.ofNat 16 s.nextId
  let tail := match acc, who with | .arm .., some w => armTail w | _, _ => []
  let s1 := s.send { ftype := ftype, esize := esize, ctx := ctx, op := op, addr := dpa, tag := tag, kind := kind, dst := pkg
                     len := if kind == 0 then some n else none } (payload ++ tail)
  let s2 := { s1 with
    nextId := s1.nextId + 1
    peerReqs := s1.peerReqs ++ [⟨tag, pkg, BitVec.ofNat 4 kind, acc.posted, who, rep, n, va, dpa, s1.cycle, none, false, none⟩] }
  match who with
  | some w =>
    if acc.posted then s2.modWho w (fun st => { st with posted := st.posted + 1 })
    else
      (match acc with
      | .arm .. => { s2 with peerArms := s2.peerArms ++ [⟨w, pkg, dpa, false⟩] }
      | _ => s2)
  | none => s2

/-- The strand must wait before it sends to this address of a peer: an earlier posted store of it to the same line is not
acknowledged (R366), or the package's ports are being recomputed (R449). -/
def State.peerWait (s : State) (w : Who) (pkg : BitVec 9) (dpa : Nat) : Bool :=
  s.routeStale.contains pkg
    || s.peerReqs.any (fun p => p.posted && p.who == some w && p.dst == pkg && lineOf p.dpa == lineOf dpa)

end Sys2Proof.Machine
end

