-- ==== Sys2Proof/Machine/LaneMem.lean ====
section
/-! DEFINITION. The per-lane memory instructions, opcodes 0x54 to 0x69 (R222 to R237), and the common course of a memory access of
a strand: addresses through buffer records, the checks and their ranking, the accesses started, and what follows a fault or a reply
of the fabric. -/

namespace Sys2Proof.Machine

open Sys2Proof

/-! ### Addresses (R131, R222 to R224) -/

/-- The record breaks R131 or R223: V = 0, a reserved field, SWZ or OOBP. -/
def recordBad (r : BitVec 128) : Bool :=
  !r.getLsbD 127 || field r 126 124 != 0 || field r 115 112 != 0 || decide (2 < field r 119 116) || decide (2 < field r 123 120)

/-- Swz (R223, Table A). -/
def swizzle (o code : Nat) : Nat :=
  match code with
  | 1 => o ^^^ (o / 2 ^ 7 % 8 * 2 ^ 4)
  | 2 => o ^^^ (o / 2 ^ 7 % 32 * 2 ^ 2)
  | _ => o

/-- The flat address of element `idx` (R222). -/
def elementAddr (r : BitVec 128) (idx : Nat) : W64 :=
  BitVec.ofNat 64 (field r 63 0 + swizzle (idx * field r 111 96) (field r 119 116))

/-- What a lane's index leads to (R222, R224). -/
inductive Index where
  /-- Out of range: no access. -/
  | out
  /-- The buffer-record fault of OOBP 1. -/
  | fault (a : W64)
  | at (a : W64)
  deriving DecidableEq, Repr

/-- The index of a lane: the index register and the element offset, exact (R222). -/
def indexOf (r : BitVec 128) (x : Word) (off : Nat) : Index :=
  let idx := x.toNat + off
  let ext := field r 95 64
  if idx < ext then .at (elementAddr r idx)
  else
    match field r 123 120 with
    | 1 => .fault (elementAddr r idx)
    | 2 => if ext == 0 then .out else .at (elementAddr r (ext - 1))
    | _ => .out

/-! ### The checks of the lanes (R226, R227) -/

/-- What the checks decide for a lane. -/
inductive LaneRes where
  | out
  | bad (f : AFault) (a : W64)
  | ok (p : Place) (a : W64)
  deriving DecidableEq, Repr

/-- What a memory instruction does in one iteration: its record, the element offset, the index of each lane, the bytes and the
alignment, the kind, whether TGT 1 and 2 fault, the access of each lane, the registers that an answer fills, in words. -/
structure LaneForm where
  record : BitVec 128
  off : Nat
  index : Nat → Word
  align : Nat
  kind : AccessKind
  near : Bool
  access : Nat → Access
  size : Nat
  dest : List Nat

/-- The buffer-record fault of a record that breaks its rules: for all the active lanes, with A of the lowest of them (R226, R227). -/
def recordTrap (fm : LaneForm) (act : Word) : Trap :=
  ⟨0x13, 0, some act, 0, elementAddr fm.record ((fm.index ((lanesOf act).headD 0)).toNat + fm.off), 0⟩

/-- The checks of one lane's address. -/
def State.checkAddr (s : State) (st : Strand) (fm : LaneForm) (a : W64) : State × LaneRes :=
  match s.route (st.xreq fm.kind) (s.gangOf st) a fm.align with
  | (s1, .bad f) => (s1, .bad f a)
  | (s1, .ok (p, far)) => if fm.near && far then (s1, .bad targetFault a) else (s1, .ok p a)

/-- The checks of the lanes, in ascending order. -/
def checkLanes (st : Strand) (fm : LaneForm) : List Nat → State → State × List (Nat × LaneRes)
  | [], s => (s, [])
  | l :: ls, s =>
    let (s1, r) := match indexOf fm.record (fm.index l) fm.off with
      | .out => (s, LaneRes.out)
      | .fault a => (s, LaneRes.bad ⟨0, 0x13, 1, 0⟩ a)
      | .at a => s.checkAddr st fm a
    let (s2, rs) := checkLanes st fm ls s1
    (s2, (l, r) :: rs)

/-- The capacity fault of a page (R62, R430). -/
def capacityFault (p : PageSlot) : AFault := ⟨8, 0x18, BitVec.ofNat 16 p.die.toNat, walkRecord 0 p.leafDie p.leafOff.toNat⟩

/-- The writes to unbacked pages take their slots, in ascending lane order (R62). -/
def allocLanes : List (Nat × LaneRes) → State → State × List (Nat × LaneRes)
  | [], s => (s, [])
  | (l, r) :: rs, s =>
    let (s1, r1) := match r with
      | .ok (.page p off) a =>
        (match s.allocSlot p with
        | some s1 => (s1, LaneRes.ok (.page p off) a)
        | none => (s, LaneRes.bad (capacityFault p) a))
      | x => (s, x)
    let (s2, rs2) := allocLanes rs s1
    (s2, (l, r1) :: rs2)

/-- The rank of a lane's fault; 9 for none. -/
def LaneRes.rank : LaneRes → Nat
  | .bad f _ => f.rank
  | _ => 9

/-- The lane is complete once its access is performed. -/
def LaneRes.complete : LaneRes → Bool
  | .bad .. => false
  | _ => true

/-- The trap of an instruction whose lanes meet faults (R227): the earliest class, its lanes, and the lowest of them. -/
def laneTrap (outs : List (Nat × LaneRes)) : Option Trap :=
  let worst := outs.foldl (fun n o => min n o.2.rank) 9
  if worst == 9 then none
  else
    match outs.find? (fun o => o.2.rank == worst) with
    | some (_, .bad f a) =>
      some ⟨f.cls, f.detail, some (buildMask (fun l => outs.any (fun o => o.1 == l && o.2.rank == worst))),
        buildMask (fun l => outs.any (fun o => o.1 == l && o.2.complete)), a, f.walkent⟩
    | _ => none

/-! ### The accesses started -/

/-- The access that a strand starts at a place: queued, performed at once, or sent to a peer. A write to an unbacked page is
performed at once, since it retires only with its home's answer (R229). -/
def State.startAccess (s : State) (st : Strand) (acc : Access) (size : Nat) (rep : Option Reply) (a : W64) (now : Bool) (p : Place) : State :=
  let req := fun (addr : Nat) => (⟨s.nextId, st.who, st.core, st.who.ctx, addr, size, acc, rep, vlineOf (field a 56 0),
    BitVec.ofNat 4 (field a 63 60)⟩ : Req)
  let go := fun (addr : Nat) (now : Bool) =>
    let s1 := { s with nextId := s.nextId + 1 }
    if now then (s1.drainAt st.who addr size).perform (req addr)
    else
      let s2 := { s1 with reqs := s1.reqs ++ [req addr] }
      match rep with
      | some r => s2.modResult r.result (fun x => { x with pending := x.pending ++ [s.nextId] })
      | none => s2
  let read := match acc with | .read _ => true | _ => false
  match p with
  | .mem addr => go addr now
  | .page q off => go (Config.pageAddr q.die q.ctx q.vpn + off) (now || !read)
  | .peer pkg dpa =>
    if s.reachable pkg then s.sendPeer (some st.who) st.who.ctx pkg dpa a acc rep
    else if acc.posted then s.modWho st.who (fun x => x.noteRfault pkg 0x1F a)
    else
      s.modWho st.who (fun x =>
        { x with remote := x.remote.map (fun r =>
            { r with faults := r.faults ++ [((match rep with | some p => p.lane.getD 0 | none => 0), 0x1F, a)] }) })

/-- Some place would have to wait before a request is sent to it. -/
def State.placeWaits (s : State) (w : Who) (p : Place) : Bool :=
  match p with
  | .peer pkg dpa => s.peerWait w pkg dpa
  | _ => false

/-- An `acq` invalidates the lines of the regions that were bound when its read was performed (R270). -/
def State.afterReplies (s : State) (st : Strand) (i : Instr) (r : RemoteOp) : State :=
  match i with
  | .acq _ _ a _ =>
    s.dropRegions st.core st.who.ctx (r.bound.getD (s.regionsOf st.who.ctx (BitVec.ofNat 57 (field (st.wpair a.toNat) 56 0))))
  | _ => s

/-- A strand that froze while it held for replies and has gone on to another iteration of its repeat, or past it, records where it stands (R144). -/
def Strand.renote (st : Strand) : Strand :=
  if st.state != .frozen || st.sr.hnd then st
  else if st.rptAt == 0 then { st with sr := { st.sr with rpt := false, rptstate := st.sr.rptstate &&& 0x7FFFFFFF } }
  else st.noteRepeat

/-- A trap of this package's checks, for an instruction of which some lanes have faulted at a peer: a remote-load fault comes later than any of the
checks, so those lanes are neither complete nor faulters (R227). -/
def Trap.without (t : Trap) (faults : List (Nat × BitVec 8 × W64)) : Trap :=
  { t with done := t.done &&& ~~~buildMask (fun l => faults.any (fun f => f.1 == l)) }

/-- An instruction that has all the replies of the fabric it held for: its result arrives, and it retires, or takes the trap of this
package's checks or the remote-load fault (R227, R228, R453). -/
def State.finishRemote (s : State) (idx : Nat) : State :=
  match s.strands[idx]? with
  | none => s
  | some st =>
    match st.remote, st.waiting with
    | some r, some i =>
      if s.peerReqs.any (fun p => match p.reply with | some q => q.result == r.result | none => false) then s
      else
        let s1 := match s.results.find? (fun x => x.id == r.result) with | some x => s.arrive x | none => s
        let s2 := s1.modStrand idx (fun x => { x.wake s.cycle with remote := none, waiting := none })
        let uniform := !((opInfo i).form == .lm)
        let goOn := fun (s : State) (a : After) => (finish i idx (st.iter i) st s a).modStrand idx Strand.renote
        match r.trap with
        | some t => goOn s2 (.trap (t.without r.faults))
        | none =>
          let low := r.faults.foldl (fun (b : Option (Nat × BitVec 8 × W64)) f =>
            match b with | some x => if f.1 < x.1 then some f else some x | none => some f) none
          match low with
          | none => goOn (s2.afterReplies st i r) .done
          | some (_, cls, a) =>
            goOn s2 (.trap
              ⟨0x19, cls.setWidth 16, if uniform then none else some (buildMask (fun l => r.faults.any (fun f => f.1 == l))),
                if uniform then 0 else r.done &&& ~~~buildMask (fun l => r.faults.any (fun f => f.1 == l)), a, 0⟩)
    | _, _ => s

/-- The strand holds for the replies of an instruction's remote accesses. -/
def State.holdRemote (s : State) (w : Who) (i : Instr) (r : RemoteOp) : State :=
  s.modWho w (fun st => { st.hold .remote with waiting := some i, remote := some r })

/-! ### The body of a per-lane memory instruction -/

/-- One iteration of a per-lane memory instruction (R226 to R229). -/
def memBody (i : Instr) (f : Nat → Strand → Fields → LaneForm) : Body := fun k s =>
  match s.strands[s.cur]? with
  | none => (s, .done)
  | some st =>
    let act := st.active i.px
    let fm := f k st (fieldsAt i k)
    if act == 0 then (s, .done)
    else if recordBad fm.record then (s, .trap (recordTrap fm act))
    else
      let (s1, outs0) := checkLanes st fm (lanesOf act) s
      if outs0.any (fun o => match o.2 with | .ok p _ => s1.placeWaits st.who p | _ => false) then
        (s1.modCur (fun x => x.hold .posted), .again)
      else
        let (s2, outs) := if fm.kind == .write then allocLanes outs0 s1 else (s1, outs0)
        let oob := (outs.filter (fun o => o.2 == .out)).length
        let s3 := s2.modCur (fun x => { x with sr := { x.sr with
          oobcount := BitVec.ofNat 32 (min (2 ^ 32 - 1) (x.sr.oobcount.toNat + oob)) } })
        let trap := laneTrap outs
        let remote := outs.any (fun o => match o.2 with | .ok (.peer _ _) _ => !(fm.access o.1).posted | _ => false)
        let id := s3.nextId
        let zeros := outs.foldl (fun l o => if o.2 == .out then l ++ fm.dest.map (fun r => (r, o.1, (0 : Word))) else l) []
        let s4 := if fm.dest.isEmpty && !remote then s3
          else s3.defer st { Result.blank st.who with vregs := fm.dest, vwrites := zeros }
        let s5 := if remote then s4.holdRemote st.who i ⟨id, trap, buildMask (fun l => outs.any (fun o => o.1 == l && o.2.complete)), [], none⟩
          else s4
        let s6 := outs.foldl (fun s o =>
          match o.2 with
          | .ok p a =>
            s.startAccess st (fm.access o.1) fm.size (if fm.dest.isEmpty then none else some ⟨id, some o.1, fm.dest, none⟩) a
              (trap.isSome || remote) p
          | _ => s) s5
        if remote then (s6.finishRemote s6.cur, .again)
        else
          match trap with
          | none => (s6, .done)
          | some t =>
            match s6.results.find? (fun r => r.id == id && r.who == st.who) with
            | some r => (s6.arrive r, .trap t)
            | none => (s6, .trap t)

/-- The element offset of iteration `k` (R222). -/
def elemOff (i : Instr) (k : Nat) (f : BitVec 4) : Nat := f.toNat + k * (seqRpt i.px).sb.toNat

/-- The registers of a group. -/
def groupRegs (r n : Nat) : List Nat := (List.range n).map (fun j => r + j)

/-- The words of a group in a lane, as a number. -/
def Strand.laneGroup (st : Strand) (r n l : Nat) : Nat :=
  (List.range n).foldl (fun x j => x + (st.lane (r + j) l).toNat * 2 ^ (32 * j)) 0

/-- The v registers that hold `size` bytes. -/
def regsFor (size : Nat) : Nat := (size + 3) / 4

/-- `ld` (R228). -/
def loadBody (i : Instr) (size : Nat) (b f : BitVec 4) : Body :=
  memBody i (fun k st fs =>
    { record := st.brec b.toNat, off := elemOff i k f, index := srcA i.px fs st, align := size, kind := .read, near := false
      access := fun _ => .read size, size := size, dest := groupRegs fs.d.reg (regsFor size) })

/-- `st` (R229). -/
def storeBody (i : Instr) (size : Nat) (b f : BitVec 4) : Body :=
  memBody i (fun k st fs =>
    { record := st.brec b.toNat, off := elemOff i k f, index := srcA i.px fs st, align := size, kind := .write, near := false
      access := fun l => .write (leBytes size (st.laneGroup fs.d.reg (regsFor size) l)), size := size, dest := [] })

/-- `atom` (R232). -/
def atomBody (i : Instr) (wide : Bool) (b op : BitVec 4) : Body :=
  let size := if wide then 8 else 4
  memBody i (fun _ st fs =>
    { record := st.brec b.toNat, off := 0, index := srcA i.px fs st, align := size, kind := .write, near := false
      access := fun l => .atomic wide op (BitVec.ofNat 64 (st.laneGroup fs.d.reg (regsFor size) l)), size := size
      dest := groupRegs fs.d.reg (regsFor size) })

/-- `atom.cas` (R233): the compare value in the first registers, the new value in those after. -/
def casBody (i : Instr) (size : Nat) (b f : BitVec 4) : Body :=
  let n := regsFor size
  memBody i (fun k st fs =>
    { record := st.brec b.toNat, off := elemOff i k f, index := srcA i.px fs st, align := size, kind := .write, near := false
      access := fun l => .cas size (BitVec.ofNat 128 (st.laneGroup fs.d.reg n l)) (BitVec.ofNat 128 (st.laneGroup (fs.d.reg + n) n l))
      size := size, dest := groupRegs fs.d.reg n })

/-- A reduction of elements of `size` bytes with operands of `n` registers (R234 to R237). -/
def redBody (i : Instr) (size n : Nat) (b : BitVec 4) (acc : W64 → Access) : Body :=
  memBody i (fun _ st fs =>
    { record := st.brec b.toNat, off := 0, index := srcA i.px fs st, align := size, kind := .write, near := false
      access := fun l => acc (BitVec.ofNat 64 (st.laneGroup fs.d.reg n l)), size := size, dest := [] })

/-- One lane's prefetch (R230): it does nothing where the lane would fault. -/
def State.prefetch (s : State) (st : Strand) (fm : LaneForm) (a : W64) : State :=
  match s.checkAddr st fm a with
  | (s1, .ok p _) =>
    match p.addr with
    | none => s1
    | some addr =>
      let v := vlineOf (field a 56 0)
      match field a 63 60 with
      | 0 =>
        if s1.l2Ready (lineOf addr) 128 then (s1.l1Load st.who st.core st.who.ctx v (lineOf addr) 128).1 else s1
      | 1 => s1.l2Touch (lineOf addr) 128 false
      | 4 =>
        (match s1.icLine st.core.die st.core.quad st.who.ctx v with
        | some _ => s1
        | none => s1.icFill st.isFirmware st.core.die st.core.quad st.who.ctx v (lineOf addr))
      | _ => s1
  | (s1, _) => s1

/-- `pf` (R230). -/
def pfBody (i : Instr) (b f : BitVec 4) : Body := fun k s =>
  match s.strands[s.cur]? with
  | none => (s, .done)
  | some st =>
    let act := st.active i.px
    let fs := fieldsAt i k
    let fm : LaneForm :=
      { record := st.brec b.toNat, off := elemOff i k f, index := srcA i.px fs st, align := 1, kind := .read, near := false
        access := fun _ => .read 128, size := 128, dest := [] }
    if act == 0 then (s, .done)
    else if recordBad fm.record then (s, .trap (recordTrap fm act))
    else
      ((lanesOf act).foldl (fun s l =>
        match indexOf fm.record (fm.index l) fm.off with
        | .at a => s.prefetch st fm a
        | _ => s) s, .done)

/-! ### The instructions -/

/-- `ld.b8`. -/
def execLdB8 (px : Pfx) (d x : BitVec 8) (b f : BitVec 4) (s : State) : Host.Outcome State Fault Refusal :=
  issue (.ldB8 px d x b f) (loadBody (.ldB8 px d x b f) 1 b f) s

/-- `ld.b16`. -/
def execLdB16 (px : Pfx) (d x : BitVec 8) (b f : BitVec 4) (s : State) : Host.Outcome State Fault Refusal :=
  issue (.ldB16 px d x b f) (loadBody (.ldB16 px d x b f) 2 b f) s

/-- `ld.b32`. -/
def execLdB32 (px : Pfx) (d x : BitVec 8) (b f : BitVec 4) (s : State) : Host.Outcome State Fault Refusal :=
  issue (.ldB32 px d x b f) (loadBody (.ldB32 px d x b f) 4 b f) s

/-- `ld.b64`. -/
def execLdB64 (px : Pfx) (d x : BitVec 8) (b f : BitVec 4) (s : State) : Host.Outcome State Fault Refusal :=
  issue (.ldB64 px d x b f) (loadBody (.ldB64 px d x b f) 8 b f) s

/-- `ld.b128`. -/
def execLdB128 (px : Pfx) (d x : BitVec 8) (b f : BitVec 4) (s : State) : Host.Outcome State Fault Refusal :=
  issue (.ldB128 px d x b f) (loadBody (.ldB128 px d x b f) 16 b f) s

/-- `st.b8`. -/
def execStB8 (px : Pfx) (v x : BitVec 8) (b f : BitVec 4) (s : State) : Host.Outcome State Fault Refusal :=
  issue (.stB8 px v x b f) (storeBody (.stB8 px v x b f) 1 b f) s

/-- `st.b16`. -/
def execStB16 (px : Pfx) (v x : BitVec 8) (b f : BitVec 4) (s : State) : Host.Outcome State Fault Refusal :=
  issue (.stB16 px v x b f) (storeBody (.stB16 px v x b f) 2 b f) s

/-- `st.b32`. -/
def execStB32 (px : Pfx) (v x : BitVec 8) (b f : BitVec 4) (s : State) : Host.Outcome State Fault Refusal :=
  issue (.stB32 px v x b f) (storeBody (.stB32 px v x b f) 4 b f) s

/-- `st.b64`. -/
def execStB64 (px : Pfx) (v x : BitVec 8) (b f : BitVec 4) (s : State) : Host.Outcome State Fault Refusal :=
  issue (.stB64 px v x b f) (storeBody (.stB64 px v x b f) 8 b f) s

/-- `st.b128`. -/
def execStB128 (px : Pfx) (v x : BitVec 8) (b f : BitVec 4) (s : State) : Host.Outcome State Fault Refusal :=
  issue (.stB128 px v x b f) (storeBody (.stB128 px v x b f) 16 b f) s

/-- `pf`. -/
def execPf (px : Pfx) (x : BitVec 8) (b f : BitVec 4) (s : State) : Host.Outcome State Fault Refusal :=
  issue (.pf px x b f) (pfBody (.pf px x b f) b f) s

/-- `atom.b32`. -/
def execAtomB32 (px : Pfx) (d x : BitVec 8) (b p : BitVec 4) (s : State) : Host.Outcome State Fault Refusal :=
  issue (.atomB32 px d x b p) (atomBody (.atomB32 px d x b p) false b p) s

/-- `atom.b64`. -/
def execAtomB64 (px : Pfx) (d x : BitVec 8) (b p : BitVec 4) (s : State) : Host.Outcome State Fault Refusal :=
  issue (.atomB64 px d x b p) (atomBody (.atomB64 px d x b p) true b p) s

/-- `atom.cas.b32`. -/
def execAtomCasB32 (px : Pfx) (d x : BitVec 8) (b f : BitVec 4) (s : State) : Host.Outcome State Fault Refusal :=
  issue (.atomCasB32 px d x b f) (casBody (.atomCasB32 px d x b f) 4 b f) s

/-- `atom.cas.b64`. -/
def execAtomCasB64 (px : Pfx) (d x : BitVec 8) (b f : BitVec 4) (s : State) : Host.Outcome State Fault Refusal :=
  issue (.atomCasB64 px d x b f) (casBody (.atomCasB64 px d x b f) 8 b f) s

/-- `atom.cas128`. -/
def execAtomCas128 (px : Pfx) (d x : BitVec 8) (b f : BitVec 4) (s : State) : Host.Outcome State Fault Refusal :=
  issue (.atomCas128 px d x b f) (casBody (.atomCas128 px d x b f) 16 b f) s

/-- `red.b32`. -/
def execRedB32 (px : Pfx) (v x : BitVec 8) (b p : BitVec 4) (s : State) : Host.Outcome State Fault Refusal :=
  issue (.redB32 px v x b p) (redBody (.redB32 px v x b p) 4 1 b (.redInt false p)) s

/-- `red.b64`. -/
def execRedB64 (px : Pfx) (v x : BitVec 8) (b p : BitVec 4) (s : State) : Host.Outcome State Fault Refusal :=
  issue (.redB64 px v x b p) (redBody (.redB64 px v x b p) 8 2 b (.redInt true p)) s

/-- `red.f`. -/
def execRedF (px : Pfx) (v x : BitVec 8) (b : BitVec 4) (t p : BitVec 2) (s : State) : Host.Outcome State Fault Refusal :=
  let n := if t == 3 then 2 else 1
  issue (.redF px v x b t p) (redBody (.redF px v x b t p) (4 * n) n b (.redFloat t p false)) s

/-- `red.f.ftz`. -/
def execRedFFtz (px : Pfx) (v x : BitVec 8) (b : BitVec 4) (t p : BitVec 2) (s : State) : Host.Outcome State Fault Refusal :=
  let n := if t == 3 then 2 else 1
  issue (.redFFtz px v x b t p) (redBody (.redFFtz px v x b t p) (4 * n) n b (.redFloat t p true)) s

/-- `red.f.pair`. -/
def execRedFPair (px : Pfx) (v x : BitVec 8) (b : BitVec 4) (t : BitVec 1) (s : State) : Host.Outcome State Fault Refusal :=
  let n := if t == 1 then 2 else 1
  issue (.redFPair px v x b t) (redBody (.redFPair px v x b t) (8 * n) n b (.redPair (t == 1))) s

end Sys2Proof.Machine
end

