-- ==== Sys2Proof/Machine/Barriers.lean ====
section
/-! DEFINITION. The barrier networks (R272, R273, R382, R383) and `regroup` (R217 to R220): counters, arrivals, deregistrations, the
tests after each of them, the exchange, and the end of a wait. -/

namespace Sys2Proof.Machine

open Sys2Proof

/-! ### Parking and the end of a wait (R267, R381) -/

/-- The strand at an index parks in an instruction: it gives up its lease, and its L1 lines are demoted (R267, R415). -/
def State.park (s : State) (idx : Nat) (p : Park) (i : Instr) : State :=
  match s.strands[idx]? with
  | some st => (s.modStrand idx (fun x => { x.parkAt p with waiting := some i })).demote st.who true
  | none => s

/-- The strand at an index holds in an instruction, with its lease. -/
def State.holdAt (s : State) (idx : Nat) (p : Park) (i : Instr) : State :=
  s.modStrand idx (fun x => { x.hold p with waiting := some i })

/-- A strand whose wait has ended goes on with the next sequence. -/
def Strand.endWait (st : Strand) (now : Nat) : Strand :=
  match st.waiting with
  | some i => { (st.wake now).retire (nextPc i st) with waiting := none }
  | none => st.wake now

/-- A strand whose wait has ended issues its instruction again, with the bits of its destinations set until then (R125). -/
def Strand.reissueWait (st : Strand) (now : Nat) : Strand :=
  { st.wake now with waiting := none, emptyW := st.waitRegs.foldl dropFrom st.emptyW }

/-! ### Counters (R382) -/

/-- The counters of a gang, and its launch's. -/
inductive Counter where
  | wg (w : Nat)
  | regroup (w : Nat)
  | gang
  | launch
  deriving DecidableEq, Repr

/-- A counter's value. -/
def State.counter (s : State) (g : Gang) (c : Counter) : BarCounter :=
  match c with
  | .wg w => g.wgBars.getD w ⟨0, 0, 0⟩
  | .regroup w => g.regroups.getD w ⟨0, 0, 0⟩
  | .gang => g.gangBar
  | .launch => match s.lbars.find? (fun e => e.1 == g.ticket) with | some e => e.2 | none => ⟨0, 0, 0⟩

/-- A counter changed. -/
def State.modCounter (s : State) (g : Gang) (c : Counter) (f : BarCounter → BarCounter) : State :=
  match c with
  | .wg w => s.modGang g.ctx g.gang (fun h => { h with wgBars := h.wgBars.set w (f (h.wgBars.getD w ⟨0, 0, 0⟩)) })
  | .regroup w => s.modGang g.ctx g.gang (fun h => { h with regroups := h.regroups.set w (f (h.regroups.getD w ⟨0, 0, 0⟩)) })
  | .gang => s.modGang g.ctx g.gang (fun h => { h with gangBar := f h.gangBar })
  | .launch => { s with lbars := s.lbars.map (fun e => if e.1 == g.ticket then (e.1, f e.2) else e) }

/-- The strand is a participant of the counter (R382, Table 2). -/
def State.member (s : State) (g : Gang) (c : Counter) (st : Strand) : Bool :=
  st.state != .ended && !st.isFirmware && st.who.ctx == g.ctx &&
    match c with
    | .wg w => st.who.gang == g.gang && st.who.wg.toNat == w
    | .regroup w => st.who.gang == g.gang && st.who.wg.toNat == w
    | .gang => st.who.gang == g.gang
    | .launch => match s.gangOf st with | some h => h.ticket == g.ticket | none => false

/-- A gang of the launch is swapped out: its strands are Frozen (R383, R439). -/
def State.launchSwapped (s : State) (g : Gang) : Bool := s.swapped.any (fun x => x.1 == g.ctx && x.2.2 == g.ticket)

/-- The strand waits at the counter. An arrival at the launch level stands while its strand is frozen (R386). -/
def Counter.has (c : Counter) (st : Strand) : Bool :=
  match c, st.park with
  | .wg _, some (.bar 0 _) => st.state == .parked
  | .regroup _, some .regroup => st.state == .parked
  | .gang, some (.bar 1 _) => st.state == .parked
  | .launch, some (.bar 2 _) => true
  | _, _ => false

/-- The strand waits at a barrier or a `regroup` that is not this counter's (R273); for a regroup, only the workgroup barrier
counts (R220). -/
def Counter.elsewhere (c : Counter) (st : Strand) : Bool :=
  st.state == .parked && !c.has st &&
    match c, st.park with
    | .regroup _, some (.bar 0 _) => true
    | .regroup _, _ => false
    | _, some (.bar _ _) => true
    | _, some .regroup => true
    | _, _ => false

/-- The indices of the strands that satisfy a predicate. -/
def State.strandsWhere (s : State) (p : Strand → Bool) : List Nat :=
  (List.range s.strands.length).filter (fun i => match s.strands[i]? with | some st => p st | none => false)

/-! ### The exchange of `regroup` (R218, R219) -/

/-- A source of the exchange: key, the strand and lane it comes from, its payload. -/
structure Source where
  key : Nat
  idx : Nat
  lane : Nat
  payload : List Word
  deriving DecidableEq, Repr

/-- A source inserted behind those of equal or lesser key. -/
def insertSource (x : Source) : List Source → List Source
  | [] => [x]
  | y :: ys => if x.key < y.key then x :: y :: ys else y :: insertSource x ys

/-- Strand indices in ascending order of WIDX. -/
def insertWidx (s : State) (i : Nat) : List Nat → List Nat
  | [] => [i]
  | j :: js =>
    let w := fun (k : Nat) => match s.strands[k]? with | some st => st.who.widx.toNat | none => 0
    if w i < w j then i :: j :: js else j :: insertWidx s i js

/-- The lanes of an arrived strand that take part. -/
def Strand.regroupLanes (st : Strand) : Word :=
  match st.waiting with
  | some i => st.active i.px
  | none => 0

/-- The exchange over the arrived strands, given by index (R218, R219). -/
def State.exchange (s : State) (ids0 : List Nat) : State :=
  let ids := ids0.foldl (fun l i => insertWidx s i l) []
  let slots := ids.foldl (fun l i =>
    match s.strands[i]? with | some st => l ++ (lanesOf st.regroupLanes).map (fun k => (i, k)) | none => l) []
  let sources := slots.foldl (fun l p =>
    match s.strands[p.1]? with
    | some st =>
      let (d, a, b) := regroupFields st.waiting
      insertSource ⟨(st.lane a p.2).toNat, p.1, p.2, (List.range (b - d + 1)).map (fun j => st.lane (d + j) p.2)⟩ l
    | none => l) []
  let moved := slots.zip sources
  ids.foldl (fun s1 i =>
    s1.modStrand i (fun st =>
      let (d, _, b) := regroupFields st.waiting
      let mine := moved.filter (fun m => m.1.1 == i)
      let st1 := mine.foldl (fun x m =>
        (List.range (b - d + 1)).foldl (fun y j => y.setLane (d + j) m.1.2 (m.2.payload.getD j 0)) x) st
      let coherent := fun (q : Nat) =>
        match (mine.filter (fun m => m.1.2 / 4 == q)).map (·.2) with
        | [x0, x1, x2, x3] =>
          x0.lane % 4 == 0 && [x1, x2, x3].all (fun x => x.idx == x0.idx)
            && [x1.lane, x2.lane, x3.lane] == [x0.lane + 1, x0.lane + 2, x0.lane + 3]
            && (match s.strands[x0.idx]? with | some o => o.quadCoherent.getLsbD (x0.lane / 4) | none => false)
        | _ => false
      let bits := BitVec.ofNat 8 ((List.range 8).foldl (fun n q => if coherent q then n + 2 ^ q else n) 0)
      { st1 with
        quadCoherent := if mine.isEmpty then st.quadCoherent else bits
        emptyV := (List.range (b - d + 1)).foldl (fun l j => dropFrom l (d + j)) st1.emptyV })) s

/-! ### Tests (R273, R382) -/

/-- The waiters of a counter resume; those of a `bar` with INV invalidate their context's L1 lines first (R272). -/
def State.completeCounter (s : State) (g : Gang) (c : Counter) : State :=
  let ids := s.strandsWhere (fun st => s.member g c st && c.has st)
  let s1 := s.modCounter g c (fun b => { b with arrived := 0, inst := b.inst + 1 })
  let s2 := match c with | .regroup _ => s1.exchange ids | _ => s1
  ids.foldl (fun s i =>
    match s.strands[i]? with
    | some st =>
      let s1 := match st.park with
        | some (.bar _ true) => s.l1InvalidateCtx st.core st.who.ctx
        | _ => s
      s1.modStrand i (fun x => x.endWait s.cycle)
    | none => s) s2

/-- The waiters of a counter take a trap, their arrivals withdrawn (R220, R273). One whose wait an escalation of another has withdrawn takes none. -/
def State.trapCounter (s : State) (g : Gang) (c : Counter) (t : Trap) : State :=
  let ids := s.strandsWhere (fun st => s.member g c st && c.has st)
  let s1 := s.modCounter g c (fun b => { b with arrived := 0 })
  ids.foldl (fun s i =>
    match s.strands[i]? with
    | some st =>
      if !c.has st then s
      else
        let s1 := s.modStrand i (fun x => match c with | .regroup _ => x.payloadFull | _ => x)
        s1.takeTrap i t st.pc 0
    | none => s) s1

/-- The level of a barrier, as R272 numbers it. -/
def Counter.level : Counter → Nat
  | .wg _ => 0
  | .gang => 1
  | .launch => 2
  | .regroup _ => 0

/-- No participant of a counter can arrive any more: each is at the counter or waits elsewhere. A Frozen one is neither, and prevents it (R383). -/
def State.stuck (s : State) (g : Gang) (c : Counter) : Bool :=
  s.strands.all (fun st => !s.member g c st || (st.state != .frozen && (c.has st || c.elsewhere st))) && !(c == .launch && s.launchSwapped g)

/-- The test of one counter (R382): completion, or the underflow of R273 and the deadlock of R220. -/
def State.testCounter (s : State) (ctx : BitVec 12) (gang : BitVec 24) (c : Counter) : State :=
  match s.findGang ctx gang with
  | none => s
  | some g =>
    let b := s.counter g c
    if b.arrived == 0 then s
    else if b.registered ≤ b.arrived then s.completeCounter g c
    else if s.stuck g c then
      match c with
      | .regroup _ => s.trapCounter g c (Trap.plain 0x29 1)
      | _ => s.trapCounter g c (Trap.plain 0x28 (BitVec.ofNat 16 c.level))
    else s

/-- The tests of one workgroup: its barrier counter, and at once its regroup counter (R382). The deadlock of R220 is judged as it stood before the
barrier's waiters took their traps: they are decided by the barrier rules, and every strand at the `regroup` takes its own (DEDUCED, log entry 25). -/
def State.testGroup (s : State) (ctx : BitVec 12) (gang : BitVec 24) (w : Nat) : State :=
  match s.findGang ctx gang with
  | none => s
  | some g =>
    let b := s.counter g (.regroup w)
    let dead := b.arrived != 0 && decide (b.arrived < b.registered) && s.stuck g (.regroup w)
    let s1 := s.testCounter ctx gang (.wg w)
    if dead then s1.trapCounter g (.regroup w) (Trap.plain 0x29 1) else s1.testCounter ctx gang (.regroup w)

/-- The tests of every counter of a gang, in the order of R382, and of the launch's counter when it is co-resident. -/
def State.testGang (s : State) (ctx : BitVec 12) (gang : BitVec 24) : State :=
  match s.findGang ctx gang with
  | none => s
  | some g =>
    let s1 := (List.range g.kernel.wgs).foldl (fun s w => s.testGroup ctx gang w) s
    let s2 := s1.testCounter ctx gang .gang
    if s.coresident g then s2.testCounter ctx gang .launch else s2

/-- A mismatch at a regroup counter (R220): arrived strands whose words differ all take the regroup-mismatch trap. -/
def State.mismatch (s : State) (g : Gang) (w : Nat) : State :=
  let ids := s.strandsWhere (fun st => s.member g (.regroup w) st && (Counter.regroup w).has st)
  let words := ids.map (fun i => match s.strands[i]? with | some st => regroupFields st.waiting | none => (0, 0, 0))
  match words with
  | x :: xs => if xs.all (· == x) then s else s.trapCounter g (.regroup w) (Trap.plain 0x29 0)
  | [] => s

/-- A strand that has parked at a counter is counted, and the counters are tested (R272, R382). -/
def State.arriveAt (s : State) (st : Strand) (c : Counter) : State :=
  match s.gangOf st with
  | none => s
  | some g =>
    let s1 := s.modCounter g c (fun b => { b with arrived := b.arrived + 1 })
    let s2 := match c with | .regroup w => s1.mismatch g w | _ => s1
    s2.testGang g.ctx g.gang

/-- A strand that ends leaves every count it stands in, and its arrival with it; then the tests run (R273, R382). -/
def State.deregister (s : State) (st : Strand) : State :=
  match s.gangOf st with
  | none => s
  | some g =>
    let w := st.who.wg.toNat
    let leave := fun (s : State) (c : Counter) =>
      s.modCounter g c (fun b =>
        { b with registered := b.registered - 1, arrived := if c.has st then b.arrived - 1 else b.arrived })
    let s1 := leave (leave (leave s (.wg w)) (.regroup w)) .gang
    let s2 := if s.coresident g then leave s1 .launch else s1
    s2.testGang g.ctx g.gang

end Sys2Proof.Machine
end

