-- ==== Sys2Proof/Machine/CrossLane.lean ====
section
/-! DEFINITION. The cross-lane instructions, opcodes 0x42 to 0x52 (R209 to R220). -/

namespace Sys2Proof.Machine

open Sys2Proof

/-- A shuffle (R211): the source lane of each lane; a source out of range or not taking part gives the lane its own value. -/
def shuffleBody (i : Instr) (src : Strand → Fields → Nat → Int) : Body :=
  pureBody (fun k st =>
    let fs := fieldsAt i k
    let act := st.active i.px
    st.putV fs.d.reg act (fun l =>
      let j := src st fs l
      srcA i.px fs st (if 0 ≤ j ∧ j ≤ 31 ∧ act.getLsbD (j.toNat % 32) then j.toNat else l)))

/-- The values of the participating lanes, in ascending lane order. -/
def valuesOf (i : Instr) (st : Strand) (fs : Fields) : List Word := (lanesOf (st.active i.px)).map (srcA i.px fs st)

/-- A reduction that writes one value to every participating lane (R212, R213). -/
def reduceBody (i : Instr) (f : List Word → Word) : Body :=
  pureBody (fun k st =>
    let fs := fieldsAt i k
    let r := f (valuesOf i st fs)
    st.putV fs.d.reg (st.active i.px) (fun _ => r))

/-- The exact sum of FP32 values, rounded once (R214). -/
def sumFloats (m : Rm) (vs : List Word) : FRes := rndProducts fp32 m [] (vs.map (fun v => fp32.decode v.toNat))

/-- The best value and index (R215): ties go to the lower index. -/
def bestIdx (better : Word → Word → Bool) : List (Word × Word) → Word × Word → Word × Word
  | [], best => best
  | x :: xs, best =>
    bestIdx better xs (if better x.1 best.1 || (x.1 == best.1 && x.2.ult best.2) then x else best)

/-- `redmin.idx` and `redmax.idx` (R215). -/
def redIdxBody (i : Instr) (better : Word → Word → Bool) (identity : Word) : Body :=
  pureBody (fun k st =>
    let fs := fieldsAt i k
    let act := st.active i.px
    let r := bestIdx better ((lanesOf act).map (fun l => (srcA i.px fs st l, srcB i.px fs st l))) (identity, 0xFFFFFFFF)
    (st.putV fs.d.reg act (fun _ => r.1)).putV (fs.d.reg + 1) act (fun _ => r.2))

/-- The number of bits of a mask below a lane (R216). -/
def countBelow (m : Word) (l : Nat) : Word := BitVec.ofNat 32 ((lanesOf m).filter (fun j => decide (j < l))).length

/-- The inclusive sum up to a lane (R216). -/
def sumUpTo (i : Instr) (st : Strand) (fs : Fields) (l : Nat) : Word :=
  (((lanesOf (st.active i.px)).filter (fun j => decide (j ≤ l))).map (srcA i.px fs st)).foldl (· + ·) 0

/-- `shfl` (R211). -/
def execShfl (px : Pfx) (d a b : BitVec 8) (s : State) : Host.Outcome State Fault Refusal :=
  let i : Instr := .shfl px d a b
  issue i (shuffleBody i (fun st fs l => ((srcB px fs st l).toNat : Int))) s
/-- `shfl.up` (R211). -/
def execShflUp (px : Pfx) (d a n : BitVec 8) (s : State) : Host.Outcome State Fault Refusal :=
  issue (.shflUp px d a n) (shuffleBody (.shflUp px d a n) (fun _ _ l => (l : Int) - n.toNat)) s
/-- `shfl.down` (R211). -/
def execShflDown (px : Pfx) (d a n : BitVec 8) (s : State) : Host.Outcome State Fault Refusal :=
  issue (.shflDown px d a n) (shuffleBody (.shflDown px d a n) (fun _ _ l => (l : Int) + n.toNat)) s
/-- `shfl.xor` (R211). -/
def execShflXor (px : Pfx) (d a n : BitVec 8) (s : State) : Host.Outcome State Fault Refusal :=
  issue (.shflXor px d a n) (shuffleBody (.shflXor px d a n) (fun _ _ l => ((l ^^^ n.toNat : Nat) : Int))) s
/-- `bcast` (R211). -/
def execBcast (px : Pfx) (d a n : BitVec 8) (s : State) : Host.Outcome State Fault Refusal :=
  issue (.bcast px d a n) (shuffleBody (.bcast px d a n) (fun _ _ _ => (n.toNat : Int))) s
/-- `vany` (R212). -/
def execVany (px : Pfx) (d a : BitVec 8) (s : State) : Host.Outcome State Fault Refusal :=
  issue (.vany px d a) (reduceBody (.vany px d a) (fun vs => Word.ofBool (vs.any (· != 0)))) s
/-- `vall` (R212). -/
def execVall (px : Pfx) (d a : BitVec 8) (s : State) : Host.Outcome State Fault Refusal :=
  issue (.vall px d a) (reduceBody (.vall px d a) (fun vs => Word.ofBool (vs.all (· != 0)))) s

/-- `ballot` (R209, R212): the whole mask is written when a lane takes part. -/
def execBallot (px : Pfx) (m : BitVec 3) (a : BitVec 8) (s : State) : Host.Outcome State Fault Refusal :=
  let i : Instr := .ballot px m a
  issue i
    (pureBody (fun k st =>
      let fs := fieldsAt i k
      let act := st.active px
      if act == 0 then st else st.setM m.toNat (buildMask (fun l => act.getLsbD l && srcA px fs st l != 0)))) s

/-- `redadd` (R213). -/
def execRedadd (px : Pfx) (d a : BitVec 8) (s : State) : Host.Outcome State Fault Refusal :=
  issue (.redadd px d a) (reduceBody (.redadd px d a) (fun vs => vs.foldl (· + ·) 0)) s

/-- `redfadd` (R214): the flags are raised once. -/
def execRedfadd (px : Pfx) (d a : BitVec 8) (s : State) : Host.Outcome State Fault Refusal :=
  let i : Instr := .redfadd px d a
  issue i
    (pureBody (fun k st =>
      let fs := fieldsAt i k
      let act := st.active px
      let r := sumFloats (roundMode px st) (valuesOf i st fs)
      if act == 0 then st else (st.putV fs.d.reg act (fun _ => r.word)).orFlags r.flags)) s

/-- `redmin` (R213). -/
def execRedmin (px : Pfx) (d a : BitVec 8) (s : State) : Host.Outcome State Fault Refusal :=
  issue (.redmin px d a) (reduceBody (.redmin px d a) (fun vs => vs.foldl minOp 0x7FFFFFFF)) s
/-- `redmax` (R213). -/
def execRedmax (px : Pfx) (d a : BitVec 8) (s : State) : Host.Outcome State Fault Refusal :=
  issue (.redmax px d a) (reduceBody (.redmax px d a) (fun vs => vs.foldl maxOp 0x80000000)) s
/-- `redmin.idx` (R215). -/
def execRedminIdx (px : Pfx) (d a b : BitVec 8) (s : State) : Host.Outcome State Fault Refusal :=
  issue (.redminIdx px d a b) (redIdxBody (.redminIdx px d a b) (fun x y => x.ult y) 0xFFFFFFFF) s
/-- `redmax.idx` (R215). -/
def execRedmaxIdx (px : Pfx) (d a b : BitVec 8) (s : State) : Host.Outcome State Fault Refusal :=
  issue (.redmaxIdx px d a b) (redIdxBody (.redmaxIdx px d a b) (fun x y => y.ult x) 0) s

/-- `scanadd` (R216). -/
def execScanadd (px : Pfx) (d a : BitVec 8) (s : State) : Host.Outcome State Fault Refusal :=
  let i : Instr := .scanadd px d a
  issue i
    (pureBody (fun k st =>
      let fs := fieldsAt i k
      st.putV fs.d.reg (st.active px) (sumUpTo i st fs))) s

/-- `mcount` (R216). -/
def execMcount (px : Pfx) (d : BitVec 8) (m : BitVec 3) (s : State) : Host.Outcome State Fault Refusal :=
  let i : Instr := .mcount px d m
  issue i (pureBody (fun k st => st.putV (fieldsAt i k).d.reg (st.active px) (countBelow (st.mask m.toNat)))) s

/-- `regroup` arrives (R217): the payload's bits are cleared, and the strand waits at the workgroup's regroup counter. -/
def regroupBody (i : Instr) (d b : BitVec 8) : Body := fun _ s =>
  match s.strands[s.cur]? with
  | none => (s, .done)
  | some st =>
    if st.isFirmware || (s.gangOf st).isNone then (s, .trap Trap.illegal)
    else
      let regs := (List.range (b.toNat - d.toNat + 1)).map (fun j => d.toNat + j)
      let s1 := (s.modCur (fun x => x.clearBits regs [])).park s.cur .regroup i
      ((s1.arriveAt st (.regroup st.who.wg.toNat)), .again)

/-- `regroup` (R217 to R220). -/
def execRegroup (px : Pfx) (d a b : BitVec 8) (s : State) : Host.Outcome State Fault Refusal :=
  issue (.regroup px d a b) (regroupBody (.regroup px d a b) d b) s

end Sys2Proof.Machine
end

