-- ==== Sys2Proof/Machine/Waits.lean ====
section
/-! DEFINITION. The waits that a value from a home ends (R79, R276, R277): the value brought to its strand, monitor arms and transaction-barrier
updates performed at their homes (R78, R275), and every access on its way to a page performed before the page moves (R63, R67). -/

namespace Sys2Proof.Machine

open Sys2Proof

/-! ### Values brought to a waiting strand -/

/-- A value brought to a strand that waits for one (R276, R277): the destination is written, and the wait ends. A wait on a ring
issues its instruction again (R284, R285). -/
def Strand.deliver (st : Strand) (value : W64) (now : Nat) : Strand :=
  match st.waiting with
  | some (.waitc _ d _ _ x _) => (if x == 1 then st.setW2 d.toNat value else st.setW d.toNat (lo32 value)).endWait now
  | some (.tbarWait _ d _ _) => (st.setW d.toNat (lo32 value)).endWait now
  | some _ => st.reissueWait now
  | none => st

/-- The strand waits for a monitor: a wake to it is meant for its wait. -/
def Strand.awaitsWake (st : Strand) : Bool :=
  match st.park with
  | some (.waitc _) => true
  | some (.rearm ..) => true
  | some .tbar => true
  | some .ring => true
  | some .cqput => true
  | _ => false

/-- A value brought to a strand by name; an engine whose monitor has fired looks again (R106, R107). -/
def State.deliverTo (s : State) (w : Who) (value : W64) : State :=
  { s with cancels := s.cancels.filter (· != w), armed := s.armed.filter (fun e => e.who != w) }.modWho w (fun st =>
    if st.awaitsWake then st.deliver value s.cycle else st)

/-- The waits on a vault object for which the phase has changed end (R276). -/
def State.testVaultWaits (s : State) (a : Nat) : State :=
  let now := s.mem.nat (a + 12) 4
  let ends := s.vaultWaits.filter (fun (w : VaultWait) => w.addr == a && w.phase.toNat != now)
  let s1 : State := { s with vaultWaits := s.vaultWaits.filter (fun (w : VaultWait) => !(w.addr == a && w.phase.toNat != now)) }
  ends.foldl (fun s w => s.deliverTo w.who (BitVec.ofNat 64 now)) s1

/-! ### Arms and updates at the home -/

/-- A refused arm waits 1,024 cycles for the next (R80). -/
def Strand.refuseArm (st : Strand) (now : Nat) : Strand :=
  { st with park := some (.rearm (now + 1024) (match st.park with | some (.waitc u) => u | some (.rearm _ u) => u | _ => none)) }

/-- A monitor arm at its home (R78): the word is read, and the arm completes at once, makes an entry, or is refused. -/
def State.arriveArm (s : State) (r : Req) (wide : Bool) (cond : BitVec 4) (val : W64) : State :=
  let s0 : State := { s with reqs := s.reqs.filter (fun x => x.id != r.id) }
  match s0.armMonitor r.addr wide cond val r.ctx (BitVec.ofNat 9 s0.package) r.who with
  | (s1, .holds v) => s1.deliverTo r.who (BitVec.ofNat 64 v)
  | (s1, .armed) => s1
  | (s1, .full) => s1.modWho r.who (fun st => if st.awaitsWake then st.refuseArm s1.cycle else st)

/-- The slot that a write to an unbacked page needs, taken at its home (R62): none where the page's reservation is full. -/
def State.takeSlot (s : State) (p : Option PageSlot) : Option State :=
  match p with
  | some q => s.allocSlot q
  | none => some s

/-- A transaction-barrier update at its home (R275): the slot of its page is taken, the update applied, and the waits held at a vault are
tested. The core's lines of the object are treated as by an atomic (R94). -/
def State.arriveTbar (s : State) (r : Req) (arrive expect : Nat) (page : Option PageSlot) : State :=
  let s0 : State := { s with reqs := s.reqs.filter (fun x => x.id != r.id) }
  let trap := fun (s : State) (t : Trap) =>
    match s.findStrand r.who with
    | some idx => (match s.strands[idx]? with | some st => s.takeTrap idx t st.pc 0 | none => s)
    | none => s
  match s0.takeSlot page with
  | none =>
    (match page with
    | some q => let f := capacityFault q; trap s0 ⟨f.cls, f.detail, none, 0, r.virtual, f.walkent⟩
    | none => s0)
  | some s1 =>
    let (s2, phase, applied) := s1.tbarApply r.addr arrive expect
    if !applied then trap s2 (Trap.plain 0x24 0)
    else
      let s3 := s2.l1Effect r
      let s4 := s3.modWho r.who (fun st =>
        (match st.waiting with
          | some (.tbarArrive _ d _ _ _) => st.setW d.toNat (BitVec.ofNat 32 phase)
          | _ => st).endWait s3.cycle)
      s4.testVaultWaits r.addr

/-- An access that waits for its home performed there, of whatever kind. -/
def State.carry (s : State) (r : Req) : State :=
  match r.access with
  | .arm wide cond val => s.arriveArm r wide cond val
  | .tbar arrive expect page => s.arriveTbar r arrive expect page
  | _ => s.perform r

/-- The accesses on their way to the bytes of a page are performed before the page moves (R63, R67): none is left to reach its old place. -/
def State.settlePage (s : State) (a : Nat) : State :=
  (s.reqs.filter (fun (r : Req) => decide (a ≤ r.addr) && decide (r.addr < a + Config.pageSize))).foldl State.carry s

end Sys2Proof.Machine
end

