-- ==== Sys2Proof/Machine/KeyTable.lean ====
section
/-! DEFINITION. The key table of ordered sections (R86, R418 to R428): entries, requests, grants, leaves, withdrawals and stalls. -/

namespace Sys2Proof.Machine

open Sys2Proof

/-! ### Entries (R86, R419, R420) -/

/-- The slice and set of a key (R86). -/
def keySlot (ctx : BitVec 12) (k : W64) : Nat × Nat :=
  let h0 := lo32 k ^^^ (hi32 k).rotateLeft 16 ^^^ ctx.setWidth 32
  let h1 := (h0 ^^^ (h0 >>> 16)) * 0x7A3DE4A5
  let h := h1 ^^^ (h1 >>> 15)
  (field h 3 0, field h 12 4)

/-- The entry of a context and key. -/
def State.keyEntry (s : State) (ctx : BitVec 12) (k : W64) : Option KeyEntry := s.keys.find? (fun e => e.ctx == ctx && e.key == k)

/-- The stored requests of an entry. -/
def State.keyStored (s : State) (ctx : BitVec 12) (k : W64) : List KeyReq := s.keyReqs.filter (fun r => r.ctx == ctx && r.key == k)

/-- IDLE now (R419): it counts on while requests are stored and nothing is held, and saturates. -/
def State.keyIdle (s : State) (e : KeyEntry) : Nat :=
  min (2 ^ 22 - 1)
    (if e.holder.isNone && !(s.keyStored e.ctx e.key).isEmpty then e.idle + (s.cycle - e.idleAt) else e.idle)

/-- An entry replaced. -/
def State.setKey (s : State) (e : KeyEntry) : State :=
  { s with keys := s.keys.map (fun x => if x.ctx == e.ctx && x.key == e.key then e else x) }

/-- USED of a context's OSCTL (R420). -/
def State.countKeys (s : State) (ctx : BitVec 12) : State :=
  match s.slotOf ctx with
  | some k => s.setRegField (.osctl k) 16 0 ((s.keys.filter (fun e => e.ctx == ctx)).length)
  | none => s

/-- An entry with no holder, no stored request and NEXT = 0 is free (R419, R423). -/
def State.keySettle (s : State) (ctx : BitVec 12) (k : W64) : State :=
  match s.keyEntry ctx k with
  | some e =>
    if e.holder.isNone && e.next == 0 && (s.keyStored ctx k).isEmpty then
      { s with keys := s.keys.filter (fun x => !(x.ctx == ctx && x.key == k)) }.countKeys ctx
    else s
  | none => s

/-- The strand is frozen, or its gang is not resident: a grant to it is kept at the entry (R428). -/
def State.grantHeld (s : State) (w : Who) : Bool :=
  match s.strands.find? (fun st => st.who == w) with
  | some st => st.state == .frozen
  | none => true

/-- The test of an entry after an update (R422): a stored request of sequence NEXT is granted when the section is free. -/
def State.keyTest (s : State) (ctx : BitVec 12) (k : W64) : State :=
  match s.keyEntry ctx k with
  | some e =>
    if e.holder.isSome then s
    else
      match (s.keyStored ctx k).find? (fun r => r.seq == e.next) with
      | some r =>
        let s1 := { s with keyReqs := s.keyReqs.filter (fun x => !(x.ctx == ctx && x.key == k && x.seq == r.seq)) }
        let held := s.grantHeld r.who
        let s2 := s1.setKey { e with holder := some (r.who, r.lane), fired := held, idle := 0, idleAt := s.cycle }
        if held then s2 else { s2 with keyGrants := s2.keyGrants ++ [⟨r.who, r.lane, k, r.seq⟩] }
      | none => s
  | none => s

/-- An update of an entry (R422): IDLE is brought up to date first, and the entry is tested and settled after. -/
def State.keyUpdate (s : State) (ctx : BitVec 12) (k : W64) (f : State → State) : State :=
  let s1 := match s.keyEntry ctx k with
    | some e => s.setKey { e with idle := s.keyIdle e, idleAt := s.cycle }
    | none => s
  ((f s1).keyTest ctx k).keySettle ctx k

/-! ### What a strand holds (R279, R422) -/

/-- The lane holds the section with the sequence, and no leave of it is on its way. -/
def State.holds (s : State) (w : Who) (lane : Nat) (k : W64) (seq : BitVec 31) : Bool :=
  (match s.keyEntry w.ctx k with
    | some e => e.holder == some (w, lane) && e.next == seq
    | none => false)
    && !s.keyMsgs.any (fun m => m.who == w && m.lane == lane && m.key == k && m.seq == seq && m.op != .request && m.op != .withdraw)

/-- The lane and key of every section that a strand holds. -/
def State.holdings (s : State) (w : Who) : List (Nat × W64) :=
  s.keys.filterMap (fun e =>
    match e.holder with
    | some (v, l) => if v == w && s.holds w l e.key e.next then some (l, e.key) else none
    | none => none)

/-- sr.status.SEC (R422). -/
def State.statusSec (s : State) (w : Who) : Bool := !(s.holdings w).isEmpty

/-- sr.status.REQ (R422): a request of the strand is stored, or on its way. -/
def State.statusReq (s : State) (w : Who) : Bool :=
  s.keyReqs.any (fun r => r.who == w) || s.keyMsgs.any (fun m => m.who == w && m.op == .request)

/-- The key of the section that the lowest-numbered holding lane holds (R426). -/
def State.heldKey (s : State) (w : Who) : W64 :=
  match (s.holdings w).foldl (fun (b : Option (Nat × W64)) h =>
      match b with | some x => if h.1 < x.1 then some h else some x | none => some h) none with
  | some h => h.2
  | none => 0

/-- The lane of the strand that holds the key's section, no leave of it being on its way, or has a request stored for it (R279). -/
def State.keyLane (s : State) (w : Who) (k : W64) : Option Nat :=
  match s.keyEntry w.ctx k with
  | none => none
  | some e =>
    match e.holder with
    | some (v, l) => if v == w && s.holds w l k e.next then some l else ((s.keyStored w.ctx k).find? (fun r => r.who == w)).map (·.lane)
    | none => ((s.keyStored w.ctx k).find? (fun r => r.who == w)).map (·.lane)

/-! ### The end of an `osenter` -/

/-- The strand has messages on their way. -/
def State.keyBusy (s : State) (w : Who) : Bool := s.keyMsgs.any (fun m => m.who == w)

/-- Every `exit` parked for stored requests whose strand has none any more issues again (R251). -/
def State.wakeExits (s : State) : State :=
  (s.strandsWhere (fun st => st.park == some .exit && !s.statusReq st.who)).foldl
    (fun s i => s.modStrand i (fun st => st.reissueWait s.cycle)) s

/-- Withdrawals sent for every stored request of a strand (R426). -/
def State.sendWithdrawals (s : State) (w : Who) : State :=
  { s with
    keyMsgs := s.keyMsgs ++ (s.keyReqs.filter (fun r => r.who == w)).map (fun r => ⟨.withdraw, r.ctx, r.key, r.seq, w, r.lane, 0⟩)
    keyRetries := s.keyRetries.filter (fun m => m.who != w) }

/-- The mask of the lanes in a state. -/
def entryMask (l : List SectionLane) (p : LaneEntry → Bool) : Word := buildMask (fun i => l.any (fun x => x.lane == i && p x.state))

/-- The fault of an `osenter` of which lanes were refused (R426). -/
def sectionTrap (l : List SectionLane) (granted : Word) : Option Trap :=
  let refused := fun (x : LaneEntry) => match x with | .refused .. => true | _ => false
  let low := (l.filter (fun x => refused x.state)).foldl (fun (b : Option SectionLane) x =>
    match b with | some y => if x.lane < y.lane then some x else some y | none => some x) none
  match low with
  | some x =>
    match x.state with
    | .refused cls detail => some ⟨cls, detail, some (entryMask l refused), granted, x.key, 0⟩
    | _ => none
  | none => none

/-- The lanes of an `osenter` that hold their sections. -/
def State.grantedMask (s : State) (st : Strand) : Word :=
  buildMask (fun i => st.entering.any (fun x => x.lane == i && s.holds st.who i x.key x.seq))

/-- The mask that an `osenter.any` writes. -/
def anyMask : Option Instr → Option Nat
  | some (.osenterAny _ m _ _) => some m.toNat
  | _ => none

/-- A strand in `osenter` is looked at once every answer it awaits is in (R279, R426): refused lanes fault, `osenter` ends when every
lane is granted, and `osenter.any` when one is. -/
def State.sectionSettle (s : State) (idx : Nat) : State :=
  match s.strands[idx]? with
  | none => s
  | some st =>
    let parked := st.park == some .osenter || st.park == some .osenterAny
    if !parked || s.keyBusy st.who then s
    else
      let granted := s.grantedMask st
      match sectionTrap st.entering granted with
      | some t =>
        let prior := match st.waiting with | some i => st.priorDone i | none => 0
        let s1 := s.sendWithdrawals st.who
        if st.state == .frozen then
          s1.modStrand idx (fun x => { (x.reissueWait s.cycle) with owed := some { t with done := t.done }, entering := [] })
        else (s1.modStrand idx (fun x => { x with entering := [] })).takeTrap idx { t with done := prior ||| t.done } st.pc 0
      | none =>
        let asked := st.entering.filter (fun x => x.state != .idle)
        let end_ := match anyMask st.waiting with
          | some _ => granted != 0
          | none => asked.all (fun x => granted.getLsbD x.lane)
        if end_ then
          let s1 := { s with keyRetries := s.keyRetries.filter (fun m => m.who != st.who) }
          s1.modStrand idx (fun x =>
            let y := match anyMask x.waiting with | some m => x.setM m granted | none => x
            { (y.endWait s.cycle) with entering := [] })
        else s

/-- The state of a lane in its strand's `osenter` recorded. -/
def State.noteLane (s : State) (w : Who) (lane : Nat) (k : W64) (x : LaneEntry) : State :=
  s.modWho w (fun st => { st with entering := st.entering.map (fun e => if e.lane == lane && e.key == k then { e with state := x } else e) })

/-- The strand's `osenter` looked at. -/
def State.settleWho (s : State) (w : Who) : State := match s.findStrand w with | some i => s.sectionSettle i | none => s

/-! ### Messages at the table (R421 to R423, R426) -/

/-- What the entry answers a request (R422). -/
inductive KeyAnswer where
  | granted | waiting | store
  | refuse (cls : BitVec 8) (detail : BitVec 16)
  deriving DecidableEq, Repr

/-- The answer of R422, before any space is sought. -/
def State.keyAnswer (s : State) (m : KeyMsg) : KeyAnswer :=
  match s.keyEntry m.ctx m.key with
  | none => .store
  | some e =>
    let stored := s.keyStored m.ctx m.key
    let me := fun (w : Who) (l : Nat) => w == m.who && l == m.lane
    let other := stored.any (fun r => r.seq == m.seq && !me r.who r.lane)
      || (match e.holder with | some (w, l) => e.next == m.seq && !me w l | none => false)
    let mine := match e.holder with | some (w, l) => me w l && e.next == m.seq | none => false
    let strand := stored.any (fun r => r.who == m.who) || (match e.holder with | some (w, _) => w == m.who | none => false)
    if other then .refuse 0x2A 4
    else if mine then .granted
    else if stored.any (fun r => me r.who r.lane && r.seq == m.seq) then .waiting
    else if strand then .refuse 0x2B 0
    else if m.seq.ult e.next then .refuse 0x2A 3
    else .store

/-- The lowest free way of a key-table set. -/
def State.keyWay (s : State) (slice set : Nat) : Option Nat :=
  (List.range 8).find? (fun w => !s.keys.any (fun e => e.slice == slice && e.set == set && e.way == w))

/-- Room for a request (R421): a record in the slice's store, and an entry, allocated where there is none. -/
def State.keyRoom (s : State) (ctx : BitVec 12) (k : W64) : Option State :=
  let (slice, set) := keySlot ctx k
  if 16384 ≤ (s.keyReqs.filter (fun r => r.slice == slice)).length then none
  else
    match s.keyEntry ctx k with
    | some _ => some s
    | none =>
      match s.keyWay slice set, s.slotOf ctx with
      | some w, some slot =>
        if field (s.reg (.osctl slot)) 16 0 < field (s.reg (.osctl slot)) 48 32 then
          some (({ s with keys := s.keys ++ [⟨slice, set, w, ctx, k, 0, none, false, 0, s.cycle⟩] } : State).countKeys ctx)
        else none
      | _, _ => none

/-- A request applied at the table (R421, R422). -/
def State.keyRequest (s : State) (m : KeyMsg) : State :=
  match s.keyAnswer m with
  | .granted => (s.noteLane m.who m.lane m.key .granted).settleWho m.who
  | .waiting => (s.noteLane m.who m.lane m.key .waiting).settleWho m.who
  | .refuse cls detail => (s.noteLane m.who m.lane m.key (.refused cls detail)).settleWho m.who
  | .store =>
    match s.keyRoom m.ctx m.key with
    | none =>
      let s1 := { s with
        records := { s.records with keyovf := bumpRec s.records.keyovf }
        keyRetries := s.keyRetries ++ [{ m with at_ := s.cycle + 1024 }] }
      s1.settleWho m.who
    | some s1 =>
      let s2 := s1.keyUpdate m.ctx m.key (fun s =>
        { s with keyReqs := s.keyReqs ++ [⟨(keySlot m.ctx m.key).1, m.ctx, m.key, m.seq, m.who, m.lane⟩] })
      (s2.noteLane m.who m.lane m.key .waiting).settleWho m.who

/-- A leave applied at the table (R423). -/
def State.keyLeave (s : State) (m : KeyMsg) (close : Bool) : State :=
  match s.keyEntry m.ctx m.key with
  | some e =>
    if e.holder == some (m.who, m.lane) && e.next == m.seq then
      s.keyUpdate m.ctx m.key (fun s =>
        match s.keyEntry m.ctx m.key with
        | some e => s.setKey { e with holder := none, fired := false, next := if close then 0 else m.seq + 1, idleAt := s.cycle }
        | none => s)
    else s
  | none => s

/-- A withdrawal applied at the table (R426): a grant applied before it stands. -/
def State.keyWithdraw (s : State) (m : KeyMsg) : State :=
  s.keyUpdate m.ctx m.key (fun s =>
    { s with keyReqs := s.keyReqs.filter (fun r => !(r.ctx == m.ctx && r.key == m.key && r.who == m.who && r.lane == m.lane && r.seq == m.seq)) })

/-- The messages of one strand about one key arrive in the order they were sent. -/
def State.keyMsgAt (s : State) (n : Nat) : Option KeyMsg :=
  match s.keyMsgs[n]? with
  | some m => if (s.keyMsgs.take n).any (fun x => x.who == m.who && x.key == m.key) then none else some m
  | none => none

/-- The message taken from those on their way. -/
def State.dropKeyMsg (s : State) (n : Nat) : State := { s with keyMsgs := s.keyMsgs.eraseIdx n }

/-- Key-table request: the `n`-th message on its way is a request, and reaches its entry (R422). -/
def execKeyTableRequest (n : Nat) (s : State) : Host.Outcome State Fault Refusal :=
  match s.keyMsgAt n with
  | some m => if m.op == .request then .next ((s.dropKeyMsg n).keyRequest m).wakeExits else .next s
  | none => .next s

/-- Key-table leave: the `n`-th message on its way is a leave, and reaches its entry (R423). -/
def execKeyTableLeave (n : Nat) (s : State) : Host.Outcome State Fault Refusal :=
  match s.keyMsgAt n with
  | some m => match m.op with | .leave close => .next ((s.dropKeyMsg n).keyLeave m close) | _ => .next s
  | none => .next s

/-- Key-table withdrawal: the `n`-th message on its way is a withdrawal, and reaches its entry (R426). -/
def execKeyTableWithdraw (n : Nat) (s : State) : Host.Outcome State Fault Refusal :=
  match s.keyMsgAt n with
  | some m => if m.op == .withdraw then .next ((s.dropKeyMsg n).keyWithdraw m).wakeExits else .next s
  | none => .next s

/-- Section grant delivery: the `n`-th grant on its way reaches the core of its lane (R422). A strand frozen meanwhile receives it at
resume (R428). -/
def execSectionGrantDelivery (n : Nat) (s : State) : Host.Outcome State Fault Refusal :=
  match s.keyGrants[n]? with
  | none => .next s
  | some g =>
    let s1 := { s with keyGrants := s.keyGrants.eraseIdx n }
    if s1.grantHeld g.who then
      match s1.keyEntry g.who.ctx g.key with
      | some e => .next (s1.setKey { e with fired := true })
      | none => .next s1
    else .next ((s1.noteLane g.who g.lane g.key .granted).settleWho g.who).wakeExits

/-- Key request retry: the `n`-th refused request is sent again, 1,024 cycles after its refusal (R421). -/
def execKeyRequestRetry (n : Nat) (s : State) : Host.Outcome State Fault Refusal :=
  match s.keyRetries[n]? with
  | none => .next s
  | some m =>
    .next { s with
      cycle := max s.cycle m.at_
      keyRetries := s.keyRetries.eraseIdx n
      keyMsgs := s.keyMsgs ++ [{ m with at_ := 0 }] }

/-- The requesters of a stalled entry: each strand takes the fault with detail 5 when it next issues, at once when it waits in
`osenter` (R425). -/
def State.stallWho (s : State) (w : Who) (k : W64) (lanes : Word) : State :=
  match s.findStrand w with
  | none => s
  | some i =>
    match s.strands[i]? with
    | none => s
    | some st =>
      if st.entering.any (fun x => x.key == k) then
        let s1 := s.modStrand i (fun x => { x with entering := x.entering.map (fun e =>
          if e.key == k && lanes.getLsbD e.lane then { e with state := .refused 0x2A 5 } else e) })
        s1.sectionSettle i
      else s.modStrand i (fun x => { x with owed := some ⟨0x2A, 5, some lanes, 0, k, 0⟩ })

/-- Key entry stall (R425): IDLE has reached STALLT × 1,024 with requests stored and nothing held. -/
def execKeyEntryStall (ctx : BitVec 12) (key : W64) (s : State) : Host.Outcome State Fault Refusal :=
  match s.keyEntry ctx key, s.slotOf ctx with
  | some e, some slot =>
    let t := field (s.reg (.osctl slot)) 61 50
    let stored := s.keyStored ctx key
    if t == 0 || e.holder.isSome || stored.isEmpty then .next s
    else
      let s0 := { s with cycle := max s.cycle (e.idleAt + (t * 1024 - e.idle)) }
      let s1 := s0.keyUpdate ctx key (fun s =>
        { s with keyReqs := s.keyReqs.filter (fun r => !(r.ctx == ctx && r.key == key)) })
      let s2 := s1.setRegField (.osctl slot) 63 63 1
      let whos := stored.foldl (fun l r => if l.contains r.who then l else l ++ [r.who]) ([] : List Who)
      .next ((whos.foldl (fun s w =>
        s.stallWho w key (buildMask (fun i => stored.any (fun r => r.who == w && r.lane == i)))) s2).wakeExits)
  | _, _ => .next s

/-- OSCTL write (R420): refused with ERR for a LIMIT above 65,536 or below USED, a non-zero LIMIT of a slot not enabled, or a
reserved bit. STALLEV and ERR are cleared by writing one. -/
def execOsctlWrite (slot : Slot) (v : W64) (s : State) : Host.Outcome State Fault Refusal :=
  let r := s.reg (.osctl slot)
  let lim := field v 48 32
  let bad := decide (65536 < lim) || decide (lim < field r 16 0)
    || (lim != 0 && !(s.reg (.trbase slot)).getLsbD 63) || field v 49 49 != 0 || field v 31 17 != 0
  if bad then .next (s.setReg (.osctl slot) (setField r 62 62 1))
  else
    let ev := if v.getLsbD 63 then 0 else field r 63 63
    let er := if v.getLsbD 62 then 0 else field r 62 62
    .next (s.setReg (.osctl slot)
      (BitVec.ofNat 64 (ev * 2 ^ 63 + er * 2 ^ 62 + field v 61 50 * 2 ^ 50 + lim * 2 ^ 32 + field r 16 0)))

end Sys2Proof.Machine
end

