-- ==== Sys2Proof/Machine/Rounds.lean ====
section
/-! DEFINITION. Invalidation rounds (R45 to R49), the root registers (R40), and the frame tables with their sweeper and ready queues
(R50 to R55). -/

namespace Sys2Proof.Machine

open Sys2Proof

/-! ### What a round covers (R45) -/

/-- The granules from `vpn` on, `n` of them, meet a round's range. -/
def roundCovers (kind : BitVec 2) (ctx : BitVec 12) (vpn : BitVec 41) (count : Nat) (c : BitVec 12) (v n : Nat) : Bool :=
  match kind.toNat with
  | 0 => c == ctx && overlaps v n vpn.toNat count
  | 1 => c == ctx
  | _ => true

/-- The round covers the granules of a context. -/
def Round.covers (r : Round) (c : BitVec 12) (v n : Nat) : Bool := roundCovers r.kind r.ctx r.vpn r.count c v n

/-- The first-level copies of the covered pages removed (R47). -/
def State.dropLines (s : State) (d : Die) (cov : BitVec 12 → Nat → Nat → Bool) : State :=
  (s.l1Drop (fun c x v => c.die == d && cov x (v.toNat / 512) 1)).icDrop (fun e _ x v => e == d && cov x (v.toNat / 512) 1)

/-- The entries of an agent that a predicate over context and granules matches are removed: TLBs, walk cache, L1s with their victim
tags, and instruction/constant caches (R47). -/
def State.dropCovered (s : State) (d : Die) (cov : BitVec 12 → Nat → Nat → Bool) : State :=
  let tlb := fun (e : TlbEntry) => cov e.ctx (e.vpn.toNat * 65536 / 2 ^ levelShift e.level * 2 ^ (levelShift e.level - 16))
    (2 ^ (levelShift e.level - 16))
  let walk := fun (e : WalkEntry) => cov e.ctx (e.pre * 2 ^ (levelShift e.level - 16)) (2 ^ (levelShift e.level - 16))
  let s1 := { s with
    coreTlb := s.coreTlb.filter (fun (e : CoreId × TlbEntry) => !(e.1.die == d && tlb e.2))
    quadTlb := s.quadTlb.filter (fun (e : Die × Quad × TlbEntry) => !(e.1 == d && tlb e.2.2))
    walkCache := s.walkCache.filter (fun (e : Die × WalkEntry) => !(e.1 == d && walk e.2)) }
  s1.dropLines d cov

/-- A pending access that used a translation of the covered pages: on a translated path, from a core of the die. -/
def Req.covered (r : Req) (d : Die) (cov : BitVec 12 → Nat → Nat → Bool) : Bool :=
  r.core.die == d && (r.path == 0 || r.path == 1 || r.path == 4) && cov r.ctx (r.vline.toNat / 512) 1

/-- Every segment of a HALO packet is translated and checked, or done: its bytes may move (R116). -/
def Channel.checkedAll (c : Channel) : Bool := c.segs.all (fun y => match y.state with | .checked _ => true | .done => true | _ => false)

/-- A segment of a copy packet without the places that its translations gave: it is translated again when it moves (R44). -/
def CopySeg.forget (x : CopySeg) : CopySeg := { x with src := none, dest := none }

/-- The copy engines translate anew what they have translated to an unbacked page (R47). -/
def State.forgetPage (s : State) (ctx : BitVec 12) (vpn : BitVec 41) : State :=
  let on := fun (y : Option Place) => match y with | some (.page q _) => q.ctx == ctx && q.vpn == vpn | _ => false
  { s with channels := s.channels.map (fun c => { c with segs := c.segs.map (fun x => if on x.src || on x.dest then x.forget else x) }) }

/-- The package's own round, run whole within one step: the accesses that used the translations are performed, and every agent's
entries go (R47). -/
def State.roundNow (s : State) (ctx : BitVec 12) (vpn : BitVec 41) : State :=
  let cov := roundCovers 0 ctx vpn 1
  ([(0 : Die), 1, 2, 3].foldl (fun s d =>
    ((s.reqs.filter (fun r => r.covered d cov)).foldl State.carry s).dropCovered d cov) s).forgetPage ctx vpn

/-! ### Rounds in flight (R46 to R49) -/

/-- The round was started in this package (R49). -/
def Round.own (r : Round) : Bool := match r.by_ with | .peer .. => false | _ => true

/-- The valid dies of the package. -/
def State.validDies (s : State) : List Die := [(0 : Die), 1, 2, 3].filter s.dieValid

/-- The other packages that are live (R48, R455): V of their ZROUTE entry is set. -/
def State.livePeers (s : State) : List (BitVec 9) :=
  ((List.range 512).map (BitVec.ofNat 9)).filter (fun p => p.toNat != s.package && (s.reg (.zroute p)).getLsbD 31)

/-- The fields of a round as a KIND 7 packet's payload (R455; log entry 6): KIND in bits [1:0], CTX in [13:2], VPN in [54:14],
COUNT in [75:55] and SCOPE in [76]. -/
def roundPayload (kind : BitVec 2) (ctx : BitVec 12) (vpn : BitVec 41) (count : Nat) : List Byte :=
  leBytes 32 (kind.toNat + ctx.toNat * 4 + vpn.toNat * 2 ^ 14 + count % 2 ^ 21 * 2 ^ 55)

/-- A round started (R46): under `.pod`, a packet goes to every other live package. -/
def State.startRound (s : State) (by_ : RoundBy) (kind : BitVec 2) (ctx : BitVec 12) (vpn : BitVec 41) (count : Nat) (pod : Bool) : State :=
  let id := s.nextId
  let peers := if pod then s.livePeers else []
  let s1 := peers.foldl (fun s p =>
    s.send { ctx := 0xFFF, kind := 7, dst := p, tag := BitVec.ofNat 16 id } (roundPayload kind ctx vpn count)) s
  { s1 with
    nextId := id + 1
    rounds := s1.rounds ++ [⟨id, by_, kind, ctx, vpn, count, pod, [], [], [], peers.map (fun p => (p, BitVec.ofNat 16 id))⟩] }

/-- Rounds of the package's own in flight. -/
def State.ownRounds (s : State) : Nat := (s.rounds.filter Round.own).length

/-- A round changed. -/
def State.modRound (s : State) (id : Nat) (f : Round → Round) : State :=
  { s with rounds := s.rounds.map (fun r => if r.id == id then f r else r) }

/-- The round has all its acknowledgements (R48). -/
def State.roundFull (s : State) (r : Round) : Bool := decide (s.validDies.length + 1 ≤ r.counted.length) && r.peers.isEmpty

/-- A round completes (R48): its `tlbinv` retires, UINVA reports it, or the peer that asked for it is answered; the strands that wait
for room go on (R49). -/
def State.roundDone (s : State) (r : Round) : State :=
  let s1 : State := { s with rounds := s.rounds.filter (fun x => x.id != r.id) }
  let s2 : State := match r.by_ with
    | .strand w => s1.modWho w (fun (st : Strand) => if st.park == some Park.round then st.endWait s.cycle else st)
    | .host => s1.setReg .uinva (setField (setField (s1.reg .uinva) 63 63 0) 46 46 1)
    | .device => s1
    | .peer pkg tag => s1.send { ctx := 0xFFF, kind := 8, dst := pkg, tag := tag } (List.replicate 32 0)
  { s2 with strands := s2.strands.map (fun (st : Strand) =>
      if st.park == some Park.round && st.waiting == none then st.wake s.cycle else st) }

/-- A round looked at after an acknowledgement. -/
def State.checkRound (s : State) (id : Nat) : State :=
  match s.rounds.find? (fun r => r.id == id) with
  | some r => if s.roundFull r then s.roundDone r else s
  | none => s

/-- The agent takes part in rounds (R47). -/
def State.isAgent (s : State) (a : Agent) : Bool := match a with | .die d => s.dieValid d | .cacheDie => true

/-- Rounds received from peers run in order of arrival. Of the package's own at most 16 are in flight: a round of the host beyond them waits for one
to complete (R49; DESIGN CHOICE for the host, log entry 61). -/
def State.roundMayRun (s : State) (r : Round) : Bool :=
  if r.own then ((s.rounds.filter Round.own).take 16).any (fun x => x.id == r.id)
  else match s.rounds.find? (fun x => !x.own) with | some x => x.id == r.id | none => false

/-- The round covers pages of a context. -/
def Round.touches (r : Round) (c : BitVec 12) : Bool := r.kind.toNat == 2 || r.ctx == c

/-- The segments of a HALO packet that are checked while others are not are translated and checked again (R47, R116). -/
def Channel.recheck (c : Channel) : Channel :=
  if c.checkedAll then c
  else { c with segs := c.segs.map (fun x => match x.state with | .checked _ => { x.forget with state := .todo } | _ => x) }

/-- A die's copy engine drops the translations that it has made ahead for the covered contexts (R47). -/
def State.recheckHalos (s : State) (d : Die) (r : Round) : State :=
  { s with channels := s.channels.map (fun c => if c.die == d && r.touches c.ctx then c.recheck else c) }

/-- Invalidation round receive (R47): the agent drops its entries of the covered pages. -/
def execInvalidationRoundReceive (round : Nat) (agent : Agent) (s : State) : Host.Outcome State Fault Refusal :=
  match s.rounds.find? (fun r => r.id == round) with
  | some r =>
    if !s.isAgent agent || r.received.any (fun x => x.1 == agent) || !s.roundMayRun r then .next s
    else
      let s1 := match agent with | .die d => (s.dropCovered d r.covers).recheckHalos d r | .cacheDie => s
      .next (s1.modRound round (fun x => { x with received := x.received ++ [(agent, s.nextId)] }))
  | none => .next s

/-- The agent's accesses are made with a die's translations. -/
def AgentKey.onDie (k : AgentKey) (d : Die) : Bool :=
  match k with
  | .channel e _ | .halt e _ | .copyQueue e _ => e == d
  | .launchQueue _ | .launch _ => true

/-- The channel moves a HALO packet that is translated ahead and checked (R116). -/
def Channel.moving (c : Channel) : Bool :=
  c.checkedAll && c.code == 0 && c.segs.any (fun y => match y.state with | .checked _ => true | _ => false)

/-- The accesses of a die that used a covered translation before the round came have been performed (R47): those on their way in the package,
those outstanding to peers, of strands, of the die's copy engine and of agents, and the bytes of a HALO packet that is under way. -/
def State.roundQuiet (s : State) (r : Round) (d : Die) (mark : Nat) : Bool :=
  !s.reqs.any (fun q => decide (q.id < mark) && q.covered d r.covers)
    && !s.peerReqs.any (fun p =>
      match p.who, p.engine, p.agent with
      | some w, _, _ => (match s.strands.find? (fun st => st.who == w) with
        | some st => st.core.die == d && r.covers w.ctx (field p.va 56 16) 1
        | none => false)
      | none, some (id, _, _), _ => s.channels.any (fun c => c.id == id && c.die == d && r.touches c.ctx)
      | none, none, some k => k.onDie d
      | none, none, none => false)
    && !s.channels.any (fun c => c.die == d && r.touches c.ctx && c.moving)

/-- Round agent acknowledge (R47): once only, when every access that used a covered translation has been performed; the copies that those
accesses filled after the round came go too. -/
def execRoundAgentAcknowledge (round : Nat) (agent : Agent) (s : State) : Host.Outcome State Fault Refusal :=
  match s.rounds.find? (fun r => r.id == round) with
  | some r =>
    match r.received.find? (fun x => x.1 == agent) with
    | some (_, mark) =>
      let quiet := match agent with | .die d => s.roundQuiet r d mark | .cacheDie => true
      if r.acked.contains agent || !quiet then .next s
      else
        let s1 := match agent with | .die d => s.dropLines d r.covers | .cacheDie => s
        .next (s1.modRound round (fun x => { x with acked := x.acked ++ [agent] }))
    | none => .next s
  | none => .next s

/-- Round acknowledgement receive (R48): the initiator counts it, and the round completes when its count is met. -/
def execRoundAckReceive (round : Nat) (agent : Agent) (s : State) : Host.Outcome State Fault Refusal :=
  match s.rounds.find? (fun r => r.id == round) with
  | some r =>
    if r.acked.contains agent && !r.counted.contains agent then
      .next ((s.modRound round (fun x => { x with counted := x.counted ++ [agent] })).checkRound round)
    else .next s
  | none => .next s

/-! ### Translation roots (R40) -/

/-- Gangs of a context slot are resident. -/
def State.slotBusy (s : State) (k : Slot) : Bool := s.gangs.any (fun g => g.ctxSlot == k)

/-- TRBASE write (R40). -/
def execTrbaseWrite (k : Slot) (v : W64) (s : State) : Host.Outcome State Fault Refusal :=
  let old := s.reg (.trbase k)
  let root := field v 36 21 * 0x200000
  let sets := v.getLsbD 63
  let bad := (old.getLsbD 63 && s.slotBusy k)
    || (sets && (!s.dieValid (BitVec.ofNat 2 (field v 38 37)) || decide (Config.populated < root + 0x200000)))
    || (sets && (field v 59 48 == 0xFFF
      || ((List.range 16).map (BitVec.ofNat 4)).any (fun j =>
        j != k && (s.reg (.trbase j)).getLsbD 63 && field (s.reg (.trbase j)) 59 48 == field v 59 48)))
    || field v 61 60 != 0 || field v 47 39 != 0 || field v 20 0 != 0
  if bad then .next (s.setReg (.trbase k) (setField old 62 62 1))
  else .next (s.setReg (.trbase k) (setField v 62 62 (if v.getLsbD 62 then 0 else field old 62 62)))

/-! ### Ready queues and the sweeper (R50 to R55) -/

/-- The count of a ready queue (R52). -/
def State.readyCount (s : State) (d : Die) : Nat :=
  (field (s.reg (.rqptr d)) 31 0 + 2 ^ 32 - field (s.reg (.rqptr d)) 63 32) % 2 ^ 32

/-- The address of a ring entry of a ready queue. -/
def State.readyEntry (s : State) (d : Die) (n : Nat) : Nat :=
  let r := s.reg (.rqbase d)
  Config.devAddr d (field r 36 12 * 4096 + n % 2 ^ (field r 3 0 + 10) * 4)

/-- A pop of a ready queue (R55): an empty queue sets EMPTYEV; a count that falls below LOW sets LOWEV (R54). -/
def State.popReady (s : State) (d : Die) : State × Option Nat :=
  if s.readyCount d == 0 then (s.setRegField (.swctl d) 62 62 1, none)
  else
    let h := field (s.reg (.rqptr d)) 63 32
    let (s1, fr) := s.homeNat (s.readyEntry d h) 4
    let s2 := s1.setRegField (.rqptr d) 63 32 (h + 1)
    let low := field (s.reg (.swctl d)) 31 16
    let s3 := if low ≤ s.readyCount d ∧ s.readyCount d - 1 < low then s2.setRegField (.swctl d) 63 63 1 else s2
    (s3, some (fr % 2 ^ 21))

/-- The frames of a die (R50). -/
def framesPerDie : Nat := 1572864

/-- Sweeper examine (R54): the frame at the hand is aged, or zeroed and pushed, and the hand moves on. The zeros overwrite the lines that the L2
holds and allocate none; a frame whose entry has changed is passed over (R51). -/
def execSweeperExamine (die : Die) (s : State) : Host.Outcome State Fault Refusal :=
  if !(s.reg (.swctl die)).getLsbD 0 then .next s
  else
    let hand := s.hands.get 0 die.toNat
    let a := s.frameEntry die hand
    let (s1, e0) := s.homeNat a 8
    let e := BitVec.ofNat 64 e0
    let s2 :=
      if field e 47 45 == 2 then
        let e1 := if e.getLsbD 48 then setField (setField e 48 48 0) 51 49 0 else setField e 51 49 (min 7 (field e 51 49 + 1))
        (s1.homeCas a 8 e0 e1.toNat).1
      else if field e 47 45 == 0 && decide (s1.readyCount die < field (s1.reg (.swctl die)) 47 32) then
        let fr := Config.devAddr die (hand * 65536)
        let s2 := s1.combineRange fr 65536
        let s3 := (({ s2 with mem := s2.mem.zero fr 65536 }.soil fr 65536).scaleWrite fr 65536).evalMonitors fr 65536
        let (s4, was) := s3.homeCas a 8 e0 (setField (setField e 47 45 1) 63 52 0xFFF).toNat
        let t := field (s4.reg (.rqptr die)) 31 0
        if was == e0 then (s4.homePut (s4.readyEntry die t) 4 hand).setRegField (.rqptr die) 31 0 (t + 1) else s4
      else s1
    .next { s2 with hands := s2.hands.set die.toNat ((hand + 1) % framesPerDie) }

/-- SWCTL write (R53). -/
def execSwctlWrite (die : Die) (v : W64) (s : State) : Host.Outcome State Fault Refusal :=
  let old := s.reg (.swctl die)
  let rq := s.reg (.rqbase die)
  let logn := field rq 3 0
  let same := field v 47 8 == field old 47 8 && field v 0 0 == field old 0 0
  let running := old.getLsbD 0 && v.getLsbD 0 && !same
  let sets := v.getLsbD 0 && !old.getLsbD 0
  let bad := field v 60 48 != 0 || field v 7 1 != 0 || running
    || (sets && (field v 15 8 == 0 || decide (field v 47 32 ≤ field v 31 16) || decide (2 ^ (logn + 10) < field v 47 32)
      || decide (6 < logn) || decide (Config.populated < field rq 36 12 * 4096 + 4 * 2 ^ (logn + 10))
      || decide (Config.populated < field (s.reg (.ftbase die)) 36 16 * 65536 + 8 * framesPerDie)))
  if bad then .next (s.setReg (.swctl die) (setField old 61 61 1))
  else
    let w1c := fun (k : Nat) => if v.getLsbD k then 0 else field old k k
    .next (s.setReg (.swctl die) (setField (setField (setField v 63 63 (w1c 63)) 62 62 (w1c 62)) 61 61 (w1c 61)))

/-- Ready queue register write (R53): RQPTR when `ptr`, RQBASE otherwise; refused while the sweeper runs. A count that falls below LOW sets LOWEV
(R54). -/
def execReadyQueueRegisterWrite (ptr : Bool) (die : Die) (v : W64) (s : State) : Host.Outcome State Fault Refusal :=
  let bad := (s.reg (.swctl die)).getLsbD 0 || (!ptr && (field v 63 37 != 0 || field v 11 4 != 0))
  if bad then .next (s.setRegField (.swctl die) 61 61 1)
  else
    let s1 := s.setReg (if ptr then .rqptr die else .rqbase die) v
    let low := field (s.reg (.swctl die)) 31 16
    .next (if ptr && decide (low ≤ s.readyCount die) && decide (s1.readyCount die < low) then s1.setRegField (.swctl die) 63 63 1 else s1)

end Sys2Proof.Machine
end

