-- ==== Sys2Proof/Machine/Unbacked.lean ====
section
/-! DEFINITION. The unbacked partition and its reservations (R59, R60), late frame assignment (R63 to R65), discard and migration
(R66, R67). -/

namespace Sys2Proof.Machine

open Sys2Proof

/-- The slots of a context in a quarter. -/
def State.slotsOf (s : State) (d : Die) (ctx : BitVec 12) : List PageSlot := s.slots.filter (fun p => p.die == d && p.ctx == ctx)

/-- The sum of LIMIT over the reservations of a quarter, with one slot's left out (R60). -/
def State.limitSum (s : State) (d : Die) (but : Option Slot) : Nat :=
  ((List.range 16).map (BitVec.ofNat 4)).foldl (fun n k => if but == some k then n else n + field (s.reg (.ubrsv d k)) 27 16) 0

/-! ### Monitors of a page that moves -/

/-- An entry that a full set cannot take counts as a refusal: its core arms again after 1,024 cycles (R80). -/
def State.armRefused (s : State) (m : Monitor) : State :=
  let s1 : State := { s with records := { s.records with monovf := bumpRec s.records.monovf } }
  if m.pkg.toNat == s.package then s1.modWho m.who (fun st => if st.awaitsWake then st.refuseArm s.cycle else st) else s1

/-- The monitors on a page follow it to where it goes (R63, R67); one that finds its set full arms again as after an overflow (R80). -/
def State.moveMonitors (s : State) (from_ dst n : Nat) : State :=
  let moved := s.monitors.filter (fun m => decide (from_ ≤ m.addr) && decide (m.addr < from_ + n))
  moved.foldl (fun s m =>
    let a := m.addr - from_ + dst
    let s1 : State := { s with monitors := s.monitors.filter (· != m) }
    let (slice, set0) := s1.homeSlot a
    match s1.monitorWay slice (set0 % 1024) with
    | some w => { s1 with monitors := s1.monitors ++ [{ m with addr := a, slice := slice, set := set0 % 1024, way := w }] }
    | none => s1.armRefused m) s

/-! ### Reservations (R60, R64) -/

/-- A shrink is done once USED = LIMIT (R64): BUSY clears, and the `ubres` that waits for it retires. -/
def State.shrinkDone (s : State) (d : Die) (k : Slot) : State :=
  let r := s.reg (.ubrsv d k)
  if r.getLsbD 30 && decide (field r 11 0 ≤ field r 27 16) then
    let ctx := BitVec.ofNat 12 (field (s.reg (.trbase k)) 59 48)
    let s1 := s.setRegField (.ubrsv d k) 30 30 0
    let s2 : State := { s1 with
      moves := s1.moves.filter (fun (m : PageMove) => !(m.shrink && m.die == d && m.ctx == ctx)) }
    { s2 with strands := s2.strands.map (fun (st : Strand) =>
        match st.park, st.waiting with
        | some .ubres, some (.ubres _ wd wa _) =>
          if field (st.wreg wa.toNat) 5 0 == d.toNat * 16 + k.toNat then (st.setW wd.toNat 0).endWait s2.cycle else st
        | _, _ => st) }
  else s

/-- The pages of a shrink, highest page number first. -/
def insertHigh (p : PageSlot) : List PageSlot → List PageSlot
  | [] => [p]
  | q :: qs => if q.vpn.ult p.vpn then p :: q :: qs else q :: insertHigh p qs

/-- LIMIT of a reservation written (R60, R64): none when the write is refused. -/
def State.setLimit (s : State) (d : Die) (k : Slot) (limit : Nat) : Option State :=
  let r := s.reg (.ubrsv d k)
  let tr := s.reg (.trbase k)
  if r.getLsbD 30 || decide (field (s.reg (.ubpart d)) 27 16 < s.limitSum d (some k) + limit)
      || (!tr.getLsbD 63 && limit != 0) then none
  else
    let s1 := s.setRegField (.ubrsv d k) 27 16 limit
    let used := field r 11 0
    if limit < used then
      let ctx := BitVec.ofNat 12 (field tr 59 48)
      let pages := ((s.slotsOf d ctx).foldl (fun l p => insertHigh p l) []).take (used - limit)
      some { s1.setRegField (.ubrsv d k) 30 30 1 with
        moves := s1.moves ++ pages.map (fun p => ⟨d, ctx, p.vpn, d, true⟩) }
    else some s1

/-- UBRSV write (R60): a reserved bit refuses it too (R4). -/
def execUbrsvWrite (die : Die) (k : Slot) (v : Word) (s : State) : Host.Outcome State Fault Refusal :=
  let reserved := field v 29 28 != 0 || field v 15 12 != 0
  match (if reserved then none else s.setLimit die k (field v 27 16)) with
  | none => .next (s.setRegField (.ubrsv die k) 31 31 1)
  | some s1 => .next (if v.getLsbD 31 then s1.setRegField (.ubrsv die k) 31 31 0 else s1)

/-- PAGES of a partition put in force, and FREE with it. -/
def State.setPages (s : State) (d : Die) (pages : Nat) : State :=
  let used := (s.slots.filter (fun p => p.die == d)).length
  (s.setRegField (.ubpart d) 27 16 pages).setRegField (.ubpart d) 11 0 (pages - used)

/-- UBPART write (R60): one that raises PAGES completes once the ways it takes are empty. -/
def execUbpartWrite (die : Die) (v : Word) (s : State) : Host.Outcome State Fault Refusal :=
  let pages := field v 27 16
  let bad := field v 30 28 != 0 || field v 15 12 != 0 || decide (3072 < pages) || decide (pages < s.limitSum die none)
  if bad then .next (s.setRegField (.ubpart die) 31 31 1)
  else
    let s1 := if v.getLsbD 31 then s.setRegField (.ubpart die) 31 31 0 else s
    let s2 : State := { s1 with resizes := s1.resizes.filter (fun (e : Die × Nat) => e.1 != die) }
    if pages ≤ field (s.reg (.ubpart die)) 27 16 then .next (s2.setPages die pages)
    else .next { s2 with resizes := (die, pages) :: s2.resizes }

/-- UBPART resize complete (R60): the ordinary lines of the ways taken are written back and go, unless one is still pinned. -/
def execUbpartResizeComplete (die : Die) (s : State) : Host.Outcome State Fault Refusal :=
  match s.resizes.find? (fun (e : Die × Nat) => e.1 == die) with
  | none => .next s
  | some (_, pages) =>
    let ways := (pages + 255) / 256
    let lines := s.l2.filter (fun (l : L2Line) => l.slice / 4 == s.phys die && decide (l.way < ways))
    if lines.any (fun l => decide (0 < l.pins)) then .next s
    else
      let s1 : State := lines.foldl State.l2Evict s
      .next (({ s1 with resizes := s1.resizes.filter (fun (e : Die × Nat) => e.1 != die) } : State).setPages die pages)

/-- UBSTAT write (R65, Table 3): WAIT is cleared by writing one; any write clears ORPHAN. A reserved bit refuses it (R4). -/
def execUbstatWrite (die : Die) (v : Word) (s : State) : Host.Outcome State Fault Refusal :=
  if field v 30 16 != 0 then .next (s.setRegField (.ubpart die) 31 31 1)
  else
    let r := s.reg (.ubstat die)
    .next (s.setReg (.ubstat die) (setField 0 31 31 (if v.getLsbD 31 then 0 else field r 31 31)))

/-! ### Late frame assignment (R63 to R65) -/

/-- The written lines of a page copied to an address. -/
def State.copyLines (s : State) (p : PageSlot) (a : Nat) : State :=
  ((List.range 512).filter (fun i => p.written.getLsbD i)).foldl (fun s i =>
    s.homeWrite (a + 128 * i) (s.mem.read (Config.pageAddr p.die p.ctx p.vpn + 128 * i) 128)) s

/-- Late frame assignment of a page from the ready queue of die `f` (R63): none while the queue is empty. WAIT is set for f, whose queue it is; an
orphan counts for the home d, whose page is dropped (R65; which die's UBSTAT counts it where the two differ is a DESIGN CHOICE, log entry 61). -/
def State.lateAssign (s0 : State) (p0 : PageSlot) (f : Die) : State × Bool :=
  let a := Config.pageAddr p0.die p0.ctx p0.vpn
  let s := s0.settlePage a
  let p := (s.slotAt p0.die p0.ctx p0.vpn).getD p0
  match s.popReady f with
  | (s1, none) => (s1.setRegField (.ubstat f) 31 31 1, false)
  | (s1, some fr) =>
    let dst := Config.devAddr f (fr * 65536)
    let s2 := s1.copyLines p dst
    let new := setField (setField (setField p.leaf 63 61 0) 60 59 f.toNat) 47 16 fr
    let (s3, old) := s2.homeCas (Config.devAddr p.leafDie p.leafOff.toNat) 8 p.leaf.toNat new.toNat
    if old == p.leaf.toNat then
      let fe := s3.frameEntry f fr
      let (s4, _) := s3.homeUpdate fe 8 (fun e =>
        (setField (setField (setField (BitVec.ofNat 64 e) 47 45 2) 63 52 p.ctx.toNat) 40 0 p.vpn.toNat).toNat)
      (((s4.roundNow p.ctx p.vpn).moveMonitors a dst Config.pageSize).dropSlot p, true)
    else
      let (s4, _) := s3.homeUpdate (s3.frameEntry f fr) 8 (fun e => (setField (BitVec.ofNat 64 e) 47 45 0).toNat)
      let n := field (s4.reg (.ubstat p.die)) 15 0
      ((s4.setRegField (.ubstat p.die) 15 0 (min 65535 (n + 1))).dropSlot p, true)

/-- The assignment may run now: those of a shrink go highest page number first, as they are listed (R64). -/
def State.moveDue (s : State) (m : PageMove) : Bool :=
  !m.shrink || s.moves.find? (fun (x : PageMove) => x.shrink && x.die == m.die && x.ctx == m.ctx) == some m

/-- Late frame assignment of a page that waits for one (R63, R64). -/
def execLateFrameAssignment (die : Die) (ctx : BitVec 12) (vpn : BitVec 41) (s : State) : Host.Outcome State Fault Refusal :=
  match s.moves.find? (fun m => m.die == die && m.ctx == ctx && m.vpn == vpn && s.moveDue m) with
  | none => .next s
  | some m =>
    let drop := fun (s : State) =>
      ({ s with moves := s.moves.filter (fun (x : PageMove) => !(x.die == die && x.ctx == ctx && x.vpn == vpn)) } : State)
    let after := fun (s : State) => match s.slotOf ctx with | some k => s.shrinkDone die k | none => s
    match s.slotAt die ctx vpn with
    | none => .next (after (drop s))
    | some p =>
      match s.lateAssign p m.target with
      | (s1, true) => .next (after (drop s1))
      | (s1, false) => .next s1

/-! ### Discard and migration (R66, R67) -/

/-- The lines of a context's pages removed from every L1 and instruction/constant cache. -/
def State.dropPageLines (s : State) (ctx : BitVec 12) (vpn : BitVec 41) : State :=
  (s.l1Drop (fun _ x v => x == ctx && v.toNat / 512 == vpn.toNat)).icDrop (fun _ _ x v => x == ctx && v.toNat / 512 == vpn.toNat)

/-- The pages of a context in a range discarded (R66). -/
def State.discardPages (s : State) (ctx : BitVec 12) (vpn n : Nat) : State :=
  (s.slots.filter (fun (p : PageSlot) => p.ctx == ctx && decide (vpn ≤ p.vpn.toNat) && decide (p.vpn.toNat < vpn + n))).foldl
    (fun s p =>
      let s1 := (s.freeSlot p).dropPageLines ctx p.vpn
      match s1.slotOf ctx with | some k => s1.shrinkDone p.die k | none => s1) s

/-- A page moved to the quarter of die `e` (R67, R262): the status, and the state after. The leaf is compared with the value that the
slot recorded, as in R63 (log entry 7). -/
def State.migrate (s : State) (ctx : BitVec 12) (slot : Slot) (va : Nat) (e : Word) : State × Word :=
  match s.rootOf slot ctx with
  | none => (s, 3)
  | some (rd, roff) =>
    match walk 0 ctx va 4 rd roff { s with walkCache := [] } with
    | (s1, .bad _) => ({ s1 with walkCache := s.walkCache }, 3)
    | (s1, .ok l) =>
      let s1 : State := { s1 with walkCache := s.walkCache }
      let d : Die := BitVec.ofNat 2 (field l.entry 60 59)
      let dst : Die := BitVec.ofNat 2 e.toNat
      let vpn : BitVec 41 := BitVec.ofNat 41 (va / 65536)
      if field l.entry 63 61 != 3 || field e 31 2 != 0 || !s1.dieValid dst || dst == d then (s1, 3)
      else
        let new := setField l.entry 60 59 dst.toNat
        let a := Config.devAddr l.die l.off
        match s1.slotAt d ctx vpn with
        | none =>
          let (s2, _) := s1.homeCas a 8 l.entry.toNat new.toNat
          (s2.roundNow ctx vpn, 0)
        | some p0 =>
          let s2 := s1.settlePage (Config.pageAddr d ctx vpn)
          let p := (s2.slotAt d ctx vpn).getD p0
          match s2.allocSlot { p with die := dst, leaf := new } with
          | none => (s2, 1)
          | some s3 =>
            let s4 := s3.copyLines p (Config.pageAddr dst ctx vpn)
            let (s5, old) := s4.homeCas a 8 p.leaf.toNat new.toNat
            if old == p.leaf.toNat then
              let s6 := ((s5.roundNow ctx vpn).moveMonitors (Config.pageAddr d ctx vpn) (Config.pageAddr dst ctx vpn) Config.pageSize).dropSlot p
              (s6.shrinkDone d slot, 0)
            else (s5.dropSlot { p with die := dst }, 2)

end Sys2Proof.Machine
end

