-- ==== Sys2Proof/Machine/LaneFloat.lean ====
section
/-! DEFINITION. The per-lane floating-point and conversion instructions, opcodes 0x24 to 0x41 (R193 to R206). -/

namespace Sys2Proof.Machine

open Sys2Proof

/-- An FP32 result of the sources a and b and the prior vd, in the instruction's rounding mode. -/
def fp3 (i : Instr) (f : Rm → Nat → Nat → Nat → FRes) : Nat → Strand → Fields → Nat → FRes := fun _ st fs l =>
  f (roundMode i.px st) (srcA i.px fs st l).toNat (srcB i.px fs st l).toNat (st.lane fs.d.reg l).toNat

/-- An FP64 result of the pairs a and b and the prior pair vd (R200). -/
def dp3 (i : Instr) (f : Rm → Nat → Nat → Nat → FRes) : Nat → Strand → Fields → Nat → FRes := fun _ st fs l =>
  f (roundMode i.px st) (srcA2 i.px fs st l).toNat (srcB2 i.px fs st l).toNat (st.lane2 fs.d.reg l).toNat

/-- A packed pair computed element by element (R154, R201). -/
def packed2 (fmt : Fmt) (sat : Bool) (f : Rm → Nat → Nat → Nat → FRes) (m : Rm) (a b d : Nat) : FRes :=
  let lo := satRes fmt sat (f m (a % 65536) (b % 65536) (d % 65536))
  let hi := satRes fmt sat (f m (a / 65536) (b / 65536) (d / 65536))
  ⟨hi.bits * 65536 + lo.bits, lo.flags ||| hi.flags⟩

/-- `fdot2b` (R202): two BF16 products and an FP32 term, summed exactly and rounded once. -/
def dot2b (m : Rm) (a b d : Nat) : FRes :=
  rndProducts fp32 m
    [(bf16.decode (a % 65536), bf16.decode (b % 65536)), (bf16.decode (a / 65536), bf16.decode (b / 65536))] [fp32.decode d]

/-- Writes of a rounded 32-bit result that completes at issue. -/
def fpInstr (i : Instr) (f : Rm → Nat → Nat → Nat → FRes) (s : State) : Host.Outcome State Fault Refusal :=
  issue i (fpBody i (fp3 i f)) s
/-- A deferred 32-bit result (R206). -/
def fpInstrLate (i : Instr) (f : Rm → Nat → Nat → Nat → FRes) (s : State) : Host.Outcome State Fault Refusal :=
  issue i (fpDeferred i false (fp3 i f)) s
/-- A deferred 64-bit result (R200, R206). -/
def dpInstrLate (i : Instr) (f : Rm → Nat → Nat → Nat → FRes) (s : State) : Host.Outcome State Fault Refusal :=
  issue i (fpDeferred i true (dp3 i f)) s


/-- `fadd`. -/
def execFadd (px : Pfx) (d a b : BitVec 8) (s : State) : Host.Outcome State Fault Refusal :=
  fpInstr (.fadd px d a b) (fun m a b _ => satRes fp32 px.sat (fAdd fp32 m a b)) s

/-- `fsub`. -/
def execFsub (px : Pfx) (d a b : BitVec 8) (s : State) : Host.Outcome State Fault Refusal :=
  fpInstr (.fsub px d a b) (fun m a b _ => satRes fp32 px.sat (fSub fp32 m a b)) s

/-- `fmul`. -/
def execFmul (px : Pfx) (d a b : BitVec 8) (s : State) : Host.Outcome State Fault Refusal :=
  fpInstr (.fmul px d a b) (fun m a b _ => satRes fp32 px.sat (fMul fp32 m a b)) s

/-- `ffma`. -/
def execFfma (px : Pfx) (d a b : BitVec 8) (s : State) : Host.Outcome State Fault Refusal :=
  fpInstr (.ffma px d a b) (fun m a b d => satRes fp32 px.sat (fFma fp32 m a b d)) s

/-- `fmin`. -/
def execFmin (px : Pfx) (d a b : BitVec 8) (s : State) : Host.Outcome State Fault Refusal :=
  fpInstr (.fmin px d a b) (fun _ a b _ => fMinMax fp32 false a b) s

/-- `fmax`. -/
def execFmax (px : Pfx) (d a b : BitVec 8) (s : State) : Host.Outcome State Fault Refusal :=
  fpInstr (.fmax px d a b) (fun _ a b _ => fMinMax fp32 true a b) s

/-- `fcmp`. -/
def execFcmp (px : Pfx) (c : BitVec 4) (m : BitVec 3) (a b : BitVec 8) (s : State) : Host.Outcome State Fault Refusal :=
  issue (.fcmp px c m a b) (compareBody (.fcmp px c m a b) (fun x y => fCompare fp32 c x.toNat y.toNat)) s

/-- `fdiv`. -/
def execFdiv (px : Pfx) (d a b : BitVec 8) (s : State) : Host.Outcome State Fault Refusal :=
  fpInstrLate (.fdiv px d a b) (fun m a b _ => fDiv m a b) s

/-- `frcp`. -/
def execFrcp (px : Pfx) (d a : BitVec 8) (s : State) : Host.Outcome State Fault Refusal :=
  fpInstrLate (.frcp px d a) (fun m a _ _ => fRcp m a) s

/-- `frsq`. -/
def execFrsq (px : Pfx) (d a : BitVec 8) (s : State) : Host.Outcome State Fault Refusal :=
  fpInstrLate (.frsq px d a) (fun m a _ _ => fRsq m a) s

/-- `fsqrt`. -/
def execFsqrt (px : Pfx) (d a : BitVec 8) (s : State) : Host.Outcome State Fault Refusal :=
  fpInstrLate (.fsqrt px d a) (fun m a _ _ => fSqrt m a) s

/-- `fexp2`. -/
def execFexp2 (px : Pfx) (d a : BitVec 8) (s : State) : Host.Outcome State Fault Refusal :=
  fpInstrLate (.fexp2 px d a) (fun m a _ _ => fExp2 m a) s

/-- `flog2`. -/
def execFlog2 (px : Pfx) (d a : BitVec 8) (s : State) : Host.Outcome State Fault Refusal :=
  fpInstrLate (.flog2 px d a) (fun m a _ _ => fLog2 m a) s

/-- `fsinr`. -/
def execFsinr (px : Pfx) (d a : BitVec 8) (s : State) : Host.Outcome State Fault Refusal :=
  fpInstrLate (.fsinr px d a) (fun m a _ _ => fSinr m a) s

/-- `fcosr`. -/
def execFcosr (px : Pfx) (d a : BitVec 8) (s : State) : Host.Outcome State Fault Refusal :=
  fpInstrLate (.fcosr px d a) (fun m a _ _ => fCosr m a) s

/-- `frnd`. -/
def execFrnd (px : Pfx) (d a : BitVec 8) (s : State) : Host.Outcome State Fault Refusal :=
  fpInstr (.frnd px d a) (fun m a _ _ => fRnd m a) s

/-- `ffrac`. -/
def execFfrac (px : Pfx) (d a : BitVec 8) (s : State) : Host.Outcome State Fault Refusal :=
  fpInstr (.ffrac px d a) (fun m a _ _ => fFrac m a) s

/-- `dadd`. -/
def execDadd (px : Pfx) (d a b : BitVec 8) (s : State) : Host.Outcome State Fault Refusal :=
  dpInstrLate (.dadd px d a b) (fun m a b _ => fAdd fp64 m a b) s

/-- `dmul`. -/
def execDmul (px : Pfx) (d a b : BitVec 8) (s : State) : Host.Outcome State Fault Refusal :=
  dpInstrLate (.dmul px d a b) (fun m a b _ => fMul fp64 m a b) s

/-- `dfma`. -/
def execDfma (px : Pfx) (d a b : BitVec 8) (s : State) : Host.Outcome State Fault Refusal :=
  dpInstrLate (.dfma px d a b) (fFma fp64) s

/-- `hadd2`. -/
def execHadd2 (px : Pfx) (d a b : BitVec 8) (s : State) : Host.Outcome State Fault Refusal :=
  fpInstr (.hadd2 px d a b) (packed2 fp16 px.sat (fun m a b _ => fAdd fp16 m a b)) s

/-- `hmul2`. -/
def execHmul2 (px : Pfx) (d a b : BitVec 8) (s : State) : Host.Outcome State Fault Refusal :=
  fpInstr (.hmul2 px d a b) (packed2 fp16 px.sat (fun m a b _ => fMul fp16 m a b)) s

/-- `hfma2`. -/
def execHfma2 (px : Pfx) (d a b : BitVec 8) (s : State) : Host.Outcome State Fault Refusal :=
  fpInstr (.hfma2 px d a b) (packed2 fp16 px.sat (fFma fp16)) s

/-- `badd2`. -/
def execBadd2 (px : Pfx) (d a b : BitVec 8) (s : State) : Host.Outcome State Fault Refusal :=
  fpInstr (.badd2 px d a b) (packed2 bf16 px.sat (fun m a b _ => fAdd bf16 m a b)) s

/-- `bmul2`. -/
def execBmul2 (px : Pfx) (d a b : BitVec 8) (s : State) : Host.Outcome State Fault Refusal :=
  fpInstr (.bmul2 px d a b) (packed2 bf16 px.sat (fun m a b _ => fMul bf16 m a b)) s

/-- `bfma2`. -/
def execBfma2 (px : Pfx) (d a b : BitVec 8) (s : State) : Host.Outcome State Fault Refusal :=
  fpInstr (.bfma2 px d a b) (packed2 bf16 px.sat (fFma bf16)) s

/-- `fdot2b`. -/
def execFdot2b (px : Pfx) (d a b : BitVec 8) (s : State) : Host.Outcome State Fault Refusal :=
  fpInstr (.fdot2b px d a b) dot2b s

/-- A conversion of one lane (R203, R204). -/
def cvtLane (i : Instr) (t c : BitVec 4) : Nat → Strand → Fields → Nat → FRes := fun _ st fs l =>
  let x := if fmtRegs c == 2 then (srcA2 i.px fs st l).toNat else (srcA i.px fs st l).toNat
  cvtBits t c (roundMode i.px st) i.px.sat x (st.lane fs.d.reg l).toNat

/-- `cvt`: `t` is the destination format, `c` the source format. -/
def execCvt (px : Pfx) (d a : BitVec 8) (t c : BitVec 4) (s : State) : Host.Outcome State Fault Refusal :=
  let i : Instr := .cvt px d a t c
  if fmtRegs t == 2 then issue i (fpBodyPair i (cvtLane i t c)) s else issue i (fpBody i (cvtLane i t c)) s

/-- The two lanes whose difference a derivative takes (R205): lower and upper. -/
def derivLanes (y : Bool) (i : Nat) : Nat × Nat :=
  let q := i - i % 4
  if y then (q + i % 2, q + i % 2 + 2) else (q + 2 * (i % 4 / 2), q + 2 * (i % 4 / 2) + 1)

/-- A derivative of lane `l` (R205). -/
def derivLane (i : Instr) (y : Bool) : Nat → Strand → Fields → Nat → FRes := fun _ st fs l =>
  let (lo, hi) := derivLanes y l
  let p := if l == lo then hi else lo
  if !(st.active i.px).getLsbD p || !st.quadCoherent.getLsbD (l / 4) then ⟨0, flagDERIV⟩
  else fSub fp32 (roundMode i.px st) (srcA i.px fs st hi).toNat (srcA i.px fs st lo).toNat


/-- `ddx`. -/
def execDdx (px : Pfx) (d a : BitVec 8) (s : State) : Host.Outcome State Fault Refusal :=
  issue (.ddx px d a) (fpBody (.ddx px d a) (derivLane (.ddx px d a) false)) s

/-- `ddy`. -/
def execDdy (px : Pfx) (d a : BitVec 8) (s : State) : Host.Outcome State Fault Refusal :=
  issue (.ddy px d a) (fpBody (.ddy px d a) (derivLane (.ddy px d a) true)) s

end Sys2Proof.Machine
end

