-- ==== Sys2Proof/Machine/Uniform.lean ====
section
/-! DEFINITION. The uniform instructions: scalar arithmetic, uniform memory, control flow and masks, opcodes 0x01 to 0x41 (R239 to
R253). -/

namespace Sys2Proof.Machine

open Sys2Proof

/-! ### Operands (R239) -/

/-- The operand b of a uniform instruction: the literal, or wb. -/
def srcW (px : Pfx) (st : Strand) (b : BitVec 6) : Word := px.lit.getD (st.wreg b.toNat)

/-- The 64-bit operand b: the literal sign-extended, or the pair wb. -/
def srcW2 (px : Pfx) (st : Strand) (b : BitVec 6) : W64 :=
  match px.lit with
  | some l => l.signExtend 64
  | none => st.wpair b.toNat

/-- A uniform instruction that only changes the strand. -/
def uniform (i : Instr) (f : Strand → Strand) (s : State) : Host.Outcome State Fault Refusal := issue i (pureBody (fun _ st => f st)) s

/-- A scalar operation of 32 bits, or of 64 under `.d`, on wa and wb (R241). -/
def scalar (i : Instr) (px : Pfx) (d a b : BitVec 6) (x : BitVec 1) (f : Word → Word → Word) (g : W64 → W64 → W64) (s : State) :
    Host.Outcome State Fault Refusal :=
  uniform i (fun st =>
    if x == 1 then st.setW2 d.toNat (g (st.wpair a.toNat) (srcW2 px st b))
    else st.setW d.toNat (f (st.wreg a.toNat) (srcW px st b))) s

/-- The saturating 64-bit value of an exact result (R153). -/
def sat64 (x : Int) : W64 := BitVec.ofInt 64 (max (-(2 ^ 63)) (min (2 ^ 63 - 1) x))

/-- An exact 64-bit result, saturated when SAT asks for it (R241). -/
def arith64 (sat : Bool) (x : Int) : W64 := if sat then sat64 x else BitVec.ofInt 64 x

/-! ### Scalar integer (R241, R242) -/

/-- `sadd`. -/
def execSadd (px : Pfx) (d a b : BitVec 6) (x : BitVec 1) (s : State) : Host.Outcome State Fault Refusal :=
  scalar (.sadd px d a b x) px d a b x (addOp px.sat) (fun p q => arith64 px.sat (p.toInt + q.toInt)) s
/-- `ssub`. -/
def execSsub (px : Pfx) (d a b : BitVec 6) (x : BitVec 1) (s : State) : Host.Outcome State Fault Refusal :=
  scalar (.ssub px d a b x) px d a b x (subOp px.sat) (fun p q => arith64 px.sat (p.toInt - q.toInt)) s
/-- `smul`. -/
def execSmul (px : Pfx) (d a b : BitVec 6) (x : BitVec 1) (s : State) : Host.Outcome State Fault Refusal :=
  scalar (.smul px d a b x) px d a b x (fun p q => p * q) (fun p q => p * q) s
/-- `smulh`. -/
def execSmulh (px : Pfx) (d a b : BitVec 6) (n : BitVec 1) (s : State) : Host.Outcome State Fault Refusal :=
  scalar (.smulh px d a b n) px d a b 0 (if n == 1 then mulhnOp else mulhOp) (fun p _ => p) s
/-- `sand`. -/
def execSand (px : Pfx) (d a b : BitVec 6) (x : BitVec 1) (s : State) : Host.Outcome State Fault Refusal :=
  scalar (.sand px d a b x) px d a b x (fun p q => p &&& q) (fun p q => p &&& q) s
/-- `sor`. -/
def execSor (px : Pfx) (d a b : BitVec 6) (x : BitVec 1) (s : State) : Host.Outcome State Fault Refusal :=
  scalar (.sor px d a b x) px d a b x (fun p q => p ||| q) (fun p q => p ||| q) s
/-- `sxor`. -/
def execSxor (px : Pfx) (d a b : BitVec 6) (x : BitVec 1) (s : State) : Host.Outcome State Fault Refusal :=
  scalar (.sxor px d a b x) px d a b x (fun p q => p ^^^ q) (fun p q => p ^^^ q) s

/-- A shift: wb is always one register, read as unsigned (R241). -/
def shiftW (i : Instr) (px : Pfx) (d a b : BitVec 6) (x : BitVec 1) (f : Word → Word → Word) (g : W64 → Word → W64) (s : State) :
    Host.Outcome State Fault Refusal :=
  uniform i (fun st =>
    if x == 1 then st.setW2 d.toNat (g (st.wpair a.toNat) (srcW px st b))
    else st.setW d.toNat (f (st.wreg a.toNat) (srcW px st b))) s

/-- `sshl`. -/
def execSshl (px : Pfx) (d a b : BitVec 6) (x : BitVec 1) (s : State) : Host.Outcome State Fault Refusal :=
  shiftW (.sshl px d a b x) px d a b x shlOp shlOp s
/-- `sshr`. -/
def execSshr (px : Pfx) (d a b : BitVec 6) (x : BitVec 1) (s : State) : Host.Outcome State Fault Refusal :=
  shiftW (.sshr px d a b x) px d a b x shrOp shrOp s
/-- `ssra`. -/
def execSsra (px : Pfx) (d a b : BitVec 6) (x : BitVec 1) (s : State) : Host.Outcome State Fault Refusal :=
  shiftW (.ssra px d a b x) px d a b x sraOp sraOp s
/-- `smin`. -/
def execSmin (px : Pfx) (d a b : BitVec 6) (n x : BitVec 1) (s : State) : Host.Outcome State Fault Refusal :=
  scalar (.smin px d a b n x) px d a b x (if n == 1 then minnOp else minOp) (if n == 1 then minnOp else minOp) s
/-- `smax`. -/
def execSmax (px : Pfx) (d a b : BitVec 6) (n x : BitVec 1) (s : State) : Host.Outcome State Fault Refusal :=
  scalar (.smax px d a b n x) px d a b x (if n == 1 then maxnOp else maxOp) (if n == 1 then maxnOp else maxOp) s
/-- `scmp`: only wd is written, under `.d` too. -/
def execScmp (px : Pfx) (d a b : BitVec 6) (x : BitVec 1) (c : BitVec 4) (s : State) : Host.Outcome State Fault Refusal :=
  uniform (.scmp px d a b x c) (fun st =>
    st.setW d.toNat (Word.ofBool
      (if x == 1 then condHolds c (st.wpair a.toNat) (srcW2 px st b) else condHolds c (st.wreg a.toNat) (srcW px st b)))) s
/-- `ssel`. -/
def execSsel (px : Pfx) (d a b c : BitVec 6) (s : State) : Host.Outcome State Fault Refusal :=
  uniform (.ssel px d a b c) (fun st => st.setW d.toNat (if st.wreg c.toNat != 0 then st.wreg a.toNat else srcW px st b)) s
/-- `smov`. -/
def execSmov (px : Pfx) (d a : BitVec 6) (x : BitVec 1) (s : State) : Host.Outcome State Fault Refusal :=
  scalar (.smov px d a x) px d a 0 x (fun p _ => p) (fun p _ => p) s
/-- `sli`: the literal, or imm18 sign-extended. -/
def execSli (px : Pfx) (d : BitVec 6) (n : BitVec 18) (s : State) : Host.Outcome State Fault Refusal :=
  uniform (.sli px d n) (fun st => st.setW d.toNat (px.lit.getD (n.signExtend 32))) s
/-- `slih`: the literal, or imm18 over wd[13:0]. -/
def execSlih (px : Pfx) (d : BitVec 6) (n : BitVec 18) (s : State) : Host.Outcome State Fault Refusal :=
  uniform (.slih px d n) (fun st => st.setW d.toNat (px.lit.getD (n ++ (st.wreg d.toNat).extractLsb' 0 14))) s
/-- `spopc`. -/
def execSpopc (px : Pfx) (d a : BitVec 6) (s : State) : Host.Outcome State Fault Refusal :=
  uniform (.spopc px d a) (fun st => st.setW d.toNat (popcOp (st.wreg a.toNat))) s
/-- `sclz`. -/
def execSclz (px : Pfx) (d a : BitVec 6) (s : State) : Host.Outcome State Fault Refusal :=
  uniform (.sclz px d a) (fun st => st.setW d.toNat (clzOp (st.wreg a.toNat))) s
/-- `sbfe`. -/
def execSbfe (px : Pfx) (d a b : BitVec 6) (g : BitVec 1) (s : State) : Host.Outcome State Fault Refusal :=
  uniform (.sbfe px d a b g) (fun st =>
    st.setW d.toNat ((if g == 1 then bfesOp else bfeOp) (st.wreg a.toNat) (srcW px st b))) s

/-! ### Scalar floating point (R243, R244) -/

/-- A scalar floating-point result with its flags. -/
def scalarF (i : Instr) (d : BitVec 6) (f : Strand → FRes) (s : State) : Host.Outcome State Fault Refusal :=
  uniform i (fun st => (st.setW d.toNat (f st).word).orFlags (f st).flags) s

/-- A deferred scalar floating-point result (R240). -/
def scalarFLate (i : Instr) (d : BitVec 6) (f : Strand → FRes) (s : State) : Host.Outcome State Fault Refusal :=
  issue i (fun _ s =>
    match s.strands[s.cur]? with
    | none => (s, .done)
    | some st =>
      (s.defer st { Result.blank st.who with wregs := [d.toNat], wwrites := [(d.toNat, (f st).word)], flags := (f st).flags }, .done)) s

/-- `sfadd`. -/
def execSfadd (px : Pfx) (d a b : BitVec 6) (s : State) : Host.Outcome State Fault Refusal :=
  scalarF (.sfadd px d a b) d (fun st => fAdd fp32 (roundMode px st) (st.wreg a.toNat).toNat (srcW px st b).toNat) s
/-- `sfmul`. -/
def execSfmul (px : Pfx) (d a b : BitVec 6) (s : State) : Host.Outcome State Fault Refusal :=
  scalarF (.sfmul px d a b) d (fun st => fMul fp32 (roundMode px st) (st.wreg a.toNat).toNat (srcW px st b).toNat) s
/-- `sffma`. -/
def execSffma (px : Pfx) (d a b : BitVec 6) (s : State) : Host.Outcome State Fault Refusal :=
  scalarF (.sffma px d a b) d
    (fun st => fFma fp32 (roundMode px st) (st.wreg a.toNat).toNat (srcW px st b).toNat (st.wreg d.toNat).toNat) s
/-- `sfmin`. -/
def execSfmin (px : Pfx) (d a b : BitVec 6) (s : State) : Host.Outcome State Fault Refusal :=
  scalarF (.sfmin px d a b) d (fun st => fMinMax fp32 false (st.wreg a.toNat).toNat (srcW px st b).toNat) s
/-- `sfmax`. -/
def execSfmax (px : Pfx) (d a b : BitVec 6) (s : State) : Host.Outcome State Fault Refusal :=
  scalarF (.sfmax px d a b) d (fun st => fMinMax fp32 true (st.wreg a.toNat).toNat (srcW px st b).toNat) s
/-- `sfcmp`. -/
def execSfcmp (px : Pfx) (d a b : BitVec 6) (c : BitVec 4) (s : State) : Host.Outcome State Fault Refusal :=
  scalarF (.sfcmp px d a b c) d (fun st =>
    let r := fCompare fp32 c (st.wreg a.toNat).toNat (srcW px st b).toNat
    ⟨if r.1 then 1 else 0, r.2⟩) s
/-- `sfrcp`. -/
def execSfrcp (px : Pfx) (d a : BitVec 6) (s : State) : Host.Outcome State Fault Refusal :=
  scalarFLate (.sfrcp px d a) d (fun st => fRcp (roundMode px st) (st.wreg a.toNat).toNat) s
/-- `sfsqrt`. -/
def execSfsqrt (px : Pfx) (d a : BitVec 6) (s : State) : Host.Outcome State Fault Refusal :=
  scalarFLate (.sfsqrt px d a) d (fun st => fSqrt (roundMode px st) (st.wreg a.toNat).toNat) s
/-- `sfcvt`: `t` is the destination format, `c` the source format. -/
def execSfcvt (px : Pfx) (d a : BitVec 6) (t c : BitVec 4) (s : State) : Host.Outcome State Fault Refusal :=
  uniform (.sfcvt px d a t c) (fun st =>
    let x := if fmtRegs c == 2 then (st.wpair a.toNat).toNat else (st.wreg a.toNat).toNat
    let r := cvtBits t c (roundMode px st) px.sat x (st.wreg d.toNat).toNat
    (if fmtRegs t == 2 then st.setW2 d.toNat r.pair else st.setW d.toNat r.word).orFlags r.flags) s

/-! ### Uniform memory (R245 to R247) -/

/-- The bytes of a size code. -/
def umSize (z : BitVec 3) : Nat := 2 ^ z.toNat

/-- The address of a UM instruction (R245). -/
def umAddr (st : Strand) (a : BitVec 6) (f : BitVec 9) (size : Nat) : W64 := st.wpair a.toNat + BitVec.ofInt 64 (f.toInt * size)

/-- The trap of a uniform access (R245): the whole strand faults. -/
def wholeTrap (f : AFault) (a : W64) : Trap := ⟨f.cls, f.detail, none, 0, a, f.walkent⟩

/-- A write reaches the home of its place (R62): one to an unbacked page takes its slot, or meets the capacity fault. -/
def State.reachHome (s : State) (kind : AccessKind) (p : Place) : State × Ans Unit :=
  match p with
  | .page q _ => if kind == .write then (match s.allocSlot q with | some s1 => (s1, .ok ()) | none => (s, .bad (capacityFault q))) else (s, .ok ())
  | _ => (s, .ok ())

/-- The checks of a uniform access (R245): the place, or the fault; a write to an unbacked page has its slot afterwards. -/
def State.placeUniform (s : State) (st : Strand) (a : W64) (align : Nat) (kind : AccessKind) : State × Ans (Place × Bool) :=
  match s.route (st.xreq kind) (s.gangOf st) a align with
  | (s1, .ok (p, far)) =>
    (match s1.reachHome kind p with
    | (s2, .ok _) => (s2, .ok (p, far))
    | (s2, .bad f) => (s2, .bad f))
  | r => r

/-- One uniform access (R245, R246): `dest` are the w registers and `rec` the b register that an answer fills; with `now` the answer
is in before the next sequence (R247). -/
def uniformBody (i : Instr) (size : Nat) (addr : Strand → W64) (kind : AccessKind) (acc : Strand → Access) (dest : List Nat)
    (rec_ : Option Nat) : Body := fun _ s =>
  match s.strands[s.cur]? with
  | none => (s, .done)
  | some st =>
    let a := addr st
    match s.placeUniform st a size kind with
    | (s1, .bad f) => (s1, .trap (wholeTrap f a))
    | (s1, .ok (p, _)) =>
      if s1.placeWaits st.who p then (s1.modCur (fun x => x.hold .posted), .again)
      else
        let answers := !dest.isEmpty || rec_.isSome
        let remote := answers && (match p with | .peer .. => true | _ => false)
        let id := s1.nextId
        let s2 := if answers then s1.defer st { Result.blank st.who with wregs := dest } else s1
        let s3 := if remote then s2.holdRemote st.who i ⟨id, none, 0, [], none⟩ else s2
        let s4 := s3.startAccess st (acc st) size (if answers then some ⟨id, none, dest, rec_⟩ else none) a rec_.isSome p
        if remote then (s4.finishRemote s4.cur, .again)
        else if rec_.isSome then
          match s4.results.find? (fun r => r.id == id && r.who == st.who) with
          | some r => (s4.arrive r, .done)
          | none => (s4, .done)
        else (s4, .done)

/-- The words of a w group, as a number. -/
def Strand.wgroup (st : Strand) (r n : Nat) : Nat :=
  (List.range n).foldl (fun x j => x + (st.wreg (r + j)).toNat * 2 ^ (32 * j)) 0

/-- `sld`. -/
def execSld (d a : BitVec 6) (z : BitVec 3) (f : BitVec 9) (s : State) : Host.Outcome State Fault Refusal :=
  let n := umSize z
  issue (.sld d a z f)
    (uniformBody (.sld d a z f) n (fun st => umAddr st a f n) .read (fun _ => .read n) (groupRegs d.toNat (umRegs z)) none) s

/-- `sst`. -/
def execSst (w a : BitVec 6) (z : BitVec 3) (f : BitVec 9) (s : State) : Host.Outcome State Fault Refusal :=
  let n := umSize z
  issue (.sst w a z f)
    (uniformBody (.sst w a z f) n (fun st => umAddr st a f n) .write (fun st => .write (leBytes n (st.wgroup w.toNat (umRegs z)))) []
      none) s

/-- `satom`: `z` is 0 for size 2 and 1 for size 3. -/
def execSatom (d a : BitVec 6) (z : BitVec 1) (p : BitVec 4) (s : State) : Host.Outcome State Fault Refusal :=
  let wide := z == 1
  let n := if wide then 8 else 4
  issue (.satom d a z p)
    (uniformBody (.satom d a z p) n (fun st => st.wpair a.toNat) .write
      (fun st => .atomic wide p (BitVec.ofNat 64 (st.wgroup d.toNat (n / 4)))) (groupRegs d.toNat (n / 4)) none) s

/-- `recld` (R247). -/
def execRecld (b : BitVec 4) (a : BitVec 6) (f : BitVec 9) (s : State) : Host.Outcome State Fault Refusal :=
  issue (.recld b a f) (uniformBody (.recld b a f) 16 (fun st => umAddr st a f 16) .read (fun _ => .read 16) [] (some b.toNat)) s

/-- `recst` (R247). -/
def execRecst (b : BitVec 4) (a : BitVec 6) (f : BitVec 9) (s : State) : Host.Outcome State Fault Refusal :=
  issue (.recst b a f)
    (uniformBody (.recst b a f) 16 (fun st => umAddr st a f 16) .write (fun st => .write (leBytes 16 (st.brec b.toNat).toNat)) [] none) s

/-! ### Control flow (R248 to R252) -/

/-- The target of a branch: the address of its word plus four times the displacement. -/
def branchTo {n : Nat} (st : Strand) (disp : BitVec n) : W64 := st.pc + BitVec.ofInt 64 (4 * disp.toInt)

/-- An instruction that only decides where the strand goes on. -/
def control (i : Instr) (f : Strand → Strand × After) (s : State) : Host.Outcome State Fault Refusal :=
  issue i (fun _ s =>
    match s.strands[s.cur]? with
    | none => (s, .done)
    | some st => (s.modCur (fun _ => (f st).1), (f st).2)) s

/-- A branch. -/
def branch {n : Nat} (i : Instr) (disp : BitVec n) (taken : Strand → Bool) (s : State) : Host.Outcome State Fault Refusal :=
  control i (fun st => (st, if taken st then .jump (branchTo st disp) else .done)) s

/-- `br`. -/
def execBr (d : BitVec 21) (s : State) : Host.Outcome State Fault Refusal := branch (.br d) d (fun _ => true) s
/-- `brw`. -/
def execBrw (a : BitVec 6) (c : BitVec 4) (d : BitVec 14) (s : State) : Host.Outcome State Fault Refusal :=
  branch (.brw a c d) d (fun st => condHolds c (st.wreg a.toNat) 0) s
/-- `brany`. -/
def execBrany (m : BitVec 3) (d : BitVec 21) (s : State) : Host.Outcome State Fault Refusal :=
  branch (.brany m d) d (fun st => st.mask m.toNat &&& st.mask 0 != 0) s
/-- `brall`. -/
def execBrall (m : BitVec 3) (d : BitVec 21) (s : State) : Host.Outcome State Fault Refusal :=
  branch (.brall m d) d (fun st => st.mask 0 &&& ~~~st.mask m.toNat == 0) s
/-- `brnone`. -/
def execBrnone (m : BitVec 3) (d : BitVec 21) (s : State) : Host.Outcome State Fault Refusal :=
  branch (.brnone m d) d (fun st => st.mask m.toNat &&& st.mask 0 == 0) s
/-- `call` (R249). -/
def execCallU (d : BitVec 21) (s : State) : Host.Outcome State Fault Refusal :=
  control (.callU d) (fun st => (st.setW2 62 (nextPc (.callU d) st), .jump (branchTo st d))) s

/-- The target of `ret` and `jmpw` is aligned and lies on a path from which instructions are fetched (R249). -/
def targetOk (a : W64) : Bool :=
  field a 1 0 == 0 && (field a 63 60 == 0 || field a 63 60 == 1 || field a 63 60 == 4) && field a 59 57 == 0

/-- A jump to a computed address (R249). -/
def jumpTo (st : Strand) (a : W64) : Strand × After := (st, if targetOk a then .jump a else .trap Trap.illegal)

/-- `ret`. -/
def execRet (px : Pfx) (a : BitVec 6) (s : State) : Host.Outcome State Fault Refusal :=
  control (.ret px a) (fun st => jumpTo st (st.wpair a.toNat)) s
/-- `jmpw`. -/
def execJmpw (px : Pfx) (a b : BitVec 6) (s : State) : Host.Outcome State Fault Refusal :=
  control (.jmpw px a b) (fun st => jumpTo st (st.wpair a.toNat + BitVec.ofInt 64 (4 * (st.wreg b.toNat).toInt))) s
/-- `loop` (R250). -/
def execLoopW (a : BitVec 6) (d : BitVec 14) (s : State) : Host.Outcome State Fault Refusal :=
  control (.loopW a d) (fun st =>
    let x := st.wreg a.toNat - 1
    (st.setW a.toNat x, if x != 0 then .jump (branchTo st d) else .done)) s

/-- sr.rfault holds a record: the remote-store fault (R268 step 3). -/
def Strand.storeFaulted (st : Strand) : Bool := st.sr.rfault.getLsbD 63

/-- The remote-store fault (R430). -/
def Trap.remoteStore : Trap := Trap.plain 0x1A 0

/-- The outstanding deferred results of a strand that ends are dropped (R381). -/
def State.dropResults (s : State) (w : Who) : State :=
  { s with results := s.results.filter (fun r => r.who != w), rayOps := s.rayOps.filter (fun r => r.who != w) }

/-- The last lanes of a strand leave (R251). -/
def exitBody (i : Instr) : Body := fun _ s =>
  match s.strands[s.cur]? with
  | none => (s, .done)
  | some st =>
    if st.mask 0 == 0 then (s, .done)
    else if st.live &&& ~~~st.mask 0 != 0 then
      (s.modCur (fun x => { x with live := x.live &&& ~~~x.mask 0, m := tabSet 8 x.m 0 0 0 }), .done)
    else if st.posted != 0 then (s.modCur (fun x => x.hold .posted), .again)
    else if st.storeFaulted then (s, .trap Trap.remoteStore)
    else if s.statusReq st.who then (s.park s.cur .exit i, .again)
    else if s.statusSec st.who then (s, .trap { Trap.plain 0x2A 2 with faddr := s.heldKey st.who })
    else
      let s1 := s.modCur (fun x =>
        { x with live := 0, m := tabSet 8 x.m 0 0 0, state := .ended, park := none, pc := nextPc i x })
      ((s1.dropResults st.who).deregister st, .again)

/-- `exit` (R251). -/
def execExitL (px : Pfx) (s : State) : Host.Outcome State Fault Refusal := issue (.exitL px) (exitBody (.exitL px)) s

/-- `yield` (R252): the next issue choice of the core passes over the strand once. -/
def execYield (px : Pfx) (s : State) : Host.Outcome State Fault Refusal :=
  uniform (.yield px) (fun st => { st with yielded := true }) s

/-- `sleep` (R252): `sleep 0` retires at once; otherwise the sequence retires and the strand is parked. -/
def execSleep (px : Pfx) (n : BitVec 18) (s : State) : Host.Outcome State Fault Refusal :=
  let t := match px.lit with | some l => l.toNat | none => n.toNat
  issue (.sleep px n) (fun _ s =>
    if t == 0 then (s, .done)
    else
      let s1 := s.park s.cur (.sleep (s.cycle + t)) (.sleep px n)
      (s1.modCur (fun x => { x.retire (nextPc (.sleep px n) x) with waiting := none }), .again)) s

/-- `nop`. -/
def execNop (px : Pfx) (s : State) : Host.Outcome State Fault Refusal := uniform (.nop px) id s

/-- `trap n` (R252). -/
def execTrapU (px : Pfx) (n : BitVec 16) (s : State) : Host.Outcome State Fault Refusal :=
  control (.trapU px n) (fun st => (st, .trapNext (Trap.plain 0x05 n))) s

/-! ### Masks (R253) -/

/-- A mask instruction. -/
def maskInstr (i : Instr) (d : BitVec 3) (f : Strand → Word) (s : State) : Host.Outcome State Fault Refusal :=
  uniform i (fun st => st.setM d.toNat (f st)) s

/-- `mand`. -/
def execMand (px : Pfx) (d a b : BitVec 3) (s : State) : Host.Outcome State Fault Refusal :=
  maskInstr (.mand px d a b) d (fun st => st.mask a.toNat &&& st.mask b.toNat) s
/-- `mor`. -/
def execMor (px : Pfx) (d a b : BitVec 3) (s : State) : Host.Outcome State Fault Refusal :=
  maskInstr (.mor px d a b) d (fun st => st.mask a.toNat ||| st.mask b.toNat) s
/-- `mxor`. -/
def execMxor (px : Pfx) (d a b : BitVec 3) (s : State) : Host.Outcome State Fault Refusal :=
  maskInstr (.mxor px d a b) d (fun st => st.mask a.toNat ^^^ st.mask b.toNat) s
/-- `mandn`. -/
def execMandn (px : Pfx) (d a b : BitVec 3) (s : State) : Host.Outcome State Fault Refusal :=
  maskInstr (.mandn px d a b) d (fun st => st.mask a.toNat &&& ~~~st.mask b.toNat) s
/-- `mnot`. -/
def execMnot (px : Pfx) (d a : BitVec 3) (s : State) : Host.Outcome State Fault Refusal :=
  maskInstr (.mnot px d a) d (fun st => ~~~st.mask a.toNat) s
/-- `mmov`. -/
def execMmov (px : Pfx) (d a : BitVec 3) (s : State) : Host.Outcome State Fault Refusal :=
  maskInstr (.mmov px d a) d (fun st => st.mask a.toNat) s
/-- `mtow`. -/
def execMtow (px : Pfx) (d : BitVec 6) (a : BitVec 3) (s : State) : Host.Outcome State Fault Refusal :=
  uniform (.mtow px d a) (fun st => st.setW d.toNat (st.mask a.toNat)) s
/-- `wtom`. -/
def execWtom (px : Pfx) (d : BitVec 3) (a : BitVec 6) (s : State) : Host.Outcome State Fault Refusal :=
  maskInstr (.wtom px d a) d (fun st => st.wreg a.toNat) s
/-- `mpopc`. -/
def execMpopc (px : Pfx) (d : BitVec 6) (a : BitVec 3) (s : State) : Host.Outcome State Fault Refusal :=
  uniform (.mpopc px d a) (fun st => st.setW d.toNat (popcOp (st.mask a.toNat))) s
/-- `mffs`: 32 where the mask is empty. -/
def execMffs (px : Pfx) (d : BitVec 6) (a : BitVec 3) (s : State) : Host.Outcome State Fault Refusal :=
  uniform (.mffs px d a) (fun st => st.setW d.toNat (ctzOp (st.mask a.toNat))) s

/-- Sleep expiry (R252): the cycles have passed, and the strand goes on with the next sequence. -/
def execSleepExpiry (who : Who) (s : State) : Host.Outcome State Fault Refusal :=
  match s.findStrand who with
  | none => .next s
  | some i =>
    match s.strands[i]? with
    | some st =>
      (match st.park with
      | some (.sleep t) =>
        let s1 := { s with cycle := max s.cycle t }
        .next (s1.modStrand i (fun x => x.wake s1.cycle))
      | _ => .next s)
    | none => .next s

end Sys2Proof.Machine
end

