-- ==== Sys2Proof/Machine/System.lean ====
section
/-! DEFINITION. System registers and the privileged and system instructions, opcodes 0x42 to 0x4B (R128 to R130, R254 to R263). -/

namespace Sys2Proof.Machine

open Sys2Proof

/-! ### System registers (R128, R129) -/

/-- sr.lease (R405). -/
def State.leaseReg (s : State) (st : Strand) : Nat :=
  (if st.leaseDecl then 2 ^ 31 else 0) + min 4095 (s.measured st) * 65536 + st.leaseLines

/-- The sum of the leases of a core's active strands. -/
def State.activeLines (s : State) (c : CoreId) : Nat :=
  (s.strands.filter (fun (st : Strand) => st.core == c && st.inActiveSet && !st.isFirmware)).foldl (fun n st => n + st.leaseLines) 0

/-- The value of a system register (R129, Table 3). -/
def State.srRead (s : State) (st : Strand) (n : Nat) : W64 :=
  let word := fun (x : Word) => x.setWidth 64
  match n with
  | 0x00 => word (st.status (s.statusReq st.who) (s.statusSec st.who))
  | 0x01 => word st.sr.cause
  | 0x02 => st.sr.epc
  | 0x03 => word st.sr.emask
  | 0x04 => word st.sr.donemask
  | 0x05 => st.sr.faddr
  | 0x06 => word st.sr.rptstate
  | 0x07 => word st.sr.fpmode
  | 0x08 => word st.sr.fpflags
  | 0x09 => word st.sr.rsvflags
  | 0x0A => BitVec.ofNat 64 (s.leaseReg st)
  | 0x0B => BitVec.ofNat 64 (min 4095 (s.activeLines st.core) * 65536 + coreGet s.budgets 2048 st.core)
  | 0x0C => word (coreGet s.thresholds 256 st.core)
  | 0x0D => st.sr.handler
  | 0x0E => st.sr.rfault
  | 0x0F => word st.sr.oobcount
  | 0x10 => BitVec.ofNat 64 (st.who.wg.toNat * 2 ^ 19 + st.who.widx.toNat * 2 ^ 10 + st.slot)
  | 0x11 => BitVec.ofNat 64 (s.package * 256 + st.core.die.toNat * 64 + st.core.quad.toNat * 4 + st.core.core.toNat)
  | 0x12 => BitVec.ofNat 64 (st.ctxSlot.toNat * 4096 + st.who.ctx.toNat)
  | 0x13 => BitVec.ofNat 64 st.who.gang.toNat
  | 0x14 => word st.live
  | 0x15 => BitVec.ofNat 64 s.cycle
  | 0x16 => st.sr.hscratch0
  | 0x17 => st.sr.hscratch1
  | 0x18 => st.sr.sysmap
  | _ => st.sr.walkent

/-- The bits of a system register that are fields (R129, Table 3); the others are reserved. -/
def srFields (n : Nat) : W64 :=
  match n with
  | 0x00 => 0x1F3
  | 0x01 => 0x80FFFFFF
  | 0x02 => 0xFFFFFFFFFFFFFFFC
  | 0x05 => BitVec.allOnes 64
  | 0x06 => 0x800000FF
  | 0x07 => 0x3
  | 0x08 => 0x3F
  | 0x09 => 0x1F
  | 0x0A => 0x8FFF0FFF
  | 0x0B => 0x0FFF0FFF
  | 0x0C => 0xFFFF
  | 0x0D => 0xFFFFFFFFFFFFFFFC
  | 0x0E => BitVec.allOnes 64
  | 0x10 => 0x1FFFFF
  | 0x11 => 0x1FFFF
  | 0x12 => 0xFFFF
  | 0x13 => 0xFFFFFF
  | 0x15 => BitVec.allOnes 64
  | 0x16 => BitVec.allOnes 64
  | 0x17 => BitVec.allOnes 64
  | 0x18 => 0xFFFFFF8000000000
  | 0x19 => 0x8000037FFFFFFFFF
  | _ => 0xFFFFFFFF

/-- A write of a system register; read-only fields keep their values (R254). -/
def State.srWrite (s : State) (n : Nat) (x : W64) : State :=
  let w := lo32 x
  let sr := fun (f : SysRegs → SysRegs) => s.modCur (fun st => { st with sr := f st.sr })
  match n with
  | 0x01 => sr (fun r => { r with cause := w })
  | 0x02 => sr (fun r => { r with epc := x })
  | 0x03 => sr (fun r => { r with emask := w })
  | 0x04 => sr (fun r => { r with donemask := w })
  | 0x05 => sr (fun r => { r with faddr := x })
  | 0x06 => sr (fun r => { r with rptstate := w, rpt := w.getLsbD 31 })
  | 0x07 => sr (fun r => { r with fpmode := w })
  | 0x08 => sr (fun r => { r with fpflags := w })
  | 0x09 => sr (fun r => { r with rsvflags := w })
  | 0x0C =>
    match s.strands[s.cur]? with
    | some st => { s with thresholds := coreSet s.thresholds st.core w }
    | none => s
  | 0x0D => sr (fun r => { r with handler := x })
  | 0x0E => sr (fun r => { r with rfault := if x.getLsbD 63 then setField r.rfault 63 63 1 else setField r.rfault 63 62 0 })
  | 0x0F => sr (fun r => { r with oobcount := w })
  | 0x16 => sr (fun r => { r with hscratch0 := x })
  | 0x17 => sr (fun r => { r with hscratch1 := x })
  | 0x18 => sr (fun r => { r with sysmap := x })
  | 0x19 => sr (fun r => { r with walkent := x })
  | _ => s

/-- An instruction of the issuing strand that may change the whole state. -/
def withStrand (f : Strand → State → State × After) : Body := fun _ s =>
  match s.strands[s.cur]? with
  | none => (s, .done)
  | some st => f st s

/-- `srd`. -/
def execSrd (px : Pfx) (d : BitVec 6) (n : BitVec 8) (s : State) : Host.Outcome State Fault Refusal :=
  issue (.srd px d n) (withStrand (fun st s =>
    let x := s.srRead st n.toNat
    (s.modCur (fun y => if srRegs n == 2 then y.setW2 d.toNat x else y.setW d.toNat (lo32 x)), .done))) s

/-- `swr`: a non-zero reserved field is an illegal instruction (R4, R264). -/
def execSwr (px : Pfx) (w : BitVec 6) (n : BitVec 8) (s : State) : Host.Outcome State Fault Refusal :=
  issue (.swr px w n) (withStrand (fun st s =>
    let x := if srRegs n == 2 then st.wpair w.toNat else (st.wreg w.toNat).setWidth 64
    if x &&& ~~~srFields n.toNat != 0 then (s, .trap Trap.illegal) else (s.srWrite n.toNat x, .done))) s

/-- `rfe` (R255). -/
def execRfe (px : Pfx) (s : State) : Host.Outcome State Fault Refusal :=
  issue (.rfe px) (withStrand (fun st s =>
    if st.sr.hnd then (s.modCur Strand.returnFrom, .again) else (s, .trap Trap.illegal))) s

/-- `tlbinv` (R46, R49, R257): `k` is KIND, `g` SCOPE. -/
def execTlbinv (px : Pfx) (a b : BitVec 6) (g : BitVec 1) (k : BitVec 2) (s : State) : Host.Outcome State Fault Refusal :=
  issue (.tlbinv px a b g k) (withStrand (fun st s =>
    let x := st.wpair a.toNat
    let count := (st.wreg b.toNat).toNat
    let pod := g == 1
    if k == 0 && (count == 0 || decide (2 ^ 20 < count)) then (s, .trap Trap.illegal)
    else if pod && st.posted != 0 then (s.modCur (fun y => y.hold .posted), .again)
    else if 16 ≤ s.ownRounds then (s.modCur (fun y => y.hold .round), .again)
    else
      let s1 := (s.drain st.who).holdAt s.cur .round (.tlbinv px a b g k)
      (s1.startRound (.strand st.who) k (BitVec.ofNat 12 (field x 63 52)) (BitVec.ofNat 41 (field x 40 0)) count pod, .again))) s

/-- A deferred result of w registers whose values are known. -/
def State.deferW (s : State) (st : Strand) (ws : List (Nat × Word)) : State :=
  s.defer st { Result.blank st.who with wregs := ws.map (·.1), wwrites := ws }

/-- `frpop` (R258). -/
def execFrpop (px : Pfx) (d a : BitVec 6) (s : State) : Host.Outcome State Fault Refusal :=
  issue (.frpop px d a) (withStrand (fun st s =>
    let x := st.wreg a.toNat
    let v : Die := BitVec.ofNat 2 x.toNat
    let (s1, r) := if field x 31 2 != 0 || !s.dieValid v then (s, none) else (s.drain st.who).popReady v
    (s1.deferW st [(d.toNat, BitVec.ofNat 32 (r.getD 0xFFFFFFFF))], .done))) s

/-- `cflush` (R259): by virtual address. -/
def execCflush (px : Pfx) (a b : BitVec 6) (k : BitVec 2) (s : State) : Host.Outcome State Fault Refusal :=
  issue (.cflush px a b k) (withStrand (fun st s =>
    let va := field (st.wpair a.toNat) 56 0
    let n := (st.wreg b.toNat).toNat
    match k.toNat with
    | 0 => (if n == 0 then s else s.l1InvalidateRange st.core st.who.ctx va n, .done)
    | 1 =>
      (s.icDrop (fun d q x v =>
        n != 0 && d == st.core.die && q == st.core.quad && x == st.who.ctx && overlaps (v.toNat * 128) 128 va n), .done)
    | _ => (s.l1InvalidateCtx st.core st.who.ctx, .done))) s

/-- `ubres` (R260): a write that starts a shrink retires once it is done. -/
def execUbres (px : Pfx) (d a b : BitVec 6) (s : State) : Host.Outcome State Fault Refusal :=
  issue (.ubres px d a b) (withStrand (fun st s =>
    let x := st.wreg a.toNat
    let k : Slot := BitVec.ofNat 4 x.toNat
    let v : Die := BitVec.ofNat 2 (field x 5 4)
    let bad := field x 31 6 != 0 || field (st.wreg b.toNat) 31 12 != 0
    match (if bad then none else s.setLimit v k (st.wreg b.toNat).toNat) with
    | none => ((s.setRegField (.ubrsv v k) 31 31 1).deferW st [(d.toNat, 1)], .done)
    | some s1 =>
      if (s1.reg (.ubrsv v k)).getLsbD 30 then (s1.holdAt s1.cur .ubres (.ubres px d a b), .again)
      else (s1.deferW st [(d.toNat, 0)], .done))) s

/-- The address of `ubdisc` and `ubmig` is checked (R261). -/
def pageAddrFault (a : W64) : Option AFault :=
  if !(field a 63 60 == 0 || field a 63 60 == 1 || field a 63 60 == 4) || field a 59 57 != 0 then some pathFault
  else if field a 15 0 != 0 then some alignFault
  else none

/-- The context of an enabled slot. -/
def State.ctxOf (s : State) (k : Slot) : Option (BitVec 12) :=
  if (s.reg (.trbase k)).getLsbD 63 then some (BitVec.ofNat 12 (field (s.reg (.trbase k)) 59 48)) else none

/-- `ubdisc` (R66, R261): `g` is S, `n` the slot. -/
def execUbdisc (px : Pfx) (a b : BitVec 6) (g : BitVec 1) (n : BitVec 4) (s : State) : Host.Outcome State Fault Refusal :=
  issue (.ubdisc px a b g n) (withStrand (fun st s =>
    let x := st.wpair a.toNat
    let count := (st.wreg b.toNat).toNat
    match pageAddrFault x with
    | some f => (s, .trap (wholeTrap f x))
    | none =>
      if count == 0 || decide (2 ^ 20 < count) then (s, .trap Trap.illegal)
      else
        match (if g == 1 then s.ctxOf n else some st.who.ctx) with
        | none => (s, .done)
        | some ctx => ((s.drain st.who).discardPages ctx (field x 56 16) count, .done))) s

/-- `ubmig` (R67, R262). -/
def execUbmig (px : Pfx) (d a b : BitVec 6) (n : BitVec 4) (s : State) : Host.Outcome State Fault Refusal :=
  issue (.ubmig px d a b n) (withStrand (fun st s =>
    let x := st.wpair a.toNat
    match pageAddrFault x with
    | some f => (s, .trap (wholeTrap f x))
    | none =>
      let r := match s.ctxOf n with
        | some ctx => (s.drain st.who).migrate ctx n (field x 56 0) (st.wreg b.toNat)
        | none => (s, 3)
      (r.1.deferW st [(d.toNat, r.2)], .done))) s

/-- `roleget` (R263): the firmware slot has no roles. -/
def execRoleget (px : Pfx) (d : BitVec 6) (r : BitVec 4) (s : State) : Host.Outcome State Fault Refusal :=
  issue (.roleget px d r) (withStrand (fun st s =>
    let x := match s.gangOf st with | some g => g.roles.getD r.toNat 0 | none => 0
    (s.modCur (fun y => y.setW2 d.toNat x), .done))) s

end Sys2Proof.Machine
end

