-- ==== Sys2Proof/Machine/Fetch.lean ====
section
/-! DEFINITION. Instruction fetch (R99 to R101, R135, R136, R148): the words of the sequence at the program counter, misses, fetch
faults, and the patch overlay. -/

namespace Sys2Proof.Machine

open Sys2Proof

/-- What the fetch of one word gives. -/
inductive FetchAns where
  /-- The word, and whether it was patched (R135). -/
  | word (w : Word) (patched : Bool)
  /-- The line is not in the cache: its virtual line, and its address at the home. -/
  | miss (vline : BitVec 50) (line : Nat)
  | bad (f : AFault)
  deriving DecidableEq, Repr

/-- The word that a launch lays over the word at an address (R135). -/
def patchAt (g : Option Gang) (a : W64) : Option Word :=
  match g with
  | some g =>
    (g.kernel.patches.find? (fun p => field (g.kernel.header) 56 0 + p.1 == field a 56 0)).map (fun (p : Nat × Word) => p.2)
  | none => none

/-- The translation request of a fetch: through the quad's TLB (R99). -/
def Strand.fetchReq (st : Strand) : Xreq := ⟨st.who.ctx, st.ctxSlot, st.core.die, st.core.quad, none, st.isUser, .fetch⟩

/-- One word fetched (R99, R135). -/
def State.fetchWord (s : State) (st : Strand) (a : W64) : State × FetchAns :=
  if !(field a 63 60 == 0 || field a 63 60 == 1 || field a 63 60 == 4) || field a 59 57 != 0 then (s, .bad pathFault)
  else
    match s.translate st.fetchReq (field a 56 0) with
    | (s1, .bad f) => (s1, .bad f)
    | (s1, .ok (p, _)) =>
      match p.addr with
      | none => (s1, .bad targetFault)
      | some x =>
        let v := vlineOf (field a 56 0)
        match s1.icLine st.core.die st.core.quad st.who.ctx v with
        | none => (s1, .miss v (lineOf x))
        | some l =>
          match patchAt (s1.gangOf st) a with
          | some w => (s1, .word w true)
          | none => (s1, .word (BitVec.ofNat 32 (leNat ((l.data.drop (field a 6 0)).take 4))) false)

/-- What the fetch of a whole sequence gives. -/
inductive SeqAns where
  | instr (i : Instr)
  | illegal
  | miss (vline : BitVec 50) (line : Nat)
  /-- A word faulted: its address. -/
  | bad (f : AFault) (a : W64)
  deriving DecidableEq, Repr

/-- A word of the sequence other than its literal was patched (R135). -/
def patchBad (i : Instr) (n : Nat) (marks : List Bool) : Bool :=
  (List.range n).any (fun j => marks.getD j false && literalIndex i n != some j)

/-- The word is a prefix that comes before the instruction word. -/
def leadWord (w : Word) : Bool := wordKind w == .rpt || wordKind w == .ext

/-- The word after an instruction word that is none of the opcode map: it is fetched all the same, and its fault comes first (R136, R148). -/
def State.fetchAfter (s : State) (st : Strand) (a : W64) : State × SeqAns :=
  match s.fetchWord st a with
  | (s1, .bad f) => (s1, .bad f a)
  | (s1, .miss v l) => (s1, .miss v l)
  | (s1, .word _ _) => (s1, .illegal)

/-- The sequence at an address, word by word: the word after the instruction word is fetched too (R136, R148). -/
def fetchSeq (st : Strand) : Nat → List Word → List Bool → State → State × SeqAns
  | 0, _, _, s => (s, .illegal)
  | k + 1, ws, marks, s =>
    let a := st.pc + BitVec.ofNat 64 (4 * ws.length)
    match s.fetchWord st a with
    | (s1, .bad f) => (s1, .bad f a)
    | (s1, .miss v l) => (s1, .miss v l)
    | (s1, .word w p) =>
      let ws1 := ws ++ [w]
      let marks1 := marks ++ [p]
      match decodeSeq ws1 with
      | .ok (i, n) => (s1, if patchBad i n marks1 then .illegal else .instr i)
      | .error .truncated => fetchSeq st k ws1 marks1 s1
      | .error _ => if ws.all leadWord && !leadWord w then s1.fetchAfter st (a + 4) else (s1, .illegal)

/-- The longest sequence: `rpt`, `ext`, the instruction word, `lit` and the literal; and the word after it. -/
def maxWords : Nat := 6

/-- sr.rptstate of a trap met before the sequence at hand is known. -/
def rptstateNow (st : Strand) : Word := if st.rptAt == 0 then 0 else 0x80000000 ||| BitVec.ofNat 32 st.rptAt

/-- The lanes already complete of the iteration at hand, when it is issued again (R144, R431). -/
def Strand.doneNow (st : Strand) : Word := if st.reissue then st.sr.donemask else 0

/-- The fetch fault of a strand (R148, R430): class and address of the word that failed. -/
def State.fetchFault (s : State) (idx : Nat) (f : AFault) (a : W64) : State :=
  match s.strands[idx]? with
  | some st => s.takeTrap idx ⟨0x04, f.cls.setWidth 16, none, st.doneNow, a, f.walkent⟩ st.pc (rptstateNow st)
  | none => s

/-- An instruction miss holds the strand until its line comes (R100), and counts as a slip. -/
def State.fetchMiss (s : State) (idx : Nat) : State :=
  match s.strands[idx]? with
  | some st =>
    let s1 := s.modStrand idx (fun x => x.hold .fetch)
    if st.isFirmware then s1 else s1.countSched st.core .slip 1
  | none => s

/-- Instruction line arrival (R100): the line that the strand waits for is filled, and it goes on. -/
def execInstructionLineArrival (who : Who) (s : State) : Host.Outcome State Fault Refusal :=
  match s.findStrand who with
  | none => .next s
  | some i =>
    match s.strands[i]? with
    | none => .next s
    | some st =>
      if st.park != some .fetch then .next s
      else
        let s1 := match fetchSeq st maxWords [] [] (s.paidBy st.who.ctx st.who.gang st.core.die) with
          | (s1, .miss v line) => s1.icFill st.isFirmware st.core.die st.core.quad st.who.ctx v line
          | _ => s
        .next (s1.modStrand i (fun x => x.wake s1.cycle))

/-- Walk complete (R42): the walk of the fetch of the strand at a place ends; it installs the leaf, or reports its fault. -/
def execWalkComplete (n : Nat) (s : State) : Host.Outcome State Fault Refusal :=
  match s.strands[n]? with
  | none => .next s
  | some st =>
    if st.state != .active || !(field st.pc 63 60 == 0 || field st.pc 63 60 == 1 || field st.pc 63 60 == 4)
        || field st.pc 59 57 != 0 then .next s
    else
      match s.translate st.fetchReq (field st.pc 56 0) with
      | (s1, .ok _) => .next s1
      | (s1, .bad f) => .next (s1.fetchFault n f st.pc)

/-- Illegal instruction word (R148): the word that the issuing strand decodes is none, and the trap is taken. -/
def execIllegalInstructionWord (s : State) : Host.Outcome State Fault Refusal :=
  match s.strands[s.cur]? with
  | none => .next s
  | some st =>
    match st.owed with
    | some t => .next ((s.modCur (fun x => { x with owed := none })).takeTrap s.cur t st.pc (rptstateNow st))
    | none => .next (s.takeTrap s.cur { Trap.illegal with done := st.doneNow } st.pc (rptstateNow st))

/-- What a strand does when it is its turn, up to the sequence it issues: the state, and the instruction to execute if there is one. -/
def State.fetchFor (s : State) (idx : Nat) : State × Option Instr :=
  match s.strands[idx]? with
  | none => (s, none)
  | some st =>
    if st.state != .active then (s, none)
    else
      let s0 := { s.modStrand idx (fun x => { x with yielded := false, issueSince := s.cycle }) with
        cur := idx
        payer := some (st.who.ctx, s.queueFor st.who.ctx st.who.gang, st.core.die) }
      match fetchSeq st maxWords [] [] s0 with
      | (s1, .instr i) => (s1, some i)
      | (s1, .illegal) => (s1, some .illegalInstructionWord)
      | (s1, .miss _ _) => (s1.fetchMiss idx, none)
      | (s1, .bad f a) => (s1.fetchFault idx f a, none)

end Sys2Proof.Machine
end

