-- ==== Sys2Proof/Machine/HomeEvents.lean ====
section
/-! DEFINITION. The accesses of strands performed at their homes as events of their own (R73, R82, R85, R363), and deferred results
(R123). -/

namespace Sys2Proof.Machine

open Sys2Proof

/-- A pending access of a kind performed at its L2 home: not held back by an earlier one of its strand, and with a way for its lines
(R73, R366). -/
def State.performAt (s : State) (id : Nat) (kind : Access → Bool) : State :=
  match s.reqs.find? (fun r => r.id == id) with
  | some r =>
    if kind r.access && !isVault r.addr && !blocked s.reqs r && s.l2Ready r.addr r.size then s.perform r else s
  | none => s

/-- Home read (R363). -/
def execHomeRead (id : Nat) (s : State) : Host.Outcome State Fault Refusal :=
  .next (s.performAt id (fun a => match a with | .read _ => true | _ => false))

/-- Home write (R363). -/
def execHomeWrite (id : Nat) (s : State) : Host.Outcome State Fault Refusal :=
  .next (s.performAt id (fun a => match a with | .write _ => true | _ => false))

/-- Home atomic (R85). -/
def execHomeAtomic (id : Nat) (s : State) : Host.Outcome State Fault Refusal :=
  .next (s.performAt id (fun a => match a with | .atomic .. | .cas .. => true | _ => false))

/-- Home reduction (R82, R84). -/
def execHomeReduction (id : Nat) (s : State) : Host.Outcome State Fault Refusal := .next (s.performAt id Access.isRed)

/-- The strand is held for a way of a set, and its line can be given one now. -/
def State.wayFound (s : State) (slice : BitVec 4) (set : BitVec 15) (st : Strand) : Bool :=
  match st.park with
  | some (.way l) => (isVault l || s.homeSlot l == (slice.toNat, set.toNat)) && s.l2Ready l 1
  | _ => false

/-- A fill held for an unpinned way proceeds (R73): the first access to the set that can now be performed is; a strand whose instruction is held
for a way of the set issues it again. -/
def execL2FillUnpinResume (slice : BitVec 4) (set : BitVec 15) (s : State) : Host.Outcome State Fault Refusal :=
  let here := fun (r : Req) => (isDevice r.addr || isHost r.addr)
    && (linesOf r.addr r.size).any (fun l => s.homeSlot l == (slice.toNat, set.toNat))
  match s.reqs.find? (fun r => here r && !r.access.special && !blocked s.reqs r && s.l2Ready r.addr r.size) with
  | some r => .next (s.perform r)
  | none =>
    match s.strands.findIdx? (s.wayFound slice set) with
    | some i => .next (s.modStrand i (fun st => st.wake s.cycle))
    | none => .next s

/-- Deferred result arrival (R123): a result of which no access is outstanding is written. A strand that holds for remote replies takes
its result with the last of them (R228). -/
def execDeferredResultArrival (id : Nat) (s : State) : Host.Outcome State Fault Refusal :=
  match s.results.find? (fun r => r.id == id) with
  | some r =>
    let remote := s.strands.any (fun (st : Strand) => st.who == r.who && (match st.remote with | some x => x.result == id | none => false))
    if r.pending.isEmpty && !remote then .next (s.arrive r) else .next s
  | none => .next s

end Sys2Proof.Machine
end

