-- ==== Sys2Proof/Machine/Sync.lean ====
section
/-! DEFINITION. Fences, releases, acquires, regions, barriers, transaction barriers, condition monitors, leases and instruction
prefetch: uniform opcodes 0x50 to 0x5B (R265 to R278, R280, R281), and the events that end their waits. -/

namespace Sys2Proof.Machine

open Sys2Proof

/-! ### Objects and prior accesses (R265, R268) -/

/-- The place of an object, on one of the paths of Table 5 of its chapter (R265); a write to it has not yet reached its home. -/
def State.findObject (s : State) (st : Strand) (a : W64) (align : Nat) (kind : AccessKind) (paths : List Nat) :
    State × Ans (Place × Bool) :=
  if paths.contains (field a 63 60) then s.route (st.xreq kind) (s.gangOf st) a align else (s, .bad pathFault)

/-- The place of an object that is accessed at once. -/
def State.placeObject (s : State) (st : Strand) (a : W64) (align : Nat) (kind : AccessKind) (paths : List Nat) :
    State × Ans (Place × Bool) :=
  if paths.contains (field a 63 60) then s.placeUniform st a align kind else (s, .bad pathFault)

/-- What an instruction finds that makes prior accesses visible at a scope and checks sr.rfault (R268): a wait for posted stores, the
remote-store fault, or the state in which every prior access is performed. -/
inductive Prior where
  | wait
  | trap
  | ready (s : State)

/-- Prior accesses made visible at a scope (R268 steps 1 to 3); scope 4 is `.pod`. -/
def State.settlePrior (s : State) (st : Strand) (scope : Nat) : Prior :=
  if scope == 4 && st.posted != 0 then .wait
  else if st.storeFaulted then .trap
  else .ready (s.drain st.who)

/-- An instruction that follows every prior access of its strand. -/
def afterPrior (scope : Nat) (st : Strand) (s : State) (f : State → State × After) : State × After :=
  match s.settlePrior st scope with
  | .wait => (s.modCur (fun x => x.hold .posted), .again)
  | .trap => (s.drain st.who, .trap Trap.remoteStore)
  | .ready s1 => f s1

/-- `fence` (R268). -/
def execFence (px : Pfx) (n : BitVec 1) (g : BitVec 3) (s : State) : Host.Outcome State Fault Refusal :=
  issue (.fence px n g) (withStrand (fun st s =>
    afterPrior g.toNat st s (fun s => (if n == 1 then s.l1InvalidateCtx st.core st.who.ctx else s, .done)))) s

/-- The 8-byte write of a release at the object's home (R269): never through an L1 line's place of its own, and posted to a peer. -/
def releaseAccess (add : Bool) (p : Place) (x : W64) : Access :=
  if add then (match p with | .peer .. => .redInt true 0 x | _ => .atomic true 0 x) else .write (leBytes 8 x.toNat)

/-- A strand that has sent posted requests goes on with the next sequence once they are acknowledged (R269). -/
def State.holdPosted (s : State) (i : Instr) : State × After :=
  match s.strands[s.cur]? with
  | some st => if st.posted == 0 then (s, .done) else (s.modCur (fun x => (x.retire (nextPc i x)).hold .posted), .again)
  | none => (s, .done)

/-- `rel` (R269): the object write reaches its home after the prior writes, where it takes the slot of an unbacked page (R62); one to a peer is
awaited, since no later write of the strand may be visible before it. -/
def execRel (px : Pfx) (a b : BitVec 6) (x : BitVec 1) (g : BitVec 3) (s : State) : Host.Outcome State Fault Refusal :=
  issue (.rel px a b x g) (withStrand (fun st s =>
    let addr := st.wpair a.toNat
    match s.findObject st addr 8 .write [0, 1] with
    | (s1, .bad f) => (s1, .trap (wholeTrap f addr))
    | (s1, .ok (p, _)) =>
      if s1.placeWaits st.who p then (s1.modCur (fun y => y.hold .posted), .again)
      else
        afterPrior g.toNat st s1 (fun s2 =>
          match s2.reachHome .write p with
          | (s3, .bad f) => (s3, .trap (wholeTrap f addr))
          | (s3, .ok _) => (s3.startAccess st (releaseAccess (x == 1) p (st.wpair b.toNat)) 8 none addr true p).holdPosted (.rel px a b x g)))) s

/-- `acq` (R270): the value is read at the home, and the regions bound at that instant are invalidated. -/
def execAcq (px : Pfx) (d a : BitVec 6) (g : BitVec 3) (s : State) : Host.Outcome State Fault Refusal :=
  issue (.acq px d a g) (withStrand (fun st s =>
    let addr := st.wpair a.toNat
    match s.placeObject st addr 8 .read [0, 1] with
    | (s1, .bad f) => (s1, .trap (wholeTrap f addr))
    | (s1, .ok (p, _)) =>
      match p.addr with
      | some x =>
        let (s2, v) := (s1.drainAt st.who x 8).homeNat x 8
        let s3 := s2.regionInvalidate st.core st.who.ctx (BitVec.ofNat 57 (field addr 56 0))
        (s3.deferW st [(d.toNat, BitVec.ofNat 32 v), (d.toNat + 1, BitVec.ofNat 32 (v / 2 ^ 32))], .done)
      | none =>
        if s1.placeWaits st.who p then (s1.modCur (fun y => y.hold .posted), .again)
        else
          let id := s1.nextId
          let ws := [d.toNat, d.toNat + 1]
          let s2 := (s1.defer st { Result.blank st.who with wregs := ws }).holdRemote st.who (.acq px d a g) ⟨id, none, 0, [], none⟩
          ((s2.startAccess st (.read 8) 8 (some ⟨id, none, ws, none⟩) addr true p).finishRemote s2.cur, .again))) s

/-! ### Regions (R271) -/

/-- The faults of a binding's operands: the object's path, then the region's path and alignment. -/
def bindFault (obj base : W64) (k : Nat) : Option Trap :=
  if 1 < field obj 63 60 || field obj 59 57 != 0 then some (wholeTrap pathFault obj)
  else if k == 63 then none
  else if field base 63 57 != 0 then some (wholeTrap pathFault base)
  else if base.toNat % 2 ^ k != 0 then some (wholeTrap alignFault base)
  else none

/-- A binding's entry. -/
def regionOf (ctx : BitVec 12) (obj base : W64) (k : Nat) : Region := ⟨ctx, BitVec.ofNat 57 obj.toNat, BitVec.ofNat 57 base.toNat, k⟩

/-- A change of a context's bindings is about to be made: of each `acq` whose reply from a peer is outstanding, the read has been performed there
already, with the bindings as they stand, or has not: the spec fixes no instant (log entry 3). -/
def State.settleAcquires (s : State) (ctx : BitVec 12) : State :=
  (List.range s.strands.length).foldl (fun (s : State) i =>
    match s.strands[i]? with
    | none => s
    | some st =>
      match st.remote, st.waiting with
      | some r, some (.acq _ _ a _) =>
        if st.who.ctx != ctx || r.bound.isSome then s
        else
          let (done, s1) := s.freeBool
          if done then
            s1.modStrand i (fun x => { x with remote := some { r with
              bound := some (s1.regionsOf ctx (BitVec.ofNat 57 (field (st.wpair a.toNat) 56 0))) } })
          else s1
      | _, _ => s) s

/-- `bind`. -/
def execBind (px : Pfx) (d a b k : BitVec 6) (s : State) : Host.Outcome State Fault Refusal :=
  issue (.bind px d a b k) (withStrand (fun st s =>
    let obj := st.wpair a.toNat
    let base := st.wpair b.toNat
    match bindFault obj base k.toNat with
    | some t => (s, .trap t)
    | none =>
      let r := regionOf st.who.ctx obj base k.toNat
      if s.regions.contains r then (s.deferW st [(d.toNat, 0)], .done)
      else if 1024 ≤ (s.regions.filter (fun x => x.ctx == st.who.ctx)).length then (s.deferW st [(d.toNat, 1)], .done)
      else
        let s1 := s.settleAcquires st.who.ctx
        (({ s1 with regions := s1.regions ++ [r] } : State).deferW st [(d.toNat, 0)], .done))) s

/-- `unbind`. -/
def execUnbind (px : Pfx) (d a b k : BitVec 6) (s : State) : Host.Outcome State Fault Refusal :=
  issue (.unbind px d a b k) (withStrand (fun st s =>
    let obj := st.wpair a.toNat
    let base := st.wpair b.toNat
    match bindFault obj base k.toNat with
    | some t => (s, .trap t)
    | none =>
      let r := regionOf st.who.ctx obj base k.toNat
      let hit := fun (x : Region) => if k == 63 then x.ctx == r.ctx && x.obj == r.obj else x == r
      let st0 : Word := if s.regions.any hit then 0 else 1
      let s1 := s.settleAcquires st.who.ctx
      (({ s1 with regions := s1.regions.filter (fun x => !hit x) } : State).deferW st [(d.toNat, st0)], .done))) s

/-! ### Barriers (R272) -/

/-- The scope that an arrival's release has (R272). -/
def barScope (l : Nat) : Nat := match l with | 0 => 0 | 1 => 1 | _ => 3

/-- `bar` (R272). At the launch level it is illegal also in a node kernel with LBAR whose launch, having a root without it, holds no counter
(DESIGN CHOICE, log entry 25). -/
def execBar (px : Pfx) (n : BitVec 1) (l : BitVec 2) (s : State) : Host.Outcome State Fault Refusal :=
  issue (.bar px n l) (withStrand (fun st s =>
    match s.gangOf st with
    | none => (s, .trap Trap.illegal)
    | some g =>
      if st.isFirmware || (l == 2 && !(g.kernel.lbar && s.coresident g)) then (s, .trap Trap.illegal)
      else
        afterPrior (barScope l.toNat) st s (fun s1 =>
          let c := match l.toNat with | 0 => Counter.wg st.who.wg.toNat | 1 => Counter.gang | _ => Counter.launch
          ((s1.park s1.cur (.bar l.toNat (n == 1)) (.bar px n l)).arriveAt st c, .again)))) s

/-! ### Transaction barriers (R274 to R276) -/

/-- The place of a transaction-barrier object (R274). -/
def State.placeTbar (s : State) (st : Strand) (a : W64) (kind : AccessKind) : State × Ans Place :=
  match s.findObject st a 16 kind [0, 1, 2, 3] with
  | (s1, .bad f) => (s1, .bad f)
  | (s1, .ok (p, far)) => if far then (s1, .bad targetFault) else (s1, .ok p)

/-- A request of a strand to its home, for the flat address `va`. -/
def State.sendHome (s : State) (st : Strand) (va : W64) (addr size : Nat) (acc : Access) : State :=
  { s with
    nextId := s.nextId + 1
    reqs := s.reqs ++ [⟨s.nextId, st.who, st.core, st.who.ctx, addr, size, acc, none, vlineOf (field va 56 0), BitVec.ofNat 4 (field va 63 60)⟩] }

/-- The bits of the registers that a wait will write are cleared (R123). -/
def State.clearWait (s : State) : State := s.modCur (fun x => x.clearBits [] x.waitRegs)

/-- An update of an object sent to its home, which takes the slot of an unbacked page (R62): the strand holds until it is applied. -/
def State.sendTbar (s : State) (st : Strand) (i : Instr) (va : W64) (p : Place) (arrive : Nat) (expect : Word) : State :=
  ((s.holdAt s.cur .tbar i).clearWait).sendHome st va (p.addr.getD 0) 16
    (.tbar arrive expect.toNat (match p with | .page q _ => some q | _ => none))

/-- `tbar.arrive` (R276). -/
def execTbarArrive (px : Pfx) (d a b : BitVec 6) (g : BitVec 3) (s : State) : Host.Outcome State Fault Refusal :=
  issue (.tbarArrive px d a b g) (withStrand (fun st s =>
    let addr := st.wpair a.toNat
    match s.placeTbar st addr .write with
    | (s1, .bad f) => (s1, .trap (wholeTrap f addr))
    | (s1, .ok p) =>
      afterPrior g.toNat st s1 (fun s2 =>
        (s2.sendTbar st (.tbarArrive px d a b g) addr p 1 (st.wreg b.toNat), .again)))) s

/-- `tbar.expect` (R276). -/
def execTbarExpect (px : Pfx) (a b : BitVec 6) (s : State) : Host.Outcome State Fault Refusal :=
  issue (.tbarExpect px a b) (withStrand (fun st s =>
    let addr := st.wpair a.toNat
    match s.placeTbar st addr .write with
    | (s1, .bad f) => (s1, .trap (wholeTrap f addr))
    | (s1, .ok p) =>
      ((s1.drainAt st.who (p.addr.getD 0) 16).sendTbar st (.tbarExpect px a b) addr p 0 (st.wreg b.toNat), .again))) s

/-- A monitor arm sent to the word's home (R78). -/
def State.sendArm (s : State) (st : Strand) (va : W64) (addr : Nat) (wide : Bool) (cond : BitVec 4) (val : W64) : State :=
  s.sendHome st va addr (if wide then 8 else 4) (.arm wide cond val)

/-- The waits held at the vault of a quad. -/
def State.vaultList (s : State) (d : Die) (q : Quad) : Nat := (s.vaultWaits.filter (fun w => w.die == d && w.quad == q)).length

/-- The die and quad of a vault address. -/
def vaultOf (a : Nat) : Die × Quad :=
  let n := (a - Config.vaultBase) / Config.vaultSize
  (BitVec.ofNat 2 (n / 16), BitVec.ofNat 4 n)

/-- A `tbar.wait` on a vault object that has not ended: held in the vault's list, or read again later when it is full (R276). -/
def State.vaultPark (s : State) (idx : Nat) (i : Instr) (st : Strand) (addr : Nat) (phase : Word) : State :=
  let (d, q) := vaultOf addr
  if s.vaultList d q < 64 then
    { s.park idx .tbar i with vaultWaits := s.vaultWaits ++ [⟨d, q, addr, phase, st.who⟩] }
  else s.park idx (.rearm (s.cycle + 1024) none) i

/-- A `tbar.wait` arms at the home of its object's phase (R276): the strand at an index is parked. -/
def State.armTbar (s : State) (idx : Nat) (i : Instr) (st : Strand) (va : W64) (addr : Nat) (phase : Word) : State :=
  (s.park idx .tbar i).sendArm st (va + 12) (addr + 12) false 1 (phase.setWidth 64)

/-- `tbar.wait` (R276). -/
def execTbarWait (px : Pfx) (d a b : BitVec 6) (s : State) : Host.Outcome State Fault Refusal :=
  issue (.tbarWait px d a b) (withStrand (fun st s =>
    let addr := st.wpair a.toNat
    match s.placeTbar st addr .read with
    | (s1, .bad f) => (s1, .trap (wholeTrap f addr))
    | (s1, .ok p) =>
      let x := p.addr.getD 0
      let (s2, v) := (s1.drainAt st.who x 16).homeNat (x + 12) 4
      if v != (st.wreg b.toNat).toNat then (s2.deferW st [(d.toNat, BitVec.ofNat 32 v)], .done)
      else if isVault x then ((s2.vaultPark s2.cur (.tbarWait px d a b) st x (st.wreg b.toNat)).clearWait, .again)
      else ((s2.armTbar s2.cur (.tbarWait px d a b) st addr x (st.wreg b.toNat)).clearWait, .again))) s

/-- Transaction-barrier update (R275): applied at the home, after which the waits held at a vault are tested. -/
def execTbarUpdate (id : Nat) (s : State) : Host.Outcome State Fault Refusal :=
  match s.reqs.find? (fun r => r.id == id) with
  | none => .next s
  | some r =>
    match r.access with
    | .tbar arrive expect page => .next (if blocked s.reqs r then s else s.arriveTbar r arrive expect page)
    | _ => .next s

/-- Transaction-barrier vault poll (R276): the phase is read again 1,024 cycles after the list was found full. -/
def execTbarVaultPoll (who : Who) (s : State) : Host.Outcome State Fault Refusal :=
  match s.findStrand who with
  | none => .next s
  | some i =>
    match s.strands[i]? with
    | none => .next s
    | some st =>
      match st.park, st.waiting with
      | some (.rearm t _), some (.tbarWait px d a b) =>
        let s0 : State := { s with cycle := max s.cycle t }
        match s0.vaultPlace st.who.ctx (s0.gangOf st) (st.wpair a.toNat) with
        | .ok x =>
          let (s1, now) := s0.homeNat (x + 12) 4
          if now != (st.wreg b.toNat).toNat then .next (s1.deliverTo who (BitVec.ofNat 64 now))
          else .next (s1.vaultPark i (.tbarWait px d a b) st x (st.wreg b.toNat))
        | .bad f => .next (s0.takeTrap i (wholeTrap f (st.wpair a.toNat)) st.pc 0)
      | _, _ => .next s

/-! ### Condition monitors (R277, R278) -/

/-- The arm of a `waitc` (R277): at the home of a word of this package, or at the peer's. -/
def State.armWaitc (s : State) (idx : Nat) (st : Strand) (i : Instr) (addr : W64) (wide : Bool) (cond : BitVec 4) (val : W64)
    (until_ : Option Nat) : State × Option Trap :=
  match s.placeObject st addr (if wide then 8 else 4) .read [0, 1, 4] with
  | (s1, .bad f) => (s1, some (wholeTrap f addr))
  | (s1, .ok (p, _)) =>
    match p with
    | .peer pkg dpa =>
      if !s1.reachable pkg then (s1, some ⟨0x19, 0x1F, none, 0, addr, 0⟩)
      else if s1.routeStale.contains pkg then (s1.park idx (.rearm (s1.cycle + 1024) until_) i, none)
      else ((s1.park idx (.waitc until_) i).sendPeer (some st.who) st.who.ctx pkg dpa addr (.arm wide cond val) none, none)
    | _ => ((s1.park idx (.waitc until_) i).sendArm st addr (p.addr.getD 0) wide cond val, none)

/-- The comparand of a `waitc`. -/
def waitcVal (st : Strand) (b : BitVec 6) (x : BitVec 1) : W64 := if x == 1 then st.wpair b.toNat else (st.wreg b.toNat).setWidth 64

/-- `waitc` (R277): `x` is D. The timeout of wd counts from the arm. -/
def execWaitc (px : Pfx) (d a b : BitVec 6) (x : BitVec 1) (c : BitVec 4) (s : State) : Host.Outcome State Fault Refusal :=
  issue (.waitc px d a b x c) (withStrand (fun st s =>
    let t := (st.wreg d.toNat).toNat
    match s.armWaitc s.cur st (.waitc px d a b x c) (st.wpair a.toNat) (x == 1) c (waitcVal st b x)
        (if t == 0 then none else some (s.cycle + t)) with
    | (s1, some tr) => (s1, .trap tr)
    | (s1, none) => (s1.clearWait, .again))) s

/-- Monitor arm (R78): at the home the word is read, and the arm completes at once, makes an entry, or is refused. -/
def execMonitorArm (id : Nat) (s : State) : Host.Outcome State Fault Refusal :=
  match s.reqs.find? (fun r => r.id == id) with
  | none => .next s
  | some r =>
    match r.access with
    | .arm wide cond val => .next (if blocked s.reqs r then s else s.arriveArm r wide cond val)
    | _ => .next s

/-- A wake for the strand is held: its gang is frozen or swapped out, and takes it when it resumes (R81, R452). -/
def State.wakeHeld (s : State) (w : Who) : Bool := !s.wakeable w && (s.swapped.any (fun x => x.1 == w.ctx && x.2.1 == w.gang)
  || (s.findGang w.ctx w.gang).isSome)

/-- Monitor wake delivery (R79): the `n`-th wake on its way reaches its strand. -/
def execMonitorWakeDelivery (n : Nat) (s : State) : Host.Outcome State Fault Refusal :=
  match s.wakes[n]? with
  | none => .next s
  | some w =>
    if s.wakeHeld w.who then .next s
    else .next ({ s with wakes := s.wakes.eraseIdx n }.deliverTo w.who w.value)

/-- Monitor re-arm (R80): 1,024 cycles after a refusal the core arms again, and a wait on a vault object reads its phase again (R276); other waits
issue their instruction again, and an engine looks again at its word before it arms. -/
def execMonitorRearm (who : Who) (s : State) : Host.Outcome State Fault Refusal :=
  match s.findStrand who with
  | none =>
    match s.armed.find? (fun e => e.who == who) with
    | some ⟨_, some t⟩ => .next { s with cycle := max s.cycle t, armed := s.armed.filter (fun e => e.who != who) }
    | _ => .next s
  | some i =>
    match s.strands[i]? with
    | none => .next s
    | some st =>
      match (if st.state == .frozen then none else st.park), st.waiting with
      | some (.rearm t u), some (.waitc px d a b x c) =>
        let s0 : State := { s with cycle := max s.cycle t }
        (match s0.armWaitc i st (.waitc px d a b x c) (st.wpair a.toNat) (x == 1) c (waitcVal st b x) u with
        | (s1, some tr) => .next (s1.takeTrap i tr st.pc 0)
        | (s1, none) => .next s1)
      | some (.rearm t _), some (.tbarWait px d a b) =>
        let va := st.wpair a.toNat
        if field va 63 60 == 2 || field va 63 60 == 3 then execTbarVaultPoll who s
        else
          let s0 : State := { s with cycle := max s.cycle t }
          (match s0.placeTbar st va .read with
          | (s1, .bad f) => .next (s1.takeTrap i (wholeTrap f va) st.pc 0)
          | (s1, .ok p) => .next (s1.armTbar i (.tbarWait px d a b) st va (p.addr.getD 0) (st.wreg b.toNat)))
      | some (.rearm t _), some _ =>
        let s0 : State := { s with cycle := max s.cycle t }
        .next (s0.modStrand i (fun x => x.reissueWait s0.cycle))
      | _, _ => .next s

/-- The timeout of a wait. -/
def Strand.timeout (st : Strand) : Option Nat :=
  match st.park with
  | some (.waitc u) => u
  | some (.rearm _ u) => u
  | _ => none

/-- `waitc` timeout (R277): the core cancels the entry. -/
def execWaitcTimeout (who : Who) (s : State) : Host.Outcome State Fault Refusal :=
  match s.findStrand who with
  | none => .next s
  | some i =>
    match s.strands[i]? with
    | none => .next s
    | some st =>
      match (if st.state == .frozen then none else st.timeout) with
      | none => .next s
      | some t =>
        let s0 : State := { s with cycle := max s.cycle t, cancels := s.cancels ++ [who] }
        .next (s0.modStrand i (fun x => { x with park := some (.waitc none) }))

/-- Monitor cancel (R81): it reaches the home. An entry is freed, and the wait ends with the word's value there; a wake processed first
stands. An entry at a peer is cancelled by a packet, which the peer answers (R452); an arm that the peer has refused is made again first. -/
def execMonitorCancel (who : Who) (s : State) : Host.Outcome State Fault Refusal :=
  match s.findStrand who with
  | none => .next s
  | some i =>
    match s.strands[i]? with
    | none => .next s
    | some st =>
      if !s.cancels.contains who then .next s
      else
        let s0 : State := { s with cancels := s.cancels.filter (· != who) }
        match st.waiting with
        | some (.waitc _ _ a _ x c) =>
          if s0.wakes.any (fun w => w.who == who) then .next s0
          else
            match s0.placeObject st (st.wpair a.toNat) (if x == 1 then 8 else 4) .read [0, 1, 4] with
            | (s1, .ok (.peer pkg dpa, _)) =>
              if !s1.peerArms.any (fun y => y.who == who) then
                .next (s1.modStrand i (fun y => { y with park := some (.rearm s1.cycle (some s1.cycle)) }))
              else
                let s2 : State := { s1 with peerArms := s1.peerArms.map (fun (y : PeerArm) => if y.who == who then { y with cancelled := true } else y) }
                .next (s2.send { ctx := who.ctx, kind := 12, dst := pkg, addr := dpa }
                (leBytes 8 0 ++ [BitVec.ofNat 8 (c.toNat + if x == 1 then 16 else 0)] ++ armTail who))
            | (s1, .ok (p, _)) =>
              let s2 : State := { s1 with
                monitors := s1.monitors.filter (fun (m : Monitor) => m.who != who || m.pkg.toNat != s1.package)
                reqs := s1.reqs.filter (fun (r : Req) => !(r.who == who && r.access.special)) }
              let (s3, v) := s2.homeNat (p.addr.getD 0) (if x == 1 then 8 else 4)
              .next (s3.deliverTo who (BitVec.ofNat 64 v))
            | (s1, .bad f) => .next (s1.takeTrap i (wholeTrap f (st.wpair a.toNat)) st.pc 0)
        | _ => .next s0

/-! ### Leases and instruction prefetch (R280, R281) -/

/-- A strand dropped from the active set (R409 to R411): it waits for admission, its lines demoted. -/
def State.dropStrand (s : State) (idx : Nat) (k : SchedCounter) : State :=
  match s.strands[idx]? with
  | some st =>
    ((s.modStrand idx (fun x => { x with state := .waiting, waitSince := s.cycle })).demote st.who true).countSched st.core k 1
  | none => s

/-- `lease` (R280): a lease that no longer fits takes the strand out of the active set (R409). -/
def execLeaseW (px : Pfx) (a : BitVec 6) (s : State) : Host.Outcome State Fault Refusal :=
  issue (.leaseW px a) (withStrand (fun st s =>
    let n := (st.wreg a.toNat).toNat
    let s1 := s.modCur (fun x =>
      if n == 0 then { x with leaseDecl := false } else { x with leaseDecl := true, leaseLines := min n 2048 })
    let others := s1.strands.any (fun (x : Strand) => x.core == st.core && x.inActiveSet && !x.isFirmware && x.who != st.who)
    if !st.isFirmware && others && coreGet s1.budgets 2048 st.core < s1.activeLines st.core then
      ((s1.modCur (fun x => x.retire (nextPc (.leaseW px a) st))).dropStrand s1.cur .drop, .again)
    else (s1, .done))) s

/-- Instruction lines asked for ahead of use (R102): each is filled unless it is present or its checks fail. -/
def prefetchLines (st : Strand) : Nat → W64 → State → State
  | 0, _, s => s
  | n + 1, a, s =>
    let v := vlineOf (field a 56 0)
    let s1 :=
      if !(field a 63 60 == 0 || field a 63 60 == 1 || field a 63 60 == 4) || field a 59 57 != 0 then s
      else
        match s.translate st.fetchReq (field a 56 0) with
        | (s1, .ok (p, _)) =>
          (match p.addr, s1.icLine st.core.die st.core.quad st.who.ctx v with
          | some x, none =>
            if s1.l2Ready (lineOf x) 128 then s1.icFill st.isFirmware st.core.die st.core.quad st.who.ctx v (lineOf x) else s1
          | _, _ => s1)
        | (s1, .bad _) => s1
    prefetchLines st n (a + 128) s1

/-- `ipf` (R102, R281): each prefetch of the model is over in the step that makes it, so none is in flight when the next one starts, and the limit of
16 in flight drops none of the lines, of which there are at most 64. -/
def execIpf (px : Pfx) (a b : BitVec 6) (s : State) : Host.Outcome State Fault Refusal :=
  issue (.ipf px a b) (withStrand (fun st s =>
    (prefetchLines st (min 64 (st.wreg b.toNat).toNat) (BitVec.ofNat 64 (lineOf (st.wpair a.toNat).toNat)) s, .done))) s

end Sys2Proof.Machine
end

