-- ==== Sys2Proof/Machine/Sections.lean ====
section
/-! DEFINITION. The per-lane section instructions, opcodes 0x75 to 0x77 (R279, R418, R422, R426). -/

namespace Sys2Proof.Machine

open Sys2Proof

/-- The lanes of a section instruction with their keys and sequence words (R418). -/
def sectionLanes (i : Instr) (st : Strand) : List (Nat × W64 × Word) :=
  let f := fieldsAt i 0
  (lanesOf (st.active i.px)).map (fun l => (l, srcA2 i.px f st l, srcB i.px f st l))

/-- The sequence number of a sequence word; bit 31 is CLOSE (R418). -/
def seqOf (q : Word) : BitVec 31 := q.extractLsb' 0 31

/-- The lanes that share a key with another lane; with `any`, those that share the sequence number too (R279). -/
def conflictMask (any : Bool) (l : List (Nat × W64 × Word)) : Word :=
  buildMask (fun j => l.any (fun x => x.1 == j && l.any (fun y =>
    y.1 != j && y.2.1 == x.2.1 && (!any || seqOf y.2.2 == seqOf x.2.2))))

/-- The lane whose request `osenter.any` sends for a key (R279): the one that holds the section or has a request stored, or the
lowest sequence number. -/
def State.anyLane (s : State) (w : Who) (k : W64) (l : List (Nat × W64 × Word)) : Nat :=
  let mine := l.filter (fun x => x.2.1 == k)
  let low := (mine.foldl (fun (b : Option (Nat × W64 × Word)) x =>
    match b with
    | some y => if (seqOf x.2.2).ult (seqOf y.2.2) then some x else some y
    | none => some x) none).map (fun x => x.1)
  match s.keyLane w k with
  | some j => if mine.any (fun x => x.1 == j) then j else low.getD 32
  | none => low.getD 32

/-- `osenter` and `osenter.any` with some lane active: the requests are sent, and the strand parks until they are answered. -/
def enterBody (i : Instr) (any : Bool) : Body := fun _ s =>
  match s.strands[s.cur]? with
  | none => (s, .done)
  | some st =>
    let lanes := sectionLanes i st
    let clash := conflictMask any lanes
    if lanes.isEmpty then
      (match anyMask (some i) with
      | some m => (s.modCur (fun x => x.setM m 0), .done)
      | none => (s, .done))
    else if clash != 0 then (s, .trap ⟨0x2B, 0, some clash, 0, 0, 0⟩)
    else
      let asked := lanes.filter (fun x => !any || s.anyLane st.who x.2.1 lanes == x.1)
      let entry := fun (x : Nat × W64 × Word) =>
        (⟨x.1, x.2.1, seqOf x.2.2, if asked.any (fun y => y.1 == x.1) then .sent else .idle⟩ : SectionLane)
      let s1 := s.park s.cur (if any then .osenterAny else .osenter) i
      let s2 := s1.modCur (fun x => { x with entering := lanes.map entry })
      ({ s2 with keyMsgs := s2.keyMsgs ++ asked.map (fun x =>
          ⟨.request, st.who.ctx, x.2.1, seqOf x.2.2, st.who, x.1, 0⟩) }, .again)

/-- `osenter` (R279). -/
def execOsenter (px : Pfx) (a b : BitVec 8) (s : State) : Host.Outcome State Fault Refusal :=
  issue (.osenter px a b) (enterBody (.osenter px a b) false) s

/-- `osenter.any` (R279). -/
def execOsenterAny (px : Pfx) (m : BitVec 3) (a b : BitVec 8) (s : State) : Host.Outcome State Fault Refusal :=
  issue (.osenterAny px m a b) (enterBody (.osenterAny px m a b) true) s

/-- `osleave` (R279, R423): every active lane holds its section, or no lane leaves. -/
def execOsleave (px : Pfx) (a b : BitVec 8) (s : State) : Host.Outcome State Fault Refusal :=
  issue (.osleave px a b) (withStrand (fun st s =>
    let lanes := sectionLanes (.osleave px a b) st
    let s1 := s.drain st.who
    match lanes.find? (fun x => !s1.holds st.who x.1 x.2.1 (seqOf x.2.2)) with
    | some x =>
      (s1, .trap ⟨0x2A, 1, some (buildMask (fun j => lanes.any (fun y => y.1 == j && !s1.holds st.who y.1 y.2.1 (seqOf y.2.2)))), 0,
        x.2.1, 0⟩)
    | none =>
      ({ s1 with keyMsgs := s1.keyMsgs ++ lanes.map (fun x =>
          ⟨.leave (x.2.2.getLsbD 31), st.who.ctx, x.2.1, seqOf x.2.2, st.who, x.1, 0⟩) }, .done))) s

end Sys2Proof.Machine
end

