-- ==== Sys2Proof/Machine/Posts.lean ====
section
/-! DEFINITION. Ring objects (R105, R106), the accesses of engines and Bureau agents, the faults they post to the firmware slots, and the
answers (R117, R436). -/

namespace Sys2Proof.Machine

open Sys2Proof

/-! ### Accesses of engines -/

/-- An engine's access for a context: through a quad's TLB, with the checks of the context's strands (R39, R41). -/
def engineReq (ctx : BitVec 12) (slot : Slot) (d : Die) (q : Quad) (kind : AccessKind) : Xreq := ⟨ctx, slot, d, q, none, true, kind⟩

/-- The access is one of system software, for which U is not checked (R39). -/
def Xreq.system (q : Xreq) : Xreq := { q with user := false }

/-- The place in this package's stores of a flat address that an engine accesses; a peer's page is a target fault. A write to an unbacked
page has its slot afterwards. -/
def State.engineAddr (s : State) (q : Xreq) (g : Option Gang) (a : W64) (align : Nat) : State × Ans Nat :=
  match s.route q g a align with
  | (s1, .bad f) => (s1, .bad f)
  | (s1, .ok (p, _)) =>
    match p, s1.reachHome q.kind p with
    | .peer _ _, _ => (s1, .bad targetFault)
    | _, (s2, .bad f) => (s2, .bad f)
    | _, (s2, .ok _) => (s2, .ok (p.addr.getD 0))

/-- Bytes that an engine reads at their home. -/
def State.engineRead (s : State) (q : Xreq) (g : Option Gang) (a : W64) (align n : Nat) : State × Ans (List Byte) :=
  match s.engineAddr q g a align with
  | (s1, .ok x) => let r := s1.homeRead x n; (r.1, .ok r.2)
  | (s1, .bad f) => (s1, .bad f)

/-- The fault is one that an engine posts: malformed entry, translation, permission or capacity (R117). -/
def AFault.posts (f : AFault) : Bool := f.cls == 0x14 || f.cls == 0x15 || f.cls == 0x16 || f.cls == 0x18

/-! ### Accesses made one after another (R39, R265) -/

/-- What an access of a series gives: its bytes, a wait for a peer, or a fault. -/
inductive Step1 where
  | ok (bs : List Byte)
  | wait
  | bad (f : AFault)
  deriving DecidableEq, Repr

/-- The fault of an access that a peer cannot be asked for, or has answered with a fault (R453). -/
def peerFault (cls : BitVec 16) : AFault := ⟨8, 0x19, cls, 0⟩

/-- The number of an access among those to one place of a peer. -/
def Access.key : Access → Nat
  | .read _ => 0
  | .cas .. => 1
  | .atomic .. => 2
  | _ => 3

/-- The name of an access to a peer within a series. -/
def scriptKey (pkg : BitVec 9) (dpa kind : Nat) : Nat := (pkg.toNat * 2 ^ 40 + dpa) * 32 + kind

/-- The names of the accesses that an answer to a request of a KIND may belong to. -/
def answerKeys (r : PeerReq) : List Nat :=
  if r.kind == 0 then [scriptKey r.dst r.dpa 0] else if r.kind == 3 then [scriptKey r.dst r.dpa 1, scriptKey r.dst r.dpa 2]
  else [scriptKey r.dst r.dpa 3]

/-- One access of `n` bytes performed at its home, and the bytes it gives. -/
def State.accessAt (s : State) (x : Nat) (acc : Access) (n : Nat) : State × List Byte :=
  match acc with
  | .read _ => s.homeRead x n
  | .cas _ c new => let r := s.homeCas x n c.toNat new.toNat; (r.1, leBytes n r.2)
  | .atomic wide op y => let r := s.homeUpdate x n (fun v => (intOp wide op (BitVec.ofNat 64 v) y).toNat); (r.1, leBytes n r.2)
  | .write d => (s.homeWrite x d, [])
  | _ => (s, [])

/-- What the access does, for the permission checks. -/
def Access.accessKind : Access → AccessKind
  | .read _ => .read
  | _ => .write

/-- One access at a place, performed at its home (R265); at a peer's, the strand holds for the answer and issues its instruction again
with it in hand. -/
def State.seriesAt (s : State) (i : Instr) (w : Who) (a : W64) (p : Place) (acc : Access) (n : Nat) : State × Step1 :=
  match p with
  | .peer pkg dpa =>
    (match s.strands.find? (fun (st : Strand) => st.who == w) with
    | none => (s, .wait)
    | some st =>
      match st.script.find? (fun (e : Nat × List Byte) => e.1 == scriptKey pkg dpa acc.key) with
      | some e => (s, .ok e.2)
      | none =>
        if !s.reachable pkg then (s, .bad (peerFault 0x1F))
        else if s.peerWait w pkg dpa then (s.modWho w (fun x => x.hold .posted), .wait)
        else
          let s1 := s.sendPeer (some w) st.who.ctx pkg dpa a acc none
          let s2 : State := { s1 with peerReqs := s1.peerReqs.map (fun (r : PeerReq) =>
            if r.tag == BitVec.ofNat 16 s.nextId then { r with script := true } else r) }
          (s2.modWho w (fun x => { x.hold .remote with waiting := some i }), .wait))
  | _ => let r := s.accessAt (p.addr.getD 0) acc n; (r.1, .ok r.2)

/-- One access of a strand at a flat address, checked on the given paths (R245, R265), after the strand's own accesses to its bytes (R366); a
write refreshes the strand's L1 line as a store does, and an atomic takes it out (R94, Table 3). -/
def State.series (s : State) (i : Instr) (st : Strand) (a : W64) (align : Nat) (paths : List Nat) (acc : Access) (n : Nat) : State × Step1 :=
  match s.placeObject st a align acc.accessKind paths with
  | (s1, .bad f) => (s1, .bad f)
  | (s1, .ok (p, _)) =>
    match p.addr with
    | none => s1.seriesAt i st.who a p acc n
    | some x =>
      let (s2, r) := (s1.drainAt st.who x n).seriesAt i st.who a p acc n
      (s2.l1Effect ⟨0, st.who, st.core, st.who.ctx, x, n, acc, none, vlineOf (field a 56 0), BitVec.ofNat 4 (field a 63 60)⟩, r)

/-- The series is over: the answers in hand are let go. -/
def State.endSeries (s : State) : State := s.modCur (fun st => { st with script := [] })

/-- One access of an agent at a place: at a peer's, it is asked for once, and the agent's operation is made again with the answer in hand. -/
def State.agentAt (s : State) (key : AgentKey) (ctx : BitVec 12) (a : W64) (p : Place) (acc : Access) (n : Nat) : State × Step1 :=
  match p with
  | .peer pkg dpa =>
    (match s.scripts.find? (fun (e : AgentKey × Nat × Option (List Byte)) => e.1 == key && e.2.1 == scriptKey pkg dpa acc.key) with
    | some (_, _, some bs) => (s, .ok bs)
    | some (_, _, none) => (s, .bad (peerFault 0))
    | none =>
      if s.peerReqs.any (fun (r : PeerReq) => r.agent == some key) || s.routeStale.contains pkg then (s, .wait)
      else if !s.reachable pkg then (s, .bad (peerFault 0x1F))
      else
        let s1 := s.sendPeer none ctx pkg dpa a acc none
        ({ s1 with peerReqs := s1.peerReqs.map (fun (r : PeerReq) =>
            if r.tag == BitVec.ofNat 16 s.nextId then { r with agent := some key } else r) }, .wait))
  | _ => let r := s.accessAt (p.addr.getD 0) acc n; (r.1, .ok r.2)

/-- One access of an agent at a flat address, of any target (R39); a write to an unbacked page takes its slot (R62). -/
def State.agent (s : State) (key : AgentKey) (q : Xreq) (g : Option Gang) (a : W64) (align : Nat) (acc : Access) (n : Nat) : State × Step1 :=
  match s.route { q with kind := acc.accessKind } g a align with
  | (s1, .bad f) => (s1, .bad f)
  | (s1, .ok (p, _)) =>
    match s1.reachHome acc.accessKind p with
    | (s2, .bad f) => (s2, .bad f)
    | (s2, .ok _) => s2.agentAt key q.ctx a p acc n

/-- The operation of an agent is over: the answers in hand are let go. -/
def State.endScript (s : State) (key : AgentKey) : State :=
  { s with scripts := s.scripts.filter (fun (e : AgentKey × Nat × Option (List Byte)) => e.1 != key) }

/-- The operation of an agent is given up: no answer that is still to come is awaited. -/
def State.dropScript (s : State) (key : AgentKey) : State :=
  { s.endScript key with
    peerReqs := (s.endScript key).peerReqs.map (fun (r : PeerReq) => if r.agent == some key then { r with agent := none } else r) }

/-- The answer of a peer, none for a fault, brought to the agent that awaits it. -/
def State.agentAnswer (s : State) (key : AgentKey) (r : PeerReq) (bs : Option (List Byte)) : State :=
  { s with scripts := s.scripts ++ (answerKeys r).map (fun k => (key, k, bs)) }

/-! ### Monitors of engines and agents (R106, R107, R389, R436) -/

/-- The waiter that an agent is to a monitor. R77 gives WAITER as a gang with a workgroup and a strand index: the model names the agents under gang
0xFF_FFFF, which is no gang's (DESIGN CHOICE, log entry 61). -/
def AgentKey.who (ctx : BitVec 12) : AgentKey → Who
  | .channel d ch | .halt d ch => ⟨ctx, firmwareGang, 1, BitVec.ofNat 9 (d.toNat * 16 + ch.toNat)⟩
  | .copyQueue d n => ⟨ctx, firmwareGang, 2, BitVec.ofNat 9 (d.toNat * 64 + n.toNat)⟩
  | .launchQueue n => ⟨ctx, firmwareGang, 1, BitVec.ofNat 9 (64 + n.toNat)⟩
  | .launch _ => ⟨ctx, firmwareGang, 1, 128⟩

/-- The waiter has a monitor armed, or arms again later. -/
def State.isArmed (s : State) (w : Who) : Bool := s.armed.any (fun e => e.who == w)

/-- A monitor armed at a place, for an engine or agent (R78, R80): at a peer's by a packet (R452). A condition that holds leaves it unarmed. -/
def State.armAt (s : State) (w : Who) (a : W64) (p : Place) (wide : Bool) (cond : BitVec 4) (val : W64) : State :=
  match p with
  | .peer pkg dpa =>
    if !s.reachable pkg || s.routeStale.contains pkg then s
    else { s.sendPeer (some w) w.ctx pkg dpa a (.arm wide cond val) none with
      armed := (s.sendPeer (some w) w.ctx pkg dpa a (.arm wide cond val) none).armed ++ [⟨w, none⟩] }
  | _ =>
    match s.armMonitor (p.addr.getD 0) wide cond val w.ctx (BitVec.ofNat 9 s.package) w with
    | (s1, .holds _) => s1
    | (s1, .armed) => { s1 with armed := s1.armed ++ [⟨w, none⟩] }
    | (s1, .full) => { s1 with armed := s1.armed ++ [⟨w, some (s1.cycle + 1024)⟩] }

/-- A monitor armed by an agent on a word at a flat address that it has just read. -/
def State.armAgent (s : State) (key : AgentKey) (q : Xreq) (a : W64) (wide : Bool) (cond : BitVec 4) (val : W64) : State :=
  match s.route { q with kind := .read } none a (if wide then 8 else 4) with
  | (s1, .ok (p, _)) => s1.armAt (key.who q.ctx) a p wide cond val
  | (s1, .bad _) => s1

/-- A waiter that waits no more: its monitor is removed, at a peer by a cancel (R81). -/
def State.disarm (s : State) (w : Who) : State :=
  let s1 := (s.peerArms.filter (fun y => y.who == w)).foldl (fun (s : State) y =>
    s.send { ctx := w.ctx, kind := 12, dst := y.pkg, addr := y.dpa } (leBytes 8 0 ++ [0] ++ armTail w)) s
  { s1 with
    armed := s1.armed.filter (fun e => e.who != w)
    monitors := s1.monitors.filter (fun m => m.who != w || m.pkg.toNat != s1.package)
    wakes := s1.wakes.filter (fun x => x.who != w)
    peerArms := s1.peerArms.filter (fun y => y.who != w)
    peerReqs := s1.peerReqs.filter (fun r => !(r.kind == 10 && r.who == some w)) }

/-! ### Ring objects (R105, R106) -/

/-- A ring object's header (R105, Table 1), with the place of the header. -/
structure Ring where
  addr : Nat
  reserve : Nat
  acquire : Nat
  release : Nat
  base : W64
  tags : W64
  logn : Nat
  logsz : Nat
  cq : Bool
  deriving DecidableEq, Repr

/-- Bytes [lo + n − 1 : lo] of a record. -/
def bytesAt (bs : List Byte) (lo n : Nat) : Nat := leNat ((bs.drop lo).take n)

/-- The header's fields; none when it breaks Table 1. -/
def ringOf (addr : Nat) (bs : List Byte) : Option Ring :=
  let geom := BitVec.ofNat 32 (bytesAt bs 40 4)
  let r : Ring := ⟨addr, bytesAt bs 0 8, bytesAt bs 8 8, bytesAt bs 16 8, BitVec.ofNat 64 (bytesAt bs 24 8), BitVec.ofNat 64 (bytesAt bs 32 8),
    field geom 4 0, field geom 12 8, geom.getLsbD 16⟩
  if field geom 31 17 != 0 || field geom 15 13 != 0 || field geom 7 5 != 0 || bytesAt bs 56 8 != 0
      || decide (20 < r.logn) || decide (r.logsz < 5) || decide (20 < r.logsz)
      || r.base.toNat % 2 ^ r.logsz != 0 || r.tags.toNat % 4 != 0 || !(field r.tags 63 60 == 0 || field r.tags 63 60 == 1 || field r.tags 63 60 == 4)
  then none else some r

/-- The flat address of entry n. -/
def Ring.entry (r : Ring) (n : Nat) : W64 := r.base + BitVec.ofNat 64 (n % 2 ^ r.logn * 2 ^ r.logsz)

/-- The flat address of the tag of entry n. -/
def Ring.tag (r : Ring) (n : Nat) : W64 := r.tags + BitVec.ofNat 64 (n % 2 ^ r.logn * 4)

/-- The tag of a published entry n (R106). -/
def tagOf (n : Nat) : Nat := (n % 2 ^ 32 + 1) % 2 ^ 32

/-- A producer that claims n may write its entry (R106). -/
def Ring.room (r : Ring) (n : Nat) : Bool := decide (n < r.release + 2 ^ r.logn)

/-- A ring header read at its home: none within when it is malformed. -/
def State.readRing (s : State) (q : Xreq) (a : W64) : State × Ans (Option Ring) :=
  match s.engineAddr q none a 64 with
  | (s1, .ok x) => let r := s1.homeRead x 64; (r.1, .ok (ringOf x r.2))
  | (s1, .bad f) => (s1, .bad f)

/-- A producer's wait for room (R106): the comparand of condition hs on RELEASE. -/
def Ring.roomVal (r : Ring) (n : Nat) : W64 := BitVec.ofNat 64 (n + 1) - BitVec.ofNat 64 (2 ^ r.logn)

/-! ### Posted faults (R436) -/

/-- The firmware slot of the lowest-numbered core of a quad has stopped (R434). -/
def State.slotStopped (s : State) (d : Die) (q : Quad) : Bool := s.stopped.contains ⟨d, q, 0⟩

/-- Faults posted to the quad are answered (R436). -/
def State.fixUsable (s : State) (d : Die) (q : Quad) : Bool :=
  let r := s.reg (.fixring d q)
  r.getLsbD 63 && !r.getLsbD 61 && !s.slotStopped d q

/-- ENTRY of a fix-up record (R436, Table 2): level, FT and VDIE of a class that names them, and otherwise the level of the leaf. -/
def Post.entryWord (p : Post) : Nat :=
  if p.cls == 0x14 || p.cls == 0x15 then p.detail.toNat % 32 else field p.walkent 41 40

/-- The 32 bytes of a fix-up record. -/
def Post.record (p : Post) : List Byte :=
  leBytes 4 0 ++ leBytes 4 (p.source.toNat + p.unit_.toNat * 16) ++ leBytes 4 (p.cls.toNat * 65536 + p.detail.toNat)
    ++ leBytes 4 (p.ctx.toNat + p.slot.toNat * 4096) ++ leBytes 8 p.addr.toNat ++ leBytes 8 p.entryWord

/-- ERRCODE and ERRIDX recorded in a queue's ring header (R119, R390). -/
def State.haltRecord (s : State) (key : AgentKey) (q : Xreq) (h : W64) (code index : Nat) : State × Step1 :=
  match s.agent key q none (h + 44) 4 (.write (leBytes 4 code)) 4 with
  | (s1, .ok _) => s1.agent key q none (h + 48) 8 (.write (leBytes 8 index)) 8
  | r => r

/-- The ring is found unusable: BAD is set, and the fault is answered unfixable. -/
def State.ringBad (s : State) (d : Die) (q : Quad) : State × PostState := (s.setRegField (.fixring d q) 61 61 1, .unfixable)

/-- The waiter that the posting engine of a number is (DESIGN CHOICE, log entry 61). -/
def codeWaiter (n : Nat) : Who := ⟨firmwareCtx, firmwareGang, BitVec.ofNat 2 (1 + n / 512), BitVec.ofNat 9 n⟩

/-- The waiter that a posting engine is. -/
def Post.waiter (p : Post) : Who := codeWaiter p.code

/-- The ring of a quad's firmware slot, none when it is found unusable (R436). -/
def State.fixRing (s : State) (d : Die) (q : Quad) : State × Option Ring :=
  match s.readRing ⟨firmwareCtx, 0, d, q, none, false, .write⟩ (BitVec.ofNat 64 (field (s.reg (.fixring d q)) 56 6 * 64)) with
  | (s1, .ok (some r)) => if r.cq || r.logsz != 5 then (s1, none) else (s1, some r)
  | (s1, _) => (s1, none)

/-- The claimed entry of a posting is written and published, and a monitor armed on its ANSWER; while it may not be written, a monitor is armed on
RELEASE (R106, R436). -/
def State.fillPost (s : State) (p : Post) (r : Ring) (n : Nat) : State × PostState :=
  let x : Xreq := ⟨firmwareCtx, 0, p.die, p.quad, none, false, .write⟩
  if !r.room n then (s.armAt p.waiter 0 (.mem (r.addr + 16)) true 9 (r.roomVal n), .claimed n)
  else
    match s.engineAddr x none (r.entry n) 32 with
    | (s1, .bad _) => s1.ringBad p.die p.quad
    | (s1, .ok e) =>
      match s1.engineAddr x none (r.tag n) 4 with
      | (s2, .bad _) => s2.ringBad p.die p.quad
      | (s2, .ok t) => (((s2.homeWrite e p.record).homePut t 4 (tagOf n)).armAt p.waiter 0 (.mem e) false 1 0, .pending e)

/-- A posting goes on (R106, R436): it claims an entry of its quad's ring, and publishes it. One for which no waiter's number is free waits. -/
def State.publishPost (s : State) (p : Post) : State × PostState :=
  if !s.fixUsable p.die p.quad then (s, .unfixable)
  else if 1536 ≤ p.code then (s, .queued)
  else
    match s.fixRing p.die p.quad, p.state with
    | (s1, none), _ => s1.ringBad p.die p.quad
    | (s1, some r), .claimed n => s1.fillPost p r n
    | (s1, some r), _ => (s1.homePut r.addr 8 (r.reserve + 1)).fillPost p r r.reserve

/-- The lowest waiter's number that no posting has, and no monitor of one that was given up. -/
def State.freeCode (s : State) : Nat :=
  ((List.range 1536).find? (fun n => !s.posts.any (fun p => p.code == n) && !s.isArmed (codeWaiter n))).getD 1536

/-- A fault posted (R117): the state and the number of the posting. -/
def State.postFault (s : State) (d : Die) (q : Quad) (source unit_ : BitVec 4) (ctx : BitVec 12) (slot : Slot) (f : AFault) (a : W64) :
    State × Nat :=
  let id := s.nextId
  let p : Post := ⟨id, d, q, source, unit_, ctx, slot, f.cls, f.detail, a, f.walkent, s.freeCode, .queued⟩
  let r := ({ s with nextId := id + 1 } : State).publishPost p
  ({ r.1 with posts := r.1.posts ++ [{ p with state := r.2 }] }, id)

/-- How far a posting is. One that is no longer known has been answered unfixable. -/
def State.postState (s : State) (id : Nat) : PostState :=
  match s.posts.find? (fun p => p.id == id) with
  | some p => p.state
  | none => .unfixable

/-- A posting taken off, once its answer has been used; it waits for nothing more. -/
def State.dropPost (s : State) (id : Nat) : State :=
  match s.posts.find? (fun p => p.id == id) with
  | some p => { s.disarm p.waiter with posts := (s.disarm p.waiter).posts.filter (fun p => p.id != id) }
  | none => s

/-- The posting has its answer. -/
def State.answered (s : State) (id : Nat) : Bool := s.postState id == .fixed || s.postState id == .unfixable

/-- What the ANSWER word says (R436, Table 2). -/
def answerState (n : Nat) (old : PostState) : PostState := if n == 0 then old else if n == 1 then .fixed else .unfixable

/-- Fix-up answer (R436): the engine of the `n`-th posting of the quad, once its monitor has woken it, reads the ANSWER, publishes an entry that
waited for room, or arms again. -/
def execFixupAnswer (die : Die) (q : Quad) (n : Nat) (s : State) : Host.Outcome State Fault Refusal :=
  match (s.posts.filter (fun p => p.die == die && p.quad == q))[n]? with
  | none => .next s
  | some p0 =>
    let p := if 1536 ≤ p0.code then { p0 with code := s.freeCode } else p0
    let (s1, st) :=
      if p.state == .fixed || p.state == .unfixable then (s, p.state)
      else if !s.fixUsable die q then (s.disarm p.waiter, .unfixable)
      else if s.isArmed p.waiter then (s, p.state)
      else
        match p.state with
        | .pending e =>
          let r := s.homeNat e 4
          if r.2 == 0 then (r.1.armAt p.waiter 0 (.mem e) false 1 0, p.state) else (r.1, answerState r.2 p.state)
        | _ => s.publishPost p
    .next { s1 with posts := s1.posts.map (fun x => if x.id == p.id then { p with state := st } else x) }

end Sys2Proof.Machine
end

