-- ==== Sys2Proof/Machine/Matrix.lean ====
section
/-! DEFINITION. The matrix engines (R290 to R316): the control word, the arithmetic of a pass, the reservation table, operand fetch, the
matrix instructions, uniform opcodes 0x68 to 0x70, and the frozen forms. -/

namespace Sys2Proof.Machine

open Sys2Proof

/-! ### The matrix control word (R291 to R293) -/

/-- .f16 and .bf16. -/
def fmt16 (f : Nat) : Bool := f == 2 || f == 3
/-- .e4m3 and .e5m2. -/
def fmtFloat8 (f : Nat) : Bool := f == 4 || f == 5

/-- The activity class of a format pair (R291, Table 1): 0 DY8, 1 8-bit, 2 16-bit; none where the pair is refused. -/
def pairClass (fa fb : Nat) : Option Nat :=
  let dy := fun (x y : Nat) => x == 6 && decide (2 ≤ y) && decide (y ≤ 6)
  if dy fa fb || dy fb fa then some 0
  else if (fmt16 fa && (fmt16 fb || fmtFloat8 fb)) || (fmtFloat8 fa && fmt16 fb) then some 2
  else if (fmtFloat8 fa && fmtFloat8 fb) || (fa == 7 && fb == 7) then some 1
  else none

/-- The cycles of a pass of a class (R291, Table 1). -/
def passCycles (cls : Nat) : Nat := if cls == 0 then 8 else if cls == 1 then 16 else 32

/-- Fields of an MCW (R292, Table 2). -/
def mcwAcc (w : W64) : Nat := field w 2 0
def mcwFmtA (w : W64) : Nat := field w 7 4
def mcwFmtB (w : W64) : Nat := field w 11 8
def mcwGap (w : W64) : Nat := field w 16 12
def mcwGen (w : W64) : Bool := w.getLsbD 17
def mcwPrio (w : W64) : Nat := field w 19 18
def mcwPA (w : W64) : Nat := field w 31 20
def mcwPB (w : W64) : Nat := field w 43 32
def mcwSclA (w : W64) : Bool := w.getLsbD 45
def mcwSclB (w : W64) : Bool := w.getLsbD 46
def mcwDX (w : W64) : Int := (w.extractLsb' 48 4).toInt
def mcwDY (w : W64) : Int := (w.extractLsb' 52 4).toInt
def mcwShape (w : W64) : Nat := field w 57 56

/-- The bytes of an element. -/
def elemBytes (f : Nat) : Nat := if fmt16 f then 2 else 1

/-- An MCW is malformed (R293); `img` for mma.img, `copy` for a copy-then-mma command. -/
def mcwBad (w : W64) (img copy : Bool) : Bool :=
  let sclBad := fun (f : Nat) (scl : Bool) => (f == 6 && !scl) || (scl && (fmt16 f || f == 7))
  let pitchBad := fun (f p : Nat) => decide (p < elemBytes f) || (fmt16 f && p % 2 == 1)
  field w 63 58 != 0 || field w 47 47 != 0 || field w 44 44 != 0
    || (pairClass (mcwFmtA w) (mcwFmtB w)).isNone
    || sclBad (mcwFmtA w) (mcwSclA w) || sclBad (mcwFmtB w) (mcwSclB w)
    || pitchBad (mcwFmtA w) (mcwPA w) || pitchBad (mcwFmtB w) (mcwPB w)
    || (mcwGen w && mcwFmtA w == 7) || (!mcwGen w && mcwGap w != 0)
    || (w.getLsbD 3 && !copy)
    || (field w 57 48 != 0 && !img) || mcwShape w == 3

/-! ### The arithmetic of a pass (R173 to R176) -/

/-- A number times 2^k. -/
def Num.scale (x : Num) (k : Int) : Num := match x with | .fin n m e => .fin n m (e + k) | y => y

/-- The elements of a vector with its block scale (R156, R157). -/
def vectorNums (fmt : Nat) (data : List Byte) (scale : Option Byte) : List Num :=
  if scale == some 255 then List.replicate 64 (.nan false)
  else
    let k : Int := match scale with | some x => (x.toNat : Int) - 127 | none => 0
    (List.range 64).map (fun i =>
      let b := (data.getD i 0).toNat
      match fmt with
      | 6 => Num.fin (decide (dyValue b < 0)) (dyValue b).natAbs (k - 6)
      | 4 => (e4m3.decode b).scale k
      | 5 => (e5m2.decode b).scale k
      | 2 => fp16.decode ((data.getD (2 * i) 0).toNat + 256 * (data.getD (2 * i + 1) 0).toNat)
      | _ => bf16.decode ((data.getD (2 * i) 0).toNat + 256 * (data.getD (2 * i + 1) 0).toNat))

/-- floor(log2) of a finite non-zero number. -/
def Num.log (x : Num) : Option Int := match x with | .fin _ m e => if m == 0 then none else some ((bitLen m : Int) - 1 + e) | _ => none

/-- A NaN or an infinity. -/
def Num.special (x : Num) : Bool := x.isNan || x.isInf

/-- E of a product whose operands are finite and not zero (R176). -/
def productExp (p : Num × Num) : Option Int :=
  match p.1.log, p.2.log with
  | some a, some b => some (a + b)
  | _, _ => none

/-- Emax of a group (R176). -/
def groupMax (ps : List (Num × Num)) : Option Int :=
  ps.foldl (fun (b : Option Int) p =>
    match b, productExp p with
    | some x, some y => some (max x y)
    | none, y => y
    | x, none => x) none

/-- The product is gated under a gap (R176). -/
def productGated (gap : Option Nat) (emax : Option Int) (p : Num × Num) : Bool :=
  match gap, emax, productExp p with
  | some g, some m, some e => decide (e < m - g)
  | _, _, _ => false

/-- GroupSum and the products that count as gated (R174 to R176, R302): a zero operand counts under gating, and every
product against a zero vector always, whatever its other operand. -/
def groupSum (gap : Option Nat) (zeroVector : Bool) (ps : List (Num × Num)) : Nat × Nat :=
  let emax := groupMax ps
  let zero := fun (p : Num × Num) => !p.1.special && !p.2.special && (p.1.isZero || p.2.isZero)
  let gated := if zeroVector then ps.length else (ps.filter (fun p => productGated gap emax p || (zero p && gap.isSome))).length
  if ps.any (fun p => p.1.special || p.2.special) then ((rndProducts fp32 .rn ps []).bits, gated)
  else
    let kept := ps.filter (fun p => !zero p && !productGated gap emax p)
    (if kept.isEmpty then 0 else (rndProducts fp32 .rn kept []).bits, gated)

/-- The signed 8-bit elements of a vector. -/
def vectorInts (data : List Byte) : List Int := (List.range 64).map (fun i => (data.getD i 0).toInt)

/-- One element of a floating-point pass (R173): the new word and the gated products. -/
def passFloat (gap : Option Nat) (a b : List Num) (old : Word) : Word × Nat :=
  let r := groupSum gap (a.all Num.isZero || b.all Num.isZero) (a.zip b)
  (BitVec.ofNat 32 (fAdd fp32 .rn old.toNat r.1).bits, r.2)

/-- One element of an INT8 pass (R174). -/
def passInt (a b : List Int) (old : Word) : Word × Nat :=
  (old + BitVec.ofInt 32 ((a.zip b).foldl (fun n p => n + p.1 * p.2) 0), if a.all (· == 0) || b.all (· == 0) then 64 else 0)

/-! ### Entries (R294 to R299, R307 to R309) -/

/-- The entry is a pass. -/
def MxEntry.isPass (e : MxEntry) : Bool := match e.kind with | .mma | .gath | .img => true | _ => false

/-- The pieces of 128 bytes in a row of a load or drain (R309). -/
def rowPieces (kind : BitVec 3) : Nat := if kind == 0 then 4 else 2

/-- A flat address lies on a vault path. -/
def onVault (a : W64) : Bool := field a 63 60 == 2 || field a 63 60 == 3

/-- An address and a signed displacement. -/
def atDisp (a : W64) (d : Int) : W64 := a + BitVec.ofInt 64 d

/-- The tile's width for mma.img (R308). -/
def imgWidth (w : W64) : Nat := match mcwShape w with | 0 => 16 | 1 => 8 | _ => 32

/-- The vectors of an operand (R291, R307 to R309): 0 is A, or the rows of a load or drain in pieces of 128 bytes; 1 is B; 2 and 3 are
the scale vectors of A and B on vault paths (R296). A row that no lane supplies has no address. -/
def MxEntry.vectors (e : MxEntry) (operand : Nat) : List (Option W64) :=
  let pa := 64 * mcwPA e.mcw
  let pb := 64 * mcwPB e.mcw
  let rows := List.range 128
  match e.kind, operand with
  | .load k, 0 | .drain k, 0 =>
    rows.foldr (fun m l => (List.range (rowPieces k)).map (fun j => some (e.opa + e.opb * BitVec.ofNat 64 m + BitVec.ofNat 64 (128 * j))) ++ l) []
  | .mma, 0 => rows.map (fun m => some (e.opa + BitVec.ofNat 64 (m * pa)))
  | .gath, 0 =>
    rows.map (fun m => if e.lanes.getLsbD (m / 4) then some (e.rows.getD (m / 4) 0 + BitVec.ofNat 64 (m % 4 * pa)) else none)
  | .img, 0 =>
    let wt := imgWidth e.mcw
    rows.map (fun m => some (atDisp e.opa
      (((m / wt : Nat) + mcwDY e.mcw) * pa + ((m % wt : Nat) + mcwDX e.mcw) * (64 * elemBytes (mcwFmtA e.mcw) : Nat))))
  | .mma, 1 | .gath, 1 | .img, 1 => rows.map (fun n => some (e.opb + BitVec.ofNat 64 (n * pb)))
  | .mma, 2 => if mcwSclA e.mcw && onVault e.opa then [some (e.opa + BitVec.ofNat 64 (128 * pa))] else []
  | .mma, 3 | .gath, 3 | .img, 3 => if mcwSclB e.mcw && onVault e.opb then [some (e.opb + BitVec.ofNat 64 (128 * pb))] else []
  | _, _ => []

/-- The bytes of a vector of an operand. -/
def MxEntry.vectorSize (e : MxEntry) (operand : Nat) : Nat :=
  if !e.isPass then 128
  else
    match operand with
    | 0 => 64 * elemBytes (mcwFmtA e.mcw)
    | 1 => 64 * elemBytes (mcwFmtB e.mcw)
    | _ => 128

/-- The alignment of a vector of an operand (R294); a scale vector has none. -/
def MxEntry.vectorAlign (e : MxEntry) (operand : Nat) : Nat := if 2 ≤ operand then 1 else e.vectorSize operand

/-- The 64 KiB granule of a flat address. -/
def granuleOf (a : W64) : W64 := a &&& ~~~0xFFFF

/-- The segments of an entry (R298): the parts of each operand that lie in one granule. -/
def MxEntry.segments (e : MxEntry) : List MxSeg :=
  [0, 1, 2, 3].foldl (fun l o =>
    (e.vectors o).foldl (fun l v =>
      match v with
      | some a => if l.any (fun (x : MxSeg) => x.operand == o && x.granule == granuleOf a) then l else l ++ [⟨o, granuleOf a, .todo⟩]
      | none => l) l) []

/-- The vectors of a segment. -/
def MxEntry.segVectors (e : MxEntry) (x : MxSeg) : List W64 :=
  (e.vectors x.operand).filterMap (fun v => match v with | some a => if granuleOf a == x.granule then some a else none | none => none)

/-- A vector that the entry holds. -/
def MxEntry.heldAt (e : MxEntry) (operand : Nat) (a : W64) : Option MxVec := e.held.find? (fun v => v.operand == operand && v.addr == a)

/-! ### The checks at issue (R294) -/

/-- The path and vault bounds checks of a byte (R34). -/
def State.pathCheck (s : State) (ctx : BitVec 12) (g : Option Gang) (write : Bool) (a : W64) : Option AFault :=
  let path := field a 63 60
  if 5 ≤ path then some pathFault
  else if path == 2 || path == 3 then (match s.vaultPlace ctx g a with | .bad f => some f | .ok _ => none)
  else if field a 59 57 != 0 || (path == 4 && write) then some pathFault
  else none

/-- The check of one vector over its extent. -/
def State.extentCheck (s : State) (ctx : BitVec 12) (g : Option Gang) (write : Bool) (a : W64) (size align : Nat) : Option AFault :=
  match s.pathCheck ctx g write a with
  | some f => some f
  | none =>
    match s.pathCheck ctx g write (a + BitVec.ofNat 64 (size - 1)) with
    | some f => some f
    | none => if a.toNat % align != 0 then some alignFault else none

/-- The earliest class among faults, and the first address that met it. -/
def earliestFault (l : List (AFault × W64)) : Option (AFault × W64) :=
  l.foldl (fun (b : Option (AFault × W64)) x => match b with | some y => if x.1.rank < y.1.rank then some x else some y | none => some x) none

/-- The gang whose roles resolve an operand, or its scale vector, that a copy delivered to a vault (R112, R115). -/
def MxEntry.viaGang (e : MxEntry) (operand : Nat) : Option (BitVec 24) :=
  match e.via with
  | some (k, g) => if operand % 2 == k then some g else none
  | none => none

/-- What a channel's command resolves through the gang that issued its packet: the operand its copy delivers, on a vault path (R112, R115). -/
def Channel.viaFor (c : Channel) (mcw : W64) : Option (Nat × BitVec 24) :=
  if onVault c.dst then c.by_.map (fun w => (if mcw.getLsbD 3 then 1 else 0, w.gang)) else none

/-- The checks of R294 over an entry's operands; the gathered rows are lanes' addresses and are left out. -/
def State.entryCheck (s : State) (g0 : Option Gang) (e : MxEntry) : Option (AFault × W64) :=
  let gangFor := fun (o : Nat) => match e.viaGang o with | some n => s.findGang e.ctx n | none => g0
  let write := match e.kind with | .drain _ => true | _ => false
  let row := match e.kind with
    | .load k | .drain k =>
      if e.opa.toNat % 128 != 0 || e.opb.toNat % 128 != 0 || decide (e.opb.toNat < 128 * rowPieces k) then [(alignFault, e.opa)] else []
    | _ => []
  let ops := if e.kind == .gath then [1, 3] else [0, 1, 2, 3]
  earliestFault (ops.foldr (fun o l =>
    (e.vectors o).filterMap (fun v =>
      match v with
      | some a => (s.extentCheck e.ctx (gangFor o) write a (e.vectorSize o) (e.vectorAlign o)).map (fun f => (f, a))
      | none => none) ++ l) [] ++ row)

/-- The checks of the rows of `mma.gath` (R226, R307): the lanes of m0, steps 1 to 3. -/
def gathLanes (st : Strand) (g : Option Gang) (e : MxEntry) : List Nat → State → State × List (Nat × LaneRes)
  | [], s => (s, [])
  | l :: ls, s =>
    let size := e.vectorSize 0
    let rows := (List.range 4).map (fun j => e.rows.getD l 0 + BitVec.ofNat 64 (j * 64 * mcwPA e.mcw))
    let (s1, faults) := rows.foldl (fun (x : State × List (AFault × W64)) a =>
      match x.1.extentCheck e.ctx g false a size size with
      | some f => (x.1, x.2 ++ [(f, a)])
      | none =>
        match x.1.route (st.xreq .read) g a size with
        | (s1, .bad f) => (s1, x.2 ++ [(f, a)])
        | (s1, .ok _) => (s1, x.2)) (s, [])
    let r := match earliestFault faults with | some (f, _) => LaneRes.bad f (e.rows.getD l 0) | none => LaneRes.out
    let (s2, rs) := gathLanes st g e ls s1
    (s2, (l, r) :: rs)

/-! ### The reservation table (R299 to R301) -/

/-- The entries of a quad's table, oldest first. -/
def State.mxTable (s : State) (d : Die) (q : Quad) : List MxEntry := s.mxEntries.filter (fun e => e.die == d && e.quad == q)

/-- The table has room. -/
def State.mxRoom (s : State) (d : Die) (q : Quad) : Bool := decide ((s.mxTable d q).length < 32)

/-- An entry changed. -/
def State.modEntry (s : State) (id : Nat) (f : MxEntry → MxEntry) : State :=
  { s with mxEntries := s.mxEntries.map (fun e => if e.id == id then f e else e) }

/-- The physical tile that a gang's accumulator name maps to (R127). -/
def Gang.tileOf (g : Gang) (n : Nat) : Option Nat := (g.accMap.getD n none)

/-- A physical tile is mapped by no gang of the quad. -/
def State.tileFree (s : State) (d : Die) (q : Quad) (t : Nat) : Bool :=
  !s.gangs.any (fun g => g.die == d && g.quad == q && g.accMap.contains (some t))

/-- The entries before one in a list. -/
def before (id : Nat) : List MxEntry → List MxEntry
  | [] => []
  | e :: es => if e.id == id then [] else e :: before id es

/-- The entry is ready (R299). -/
def State.mxReady (s : State) (e : MxEntry) : Bool :=
  !e.frozen && e.segs.all (fun x => x.state == .done)
    && !(before e.id (s.mxTable e.die e.quad)).any (fun x => x.tile == e.tile)

/-- The entries that have become ready are marked with the cycle. -/
def State.mxMark (s : State) (d : Die) (q : Quad) : State :=
  { s with mxEntries := s.mxEntries.map (fun e =>
      if e.die == d && e.quad == q && e.readyAt.isNone && s.mxReady e then { e with readyAt := some s.cycle } else e) }

/-- An entry placed in its table (R299). -/
def State.mxEnter (s : State) (e : MxEntry) : State :=
  let s1 := { s with nextId := s.nextId + 1, mxEntries := s.mxEntries ++ [{ e with id := s.nextId, segs := e.segments }] }
  s1.mxMark e.die e.quad

/-- Entries of a strand that are not over. -/
def State.mxOf (s : State) (w : Who) : Bool := s.mxEntries.any (fun e => e.who == some w)

/-- The tiles of a name mask of a gang. -/
def Gang.tilesOf (g : Gang) (names : Word) : List Nat :=
  (List.range 8).filterMap (fun n => if names.getLsbD n then g.tileOf n else none)

/-- `mfree` may unmap the names: no entry is left on their tiles (R305). -/
def State.mfreeReady (s : State) (g : Gang) (names : Word) : Bool :=
  !(s.mxTable g.die g.quad).any (fun e => (g.tilesOf names).contains e.tile)

/-- Names unmapped. -/
def Gang.unmap (g : Gang) (names : Word) : Gang :=
  { g with accMap := (List.range 8).map (fun n => if names.getLsbD n then none else g.tileOf n) }

/-- `msync` and `mfree` that wait for entries end once theirs are over (R305, R311). -/
def State.mxWake (s : State) : State :=
  (s.strandsWhere (fun st => st.park == some .matrix)).foldl (fun s i =>
    match s.strands[i]? with
    | none => s
    | some st =>
      match st.waiting with
      | some (.msync _ d) =>
        if s.mxOf st.who then s
        else s.modStrand i (fun x => { ((x.setW d.toNat x.mfail).endWait s.cycle) with mfail := 0 })
      | some (.mfree _ a) =>
        (match s.gangOf st with
        | some g =>
          if s.mfreeReady g (st.wreg a.toNat) then
            (s.modGang g.ctx g.gang (fun h => h.unmap (st.wreg a.toNat))).modStrand i (fun x => x.endWait s.cycle)
          else s
        | none => s)
      | _ => s) s

/-- An entry is over: its pins are released, its origin is told its failure code, and what waits for it goes on (R298, R310, R311). -/
def State.mxOver (s : State) (e : MxEntry) (code : Nat) : State :=
  let s1 := e.pins.foldl State.unpin s
  let s2 : State := { s1 with
    mxEntries := s1.mxEntries.filter (fun x => x.id != e.id)
    posts := s1.posts.filter (fun p => !e.posts.contains p.id)
    channels := s1.channels.map (fun (c : Channel) =>
      if e.chan == some c.id then { c with applied := true, code := (if code != 0 && c.code == 0 then 7 else c.code) } else c) }
  let s3 := match e.who with
    | some w => s2.modWho w (fun st => if st.mfail == 0 then { st with mfail := BitVec.ofNat 32 code } else st)
    | none => s2
  (s3.mxMark e.die e.quad).mxWake

/-! ### Operand fetch (R295 to R298) -/

/-- The window format code of an operand format (R28, R296). -/
def windowFmt (f : Nat) : Nat := match f with | 6 => 1 | 4 => 2 | 5 => 3 | _ => 0

/-- The sideband of a resident line, attached as at fill when it has none (R31). A line that an entry pins keeps the sideband it had at that pin
(R33), and a second fetch of it takes the same (DESIGN CHOICE, log entry 61). -/
def State.sidebandOf (s : State) (line : Nat) : State × Option Sideband :=
  match s.l2Line line with
  | some l =>
    (match l.sideband with
    | some b => (s, some b)
    | none =>
      let (s1, b) := s.attach line
      ({ s1 with l2 := s1.l2.map (fun (x : L2Line) => if x.line == line then { x with sideband := b } else x) }, b))
  | none => s.attach line

/-- What one vector's fetch comes to. -/
inductive FetchRes where
  | ok (v : MxVec) (pin : Option Nat)
  | code (n : Nat)
  | fault (f : AFault)
  deriving DecidableEq, Repr

/-- The format of an operand that takes block scales, if it does. -/
def MxEntry.scaledFmt (e : MxEntry) (operand : Nat) : Option Nat :=
  if !e.isPass then none
  else if operand == 0 && mcwSclA e.mcw then some (mcwFmtA e.mcw)
  else if operand == 1 && mcwSclB e.mcw then some (mcwFmtB e.mcw)
  else none

/-- The translation request of the tile fetch unit (R295). -/
def MxEntry.xreq (e : MxEntry) (kind : AccessKind) : Xreq := engineReq e.ctx e.slot e.die e.quad kind

/-- The place that an entry's access goes to, with the failure codes of Table 3; a write to an unbacked page finds a slot or room for one. -/
def State.entryPlace (s : State) (e : MxEntry) (operand : Nat) (kind : AccessKind) (a : W64) (align : Nat) : State × Ans (Place ⊕ Nat) :=
  match s.route (e.xreq kind) (s.findGang e.ctx ((e.viaGang operand).getD e.gang)) a align with
  | (s1, .bad f) => if f.posts then (s1, .bad f) else (s1, .ok (.inr 4))
  | (s1, .ok (p, far)) =>
    if far then (s1, .ok (.inr 3))
    else
      match s1.reachHome kind p with
      | (_, .bad f) => (s1, .bad f)
      | (_, .ok _) => (s1, .ok (.inl p))

/-- The line that the entry has read already, if it has (R297). -/
def MxEntry.lineHeld (e : MxEntry) (line : Nat) : Option MxLine := (e.held.flatMap (fun v => v.lines)).find? (fun l => l.addr == line)

/-- The lines of a range as a command uses them: those it has read already, and the others as they are at their homes now (R297). -/
def State.linesFor (s : State) (e : MxEntry) (x n : Nat) : State × List MxLine :=
  let s1 := ((s.homeRead x n).1).combineRange (lineOf x) (x % 128 + n)
  (s1, (linesOf x n).map (fun l => (e.lineHeld l).getD ⟨l, s1.mem.read l 128, none⟩))

/-- The sideband that a command uses with a line: the one it has used already, or the line's now (R31, R33). -/
def State.sidebandFor (s : State) (l : MxLine) : State × Option Sideband :=
  match l.sideband with
  | some b => (s, b)
  | none => s.sidebandOf l.addr

/-- One vector fetched: read at its home, with the scale of its half-line, and its line pinned where a pin is granted (R74, R75). The instant of R75
is the fetch (DESIGN CHOICE, log entry 61). -/
def State.fetchVector (s : State) (e : MxEntry) (operand : Nat) (a : W64) : State × FetchRes :=
  match s.entryPlace e operand .read a (e.vectorAlign operand) with
  | (s1, .bad f) => (s1, .fault f)
  | (s1, .ok (.inr n)) => (s1, .code n)
  | (s1, .ok (.inl p)) =>
    let x := p.addr.getD 0
    let (s2, ls) := s1.linesFor e x (e.vectorSize operand)
    let bs := ((ls.foldr (fun l bs => l.data ++ bs) []).drop (x % 128)).take (e.vectorSize operand)
    let pinned := fun (s : State) (scale : Option Byte) (ls : List MxLine) =>
      match s.pin (lineOf x) with
      | some s3 => (s3, FetchRes.ok ⟨operand, a, bs, scale, ls⟩ (some (lineOf x)))
      | none => (s, .ok ⟨operand, a, bs, scale, ls⟩ none)
    match e.scaledFmt operand with
    | none => pinned s2 none ls
    | some fmt =>
      if onVault a then pinned s2 none ls
      else
        match s2.sidebandFor (ls.headD ⟨lineOf x, [], none⟩) with
        | (s3, some b) =>
          if b.fmt.toNat == windowFmt fmt then
            pinned s3 (some (if x / 64 % 2 == 0 then b.scale0 else b.scale1)) (ls.map (fun l => { l with sideband := some (some b) }))
          else (s3, .code 1)
        | (s3, none) => (s3, .code 1)

/-- The vectors of a segment fetched one after another. -/
def fetchVectors (e : MxEntry) (operand : Nat) : List W64 → List MxVec → List Nat → State → State × Ans (List MxVec × List Nat) × Nat
  | [], vs, ps, s => (s, .ok (vs, ps), 0)
  | a :: l, vs, ps, s =>
    match s.fetchVector e operand a with
    | (s1, .ok v pin) => fetchVectors e operand l (vs ++ [v]) (ps ++ pin.toList) s1
    | (s1, .code n) => (ps.foldl State.unpin s1, .ok ([], []), n)
    | (s1, .fault f) => (ps.foldl State.unpin s1, .bad f, 0)

/-- The places of a drain's segment found writable: nothing is written yet. -/
def drainPlaces (e : MxEntry) : List W64 → State → State × Ans (List MxVec × List Nat) × Nat
  | [], s => (s, .ok ([], []), 0)
  | a :: l, s =>
    match s.entryPlace e 0 .write a 128 with
    | (s1, .bad f) => (s1, .bad f, 0)
    | (s1, .ok (.inr n)) => (s1, .ok ([], []), n)
    | (s1, .ok (.inl _)) => drainPlaces e l s1

/-- A segment of an entry changed. -/
def MxEntry.setSeg (e : MxEntry) (n : Nat) (x : SegState) : MxEntry :=
  { e with segs := match e.segs[n]? with | some y => e.segs.set n { y with state := x } | none => e.segs }

/-- The fix-up list of a quad's engine: segments waiting for an answer (R298). -/
def State.mxFixups (s : State) (d : Die) (q : Quad) : Nat := (s.mxTable d q).foldl (fun n e => n + e.posts.length) 0

/-- An earlier drain of the same strand is not over: what it writes precedes the fetch (R297). -/
def State.mxHeldBack (s : State) (e : MxEntry) : Bool :=
  (before e.id s.mxEntries).any (fun x => x.who.isSome && x.who == e.who && (match x.kind with | .drain _ => true | _ => false))

/-- The lines of a segment can be given ways now (R73); a line outside the L2 always can. -/
def State.segReady (s : State) (e : MxEntry) (x : MxSeg) : Bool :=
  match (e.segVectors x).head? with
  | none => true
  | some a =>
    match s.entryPlace e x.operand .read a 1 with
    | (s1, .ok (.inl p)) => (e.segVectors x).all (fun b => s1.l2Ready (p.addr.getD 0 - (a.toNat % 65536) + b.toNat % 65536) 1)
    | _ => true

/-- The fault of a segment posted, while the fix-up list has room (R298). -/
def State.segPost (s : State) (e : MxEntry) (n : Nat) (f : AFault) (a : W64) : State :=
  if 64 ≤ s.mxFixups e.die e.quad then s
  else
    let (s1, id) := s.postFault e.die e.quad 2 0 e.ctx e.slot f a
    s1.modEntry e.id (fun y => y.setSeg n (.posted id))

/-- A segment of an entry fetched, or its fault posted (R298). -/
def State.fetchSegment (s0 : State) (e : MxEntry) (n : Nat) (x : MxSeg) : State :=
  let s := s0.paidBy e.ctx e.gang e.die
  let r := match e.kind with
    | .drain _ => drainPlaces e (e.segVectors x) s
    | _ => fetchVectors e x.operand (e.segVectors x) [] [] s
  match r with
  | (s1, .bad f, _) => s1.segPost e n f x.granule
  | (s1, .ok (vs, ps), code) =>
    if code != 0 then s1.mxOver { e with pins := e.pins } code
    else
      (s1.modEntry e.id (fun y => { (y.setSeg n .done) with held := y.held ++ vs, pins := y.pins ++ ps })).mxMark e.die e.quad

/-- Matrix fetch segment (R297, R298): segment `seg` of the `entry`-th entry of a quad's table is translated, read and held; an answer to
its posted fault lets it be fetched again, or fails the entry. -/
def execMatrixFetchSegment (die : Die) (q : Quad) (entry seg : Nat) (s : State) : Host.Outcome State Fault Refusal :=
  match (s.mxTable die q)[entry]? with
  | none => .next s
  | some e =>
    match e.segs[seg]? with
    | none => .next s
    | some x =>
      if e.frozen || s.mxHeldBack e || !s.segReady e x then .next s
      else
        match x.state with
        | .todo => .next (s.fetchSegment e seg x)
        | .posted p =>
          if !s.answered p then .next s
          else if s.postState p == .fixed then
            let s1 := (s.dropPost p).modEntry e.id (fun y => y.setSeg seg .todo)
            .next (s1.fetchSegment (e.setSeg seg .todo) seg x)
          else .next (s.mxOver e 2)
        | _ => .next s

/-! ### Applying an entry (R290, R300, R302, R305, R309) -/

/-- The word of a tile. -/
def State.tileWord (s : State) (e : MxEntry) (m n : Nat) : Word :=
  BitVec.ofNat 32 (s.mem.nat (Config.tileAddr e.die e.quad e.tile + 4 * (128 * m + n)) 4)

/-- A tile given new words. -/
def State.putTile (s : State) (d : Die) (q : Quad) (t : Nat) (ws : List Word) : State :=
  { s with mem := s.mem.put (Config.tileAddr d q t) (ws.foldr (fun w l => leBytes 4 w.toNat ++ l) []) }

/-- The scale of vector `i` of an operand: of its half-line, or of the scale vector on a vault path. -/
def MxEntry.scaleAt (e : MxEntry) (operand i : Nat) (v : MxVec) : Option Byte :=
  match e.scaledFmt operand with
  | none => none
  | some _ =>
    match v.scale with
    | some x => some x
    | none => (e.held.find? (fun u => u.operand == operand + 2)).map (fun (u : MxVec) => u.data.getD i 0)

/-- The vectors of an operand with their data and scales; a row that no lane supplies is zero. -/
def MxEntry.operandVecs (e : MxEntry) (operand : Nat) : List (List Byte × Option Byte) :=
  let vs := e.vectors operand
  (List.range 128).map (fun i =>
    match vs.getD i none with
    | some a => (match e.heldAt operand a with | some v => (v.data, e.scaleAt operand i v) | none => ([], none))
    | none => ([], none))

/-- The new words of a tile after a pass, and its gated products (R290). -/
def State.passWords (s : State) (e : MxEntry) : List (Word × Nat) :=
  let fa := mcwFmtA e.mcw
  let fb := mcwFmtB e.mcw
  let gap := if mcwGen e.mcw then some (mcwGap e.mcw) else none
  let idx := List.range 128
  let a := e.operandVecs 0
  let b := e.operandVecs 1
  if fa == 7 then
    let bi := b.map (fun v => vectorInts v.1)
    idx.foldr (fun m l =>
      let ra := vectorInts (a.getD m ([], none)).1
      idx.map (fun n => passInt ra (bi.getD n []) (s.tileWord e m n)) ++ l) []
  else
    let bn := b.map (fun v => vectorNums fb v.1 v.2)
    idx.foldr (fun m l =>
      let v := a.getD m ([], none)
      let ra := if v.1.isEmpty then List.replicate 64 (Num.fin false 0 0) else vectorNums fa v.1 v.2
      idx.map (fun n => passFloat gap ra (bn.getD n []) (s.tileWord e m n)) ++ l) []

/-- The words that a load puts in a tile (R309): raw, or BF16 and FP16 widened exactly. -/
def MxEntry.loadWords (e : MxEntry) (k : BitVec 3) : List Word :=
  let row := fun (m : Nat) => (List.range (rowPieces k)).foldr (fun j l =>
    (match e.heldAt 0 (e.opa + e.opb * BitVec.ofNat 64 m + BitVec.ofNat 64 (128 * j)) with | some v => v.data | none => []) ++ l) []
  let f := if k == 1 then bf16 else fp16
  (List.range 128).foldr (fun m l =>
    let bs := row m
    (List.range 128).map (fun n =>
      if k == 0 then BitVec.ofNat 32 (bytesAt bs (4 * n) 4)
      else BitVec.ofNat 32 (numToFmt fp32 .rn false (f.decode (bytesAt bs (2 * n) 2))).bits) ++ l) []

/-- The bytes of a row that a drain writes (R309). -/
def State.drainRow (s : State) (e : MxEntry) (k : BitVec 3) (m : Nat) : List Byte :=
  let f := if k == 1 then bf16 else fp16
  (List.range 128).foldr (fun n l =>
    (if k == 0 then leBytes 4 (s.tileWord e m n).toNat
      else leBytes 2 (numToFmt f .rn false (fp32.decode (s.tileWord e m n).toNat)).bits) ++ l) []

/-- The pieces of a drain with their places; or the fault that one meets now, and its address. -/
def drainTargets (e : MxEntry) : List (Option W64) → State → State × (List (W64 × Nat) ⊕ (Option AFault × W64))
  | [], s => (s, .inl [])
  | none :: l, s => drainTargets e l s
  | some a :: l, s =>
    match s.entryPlace e 0 .write a 128 with
    | (s1, .ok (.inl p)) =>
      (match s1.reachHome .write p with
      | (s2, .ok _) =>
        (match drainTargets e l s2 with
        | (s3, .inl r) => (s3, .inl ((a, p.addr.getD 0) :: r))
        | (s3, .inr f) => (s3, .inr f))
      | (s2, .bad f) => (s2, .inr (some f, a)))
    | (s1, .bad f) => (s1, .inr (some f, a))
    | (s1, _) => (s1, .inr (none, a))

/-- A drain that meets a fault when it is to write (R298): it writes nothing; its segments are looked at again, and the fault of one is posted. -/
def State.drainBack (s : State) (e : MxEntry) (f : Option AFault) (a : W64) : State :=
  let s1 := s.modEntry e.id MxEntry.unfetched
  match f, e.segs.findIdx? (fun x => x.granule == granuleOf a) with
  | some y, some n => s1.segPost e n y (granuleOf a)
  | _, _ => s1

/-- A line of the core's L1 that a write at its home makes stale is invalidated (R94). -/
def State.l1Stale (s : State) (c : CoreId) (ctx : BitVec 12) (a : W64) : State :=
  if onVault a then s else s.l1Invalidate c ctx (vlineOf (field a 56 0))

/-- A drain performed (R309): the pieces are written at their homes, and each written line leaves the issuing core's L1. -/
def State.applyDrain (s : State) (e : MxEntry) (k : BitVec 3) (ts : List (W64 × Nat)) : State :=
  let bytes := (List.range 128).foldr (fun m l => s.drainRow e k m ++ l) []
  ((List.range ts.length).zip ts).foldl (fun s p =>
    (s.homeWrite p.2.2 ((bytes.drop (128 * p.1)).take 128)).l1Stale e.core e.ctx p.2.1) s

/-- The effective priority of an entry at a cycle (R300). -/
def MxEntry.priority (e : MxEntry) (now : Nat) : Nat :=
  if e.aged || (match e.readyAt with | some t => decide (t + 1024 ≤ now) | none => false) then 4 else if e.isPass then mcwPrio e.mcw else 0

/-- The cycle at which the engine of a quad is free. -/
def State.mxFree (s : State) (d : Die) (q : Quad) : Nat := max s.cycle (s.mxBusy.get 0 (quadNumber d q))

/-- The entry that the engine applies next, once it is free (R300). -/
def State.mxNext (s : State) (d : Die) (q : Quad) : Option MxEntry :=
  ((s.mxTable d q).filter s.mxReady).foldl (fun (b : Option MxEntry) e =>
    match b with | some x => if x.priority (s.mxFree d q) < e.priority (s.mxFree d q) then some e else some x | none => some e) none

/-- The activity counter of a quad and class (R302). -/
def State.addActivity (s : State) (d : Die) (q : Quad) (cls n : Nat) : State :=
  let k := 3 * quadNumber d q + cls
  { s with activity := s.activity.set k (s.activity.get 0 k + n) }

/-- The engine busy for some cycles from now on. -/
def State.mxOccupy (s : State) (d : Die) (q : Quad) (n : Nat) : State :=
  { s with mxBusy := s.mxBusy.set (quadNumber d q) (s.cycle + n) }

/-- Matrix entry apply (R300): once the engine is free, the ready entry of the highest priority takes its effect. -/
def execMatrixEntryApply (die : Die) (q : Quad) (s : State) : Host.Outcome State Fault Refusal :=
  match s.mxNext die q with
  | none => .next s
  | some e =>
    let s0 : State := ({ s with cycle := s.mxFree die q } : State).paidBy e.ctx e.gang die
    match e.kind with
    | .mz =>
      let s1 : State := { s0 with mem := s0.mem.zero (Config.tileAddr die q e.tile) Config.tileSize }
      .next ((s1.mxOver e 0).mxOccupy die q 8)
    | .load k => .next (((s0.putTile die q e.tile (e.loadWords k)).mxOver e 0).mxOccupy die q 32)
    | .drain k =>
      (match drainTargets e (e.vectors 0) s0 with
      | (s1, .inl ts) => .next (((s1.applyDrain e k ts).mxOver e 0).mxOccupy die q 32)
      | (_, .inr (f, a)) => .next (s0.drainBack e f a))
    | _ =>
      let out := s0.passWords e
      let cls := (pairClass (mcwFmtA e.mcw) (mcwFmtB e.mcw)).getD 0
      let n := 1048576 - out.foldl (fun n x => n + x.2) 0
      let s1 := ((s0.putTile die q e.tile (out.map (fun x => x.1))).addActivity die q cls n).charge e.ctx e.gang die (n * chargeProduct cls)
      .next ((s1.mxOver e 0).mxOccupy die q (passCycles cls))

/-- Matrix entry aged (R300): the `entry`-th entry of a quad's table has been ready for 1,024 cycles, and has priority 4. -/
def execMatrixEntryAged (die : Die) (q : Quad) (entry : Nat) (s : State) : Host.Outcome State Fault Refusal :=
  match (s.mxTable die q)[entry]? with
  | some e =>
    match e.readyAt with
    | some t =>
      if e.aged then .next s
      else .next ({ s with cycle := max s.cycle (t + 1024) }.modEntry e.id (fun x => { x with aged := true }))
    | none => .next s
  | none => .next s

/-! ### The instructions (R303 to R311) -/

/-- The accumulator fault (R303). -/
def Trap.accumulator (n : Nat) : Trap := Trap.plain 0x30 (BitVec.ofNat 16 n)
/-- The matrix command fault (R293). -/
def Trap.matrixCommand : Trap := Trap.plain 0x31 0

/-- An entry of a strand with nothing in it yet. -/
def MxEntry.start (st : Strand) (kind : MxKind) (mcw opa opb : W64) : MxEntry where
  id := 0
  die := st.core.die
  quad := st.core.quad
  who := some st.who
  chan := none
  via := none
  core := st.core
  ctx := st.who.ctx
  slot := st.ctxSlot
  gang := st.who.gang
  tile := 0
  kind := kind
  mcw := mcw
  opa := opa
  opb := opb
  lanes := 0
  rows := []
  segs := []
  held := []
  pins := []
  code := 0
  aged := false
  frozen := false
  readyAt := none

/-- The accumulator name and kind of an entry that is no pass, as its MCW field of Table 5 holds them. -/
def accWord (n : BitVec 3) (k : Nat) : W64 := BitVec.ofNat 64 (n.toNat + 8 * k)

/-- The entry that a matrix instruction makes from its registers, before its tile is known. -/
def commandOf (i : Instr) (st : Strand) : MxEntry :=
  match i with
  | .mz _ n => MxEntry.start st .mz (accWord n 0) 0 0
  | .mma _ d a b => MxEntry.start st .mma (st.wpair d.toNat) (st.wpair a.toNat) (st.wpair b.toNat)
  | .mmaGath _ d a g =>
    { MxEntry.start st .gath (st.wpair d.toNat) 0 (st.wpair a.toNat) with
      lanes := st.mask 0
      rows := (List.range 32).map (fun l => st.lane2 (2 * g.toNat) l) }
  | .mmaImg _ d a b => MxEntry.start st .img (st.wpair d.toNat) (st.wpair a.toNat) (st.wpair b.toNat)
  | .mdrain _ a b k n =>
    MxEntry.start st (.drain (k.setWidth 3)) (accWord n k.toNat) (st.wpair a.toNat) ((st.wreg b.toNat).setWidth 64)
  | .mload _ a b k n => MxEntry.start st (.load (k.setWidth 3)) (accWord n k.toNat) (st.wpair a.toNat) ((st.wreg b.toNat).setWidth 64)
  | _ => MxEntry.start st .mz 0 0 0

/-- The kernel of the strand has FLAGS.MATRIX, or it is a firmware slot (R303). -/
def State.mayMatrix (s : State) (st : Strand) : Bool :=
  st.isFirmware || (match s.gangOf st with | some g => g.kernel.matrix | none => false)

/-- The MCW of an entry is malformed, or its form refuses it (R293, R307, R308). -/
def MxEntry.badMcw (e : MxEntry) : Bool :=
  e.isPass
    && (mcwBad e.mcw (e.kind == .img) false
      || (e.kind == .img && mcwSclA e.mcw)
      || (e.kind == .gath && mcwSclA e.mcw && (lanesOf e.lanes).any (fun l => onVault (e.rows.getD l 0))))

/-- The trap of `mma.gath` whose lanes fault (R307): no lane is complete. -/
def gathTrap (outs : List (Nat × LaneRes)) : Option Trap := (laneTrap outs).map (fun t => { t with done := 0 })

/-- A matrix instruction that enters the reservation table (R294, R299, R301, R303). -/
def enterTable (i : Instr) : Body := fun _ s =>
  match s.strands[s.cur]? with
  | none => (s, .done)
  | some st =>
    let g := s.gangOf st
    let e := commandOf i st
    if !s.mayMatrix st then (s, .trap Trap.illegal)
    else
      match g.bind (fun h => h.tileOf (mcwAcc e.mcw)) with
      | none => (s, .trap (Trap.accumulator (mcwAcc e.mcw)))
      | some t =>
        if e.badMcw then (s, .trap Trap.matrixCommand)
        else
          match s.entryCheck g e with
          | some (f, a) => (s, .trap (wholeTrap f a))
          | none =>
            let (s1, outs) := if e.kind == .gath then gathLanes st g e (lanesOf (st.mask 0)) s else (s, [])
            match gathTrap outs with
            | some tr => (s1, .trap tr)
            | none =>
              if st.posted != 0 then (s1.modCur (fun x => x.hold .posted), .again)
              else if s1.mxRoom st.core.die st.core.quad then ((s1.drain st.who).mxEnter { e with tile := t }, .done)
              else (s1.park s1.cur .matrix i, .again)

/-- Matrix command enter (R301): the strand that found the table full enters its command, after the accumulator check. -/
def execMatrixCommandEnter (who : Who) (s : State) : Host.Outcome State Fault Refusal :=
  match s.findStrand who with
  | none => .next s
  | some idx =>
    match s.strands[idx]? with
    | none => .next s
    | some st =>
      match st.park, st.waiting with
      | some .matrix, some i =>
        if st.state == .frozen || !s.mxRoom st.core.die st.core.quad then .next s
        else
          (match i with
          | .mz .. | .mma .. | .mmaGath .. | .mmaImg .. | .mdrain .. | .mload .. =>
            let e := commandOf i st
            (match (s.gangOf st).bind (fun h => h.tileOf (mcwAcc e.mcw)) with
            | none => .next (s.takeTrap idx (Trap.accumulator (mcwAcc e.mcw)) st.pc 0)
            | some t => .next (((s.drain st.who).mxEnter { e with tile := t }).modStrand idx (fun x => x.endWait s.cycle)))
          | _ => .next s)
      | _, _ => .next s

/-- `mz`. -/
def execMz (px : Pfx) (n : BitVec 3) (s : State) : Host.Outcome State Fault Refusal := issue (.mz px n) (enterTable (.mz px n)) s

/-- `mma` (R306). -/
def execMma (px : Pfx) (d a b : BitVec 6) (s : State) : Host.Outcome State Fault Refusal :=
  issue (.mma px d a b) (enterTable (.mma px d a b)) s

/-- `mma.gath` (R307). -/
def execMmaGath (px : Pfx) (d a : BitVec 6) (g : BitVec 5) (s : State) : Host.Outcome State Fault Refusal :=
  issue (.mmaGath px d a g) (enterTable (.mmaGath px d a g)) s

/-- `mma.img` (R308). -/
def execMmaImg (px : Pfx) (d a b : BitVec 6) (s : State) : Host.Outcome State Fault Refusal :=
  issue (.mmaImg px d a b) (enterTable (.mmaImg px d a b)) s

/-- `mdrain` (R309). -/
def execMdrain (px : Pfx) (a b : BitVec 6) (k : BitVec 2) (n : BitVec 3) (s : State) : Host.Outcome State Fault Refusal :=
  issue (.mdrain px a b k n) (enterTable (.mdrain px a b k n)) s

/-- `mload` (R309). -/
def execMload (px : Pfx) (a b : BitVec 6) (k : BitVec 2) (n : BitVec 3) (s : State) : Host.Outcome State Fault Refusal :=
  issue (.mload px a b k n) (enterTable (.mload px a b k n)) s

/-- A matrix instruction behind the check of FLAGS.MATRIX (R303). -/
def matrixInstr (f : Strand → State → State × After) : Body :=
  withStrand (fun st s => if s.mayMatrix st then f st s else (s, .trap Trap.illegal))

/-- The names of a mask mapped, lowest free tile first (R304). -/
def mapNames (names : Word) : List Nat → List Nat → List (Option Nat) → List (Option Nat)
  | [], _, m => m
  | n :: ns, free, m =>
    if names.getLsbD n then mapNames names ns free.tail (m.set n free.head?) else mapNames names ns free m

/-- `malloc` (R304): a newly mapped tile holds zeros. The firmware slot has no gang, and so no names to map. -/
def execMalloc (px : Pfx) (d a : BitVec 6) (s : State) : Host.Outcome State Fault Refusal :=
  issue (.malloc px d a) (matrixInstr (fun st s =>
    let x := st.wreg a.toNat
    let count := popCount x
    match s.gangOf st with
    | none => (s.deferW st [(d.toNat, if field x 31 8 != 0 then 2 else if count == 0 then 0 else 1)], .done)
    | some g =>
      let free := (List.range 8).filter (fun t => s.tileFree g.die g.quad t)
      if field x 31 8 != 0 || (List.range 8).any (fun n => x.getLsbD n && (g.tileOf n).isSome) then (s.deferW st [(d.toNat, 2)], .done)
      else if free.length < count then (s.deferW st [(d.toNat, 1)], .done)
      else
        let s1 := s.modGang g.ctx g.gang (fun h =>
          { h with accMap := mapNames x (List.range 8) free ((List.range 8).map (fun n => h.tileOf n)) })
        let s2 := (free.take count).foldl (fun (s : State) t =>
          { s with mem := s.mem.zero (Config.tileAddr g.die g.quad t) Config.tileSize }) s1
        (s2.deferW st [(d.toNat, 0)], .done))) s

/-- `mfree` (R305). -/
def execMfree (px : Pfx) (a : BitVec 6) (s : State) : Host.Outcome State Fault Refusal :=
  issue (.mfree px a) (matrixInstr (fun st s =>
    match s.gangOf st with
    | none => (s, .done)
    | some g =>
      if s.mfreeReady g (st.wreg a.toNat) then (s.modGang g.ctx g.gang (fun h => h.unmap (st.wreg a.toNat)), .done)
      else (s.park s.cur .matrix (.mfree px a), .again))) s

/-- `msync` (R311). -/
def execMsync (px : Pfx) (d : BitVec 6) (s : State) : Host.Outcome State Fault Refusal :=
  issue (.msync px d) (matrixInstr (fun st s =>
    if s.mxOf st.who then (s.park s.cur .matrix (.msync px d), .again)
    else (s.modCur (fun x => { x.setW d.toNat x.mfail with mfail := 0 }), .done))) s

/-! ### The frozen forms (R312 to R314) -/

/-- The places of pieces that a frozen form accesses at their homes; a peer's page is a target fault. -/
def State.framePlaces (s : State) (st : Strand) (kind : AccessKind) (align : Nat) : List W64 → State × Ans (List Nat)
  | [] => (s, .ok [])
  | a :: l =>
    match s.placeUniform st a align kind with
    | (s1, .bad f) => (s1, .bad f)
    | (s1, .ok (p, _)) =>
      match p.addr with
      | none => (s1, .bad targetFault)
      | some x =>
        match s1.framePlaces st kind align l with
        | (s2, .bad f) => (s2, .bad f)
        | (s2, .ok xs) => (s2, .ok (x :: xs))

/-- The pieces of `n` bytes that a run of memory is made of. -/
def piecesOf (a : W64) (size n : Nat) : List W64 := (List.range n).map (fun i => a + BitVec.ofNat 64 (size * i))

/-- Bytes written at homes piece by piece, from a flat address on, as the strand's uncached stores (R94, R313). -/
def State.writePieces (s : State) (st : Strand) (a : W64) (size : Nat) (xs : List Nat) (bs : List Byte) : State :=
  ((List.range xs.length).zip xs).foldl (fun s p =>
    (s.homeWrite p.2 ((bs.drop (size * p.1)).take size)).l1Stale st.core st.who.ctx (a + BitVec.ofNat 64 (size * p.1))) s

/-- Bytes read at homes piece by piece. -/
def State.readPieces (s : State) (size : Nat) (xs : List Nat) : State × List Byte :=
  xs.foldl (fun (r : State × List Byte) x => let y := r.1.homeRead x size; (y.1, r.2 ++ y.2)) (s, [])

/-- An owner word (R303). -/
def ownerWord (slot : Slot) (name : Nat) (gang : BitVec 24) : Word :=
  BitVec.ofNat 32 (2 ^ 31 + slot.toNat * 2 ^ 27 + name * 2 ^ 24 + gang.toNat)

/-- The gang that an owner word names. -/
def State.ownerGang (s : State) (x : Word) : Option Gang :=
  (s.ctxOf (BitVec.ofNat 4 (field x 30 27))).bind (fun c => s.findGang c (BitVec.ofNat 24 (field x 23 0)))

/-- `mdrain.frz` (R313): `t` is the physical tile. -/
def execMdrainFrz (px : Pfx) (d a : BitVec 6) (t : BitVec 3) (s : State) : Host.Outcome State Fault Refusal :=
  issue (.mdrainFrz px d a t) (matrixInstr (fun st s0 =>
    let s := s0.drain st.who
    let own := s.gangs.find? (fun g => g.die == st.core.die && g.quad == st.core.quad && g.frozen && g.accMap.contains (some t.toNat))
    match own with
    | none => (s.modCur (fun x => x.setW d.toNat 0), .done)
    | some g =>
      match s.framePlaces st .write 128 (piecesOf (st.wpair a.toNat) 128 512) with
      | (_, .bad f) => (s, .trap (wholeTrap f (st.wpair a.toNat)))
      | (s1, .ok xs) =>
        let n := (g.accMap.findIdx? (· == some t.toNat)).getD 0
        let s2 := s1.writePieces st (st.wpair a.toNat) 128 xs (s1.mem.read (Config.tileAddr g.die g.quad t.toNat) Config.tileSize)
        let s3 := s2.modGang g.ctx g.gang (fun h => { h with accMap := h.accMap.set n none })
        (s3.modCur (fun x => x.setW d.toNat (ownerWord g.ctxSlot n g.gang)), .done))) s

/-- KIND of a command record (R314, Table 5). -/
def MxKind.code : MxKind → Nat
  | .mz => 1
  | .mma => 2
  | .gath => 3
  | .img => 4
  | .load _ => 5
  | .drain _ => 6

/-- The TAG of a command record. -/
def State.entryTag (s : State) (e : MxEntry) : Nat :=
  e.kind.code * 2 ^ 60 + e.slot.toNat * 2 ^ 56 + e.gang.toNat * 2 ^ 32
    + (match e.who with
      | some w => w.wg.toNat * 2 ^ 19 + w.widx.toNat * 2 ^ 10
      | none =>
        match s.channels.find? (fun c => e.chan == some c.id) with
        | some c => 2 ^ 31 + c.die.toNat * 2 ^ 29 + c.ch.toNat * 2 ^ 25
        | none => 2 ^ 31)

/-- The command records of an entry (R314): nine for `mma.gath`, one for the others. -/
def State.entryRecords (s : State) (e : MxEntry) : List Byte :=
  let opa := if e.kind == .gath then e.lanes.toNat else e.opa.toNat
  leBytes 8 e.mcw.toNat ++ leBytes 8 opa ++ leBytes 8 e.opb.toNat ++ leBytes 8 (s.entryTag e)
    ++ (if e.kind == .gath then (List.range 32).foldr (fun l bs => leBytes 8 (e.rows.getD l 0).toNat ++ bs) [] else [])

/-- `mdrain.frzq` (R313): the frozen entries of the gang named by the owner word are written and removed. -/
def execMdrainFrzq (px : Pfx) (d a b : BitVec 6) (s : State) : Host.Outcome State Fault Refusal :=
  issue (.mdrainFrzq px d a b) (matrixInstr (fun st s0 =>
    let s := s0.drain st.who
    let es : List MxEntry := match s.ownerGang (st.wreg b.toNat) with
      | some g => (s.mxTable st.core.die st.core.quad).filter (fun (e : MxEntry) => e.frozen && e.ctx == g.ctx && e.gang == g.gang)
      | none => []
    let bs := es.foldr (fun e l => s.entryRecords e ++ l) []
    let n := bs.length / 32
    match s.framePlaces st .write 32 (piecesOf (st.wpair a.toNat) 32 n) with
    | (_, .bad f) => (s, .trap (wholeTrap f (st.wpair a.toNat)))
    | (s1, .ok xs) =>
      let s2 := s1.writePieces st (st.wpair a.toNat) 32 xs bs
      let s3 : State := { s2 with mxEntries := s2.mxEntries.filter (fun e => !es.any (fun x => x.id == e.id)) }
      (s3.modCur (fun x => x.setW d.toNat (BitVec.ofNat 32 n)), .done))) s

/-- `mload.frz` (R313). -/
def execMloadFrz (px : Pfx) (d a b : BitVec 6) (t : BitVec 3) (s : State) : Host.Outcome State Fault Refusal :=
  issue (.mloadFrz px d a b t) (matrixInstr (fun st s0 =>
    let s := s0.drain st.who
    let x := st.wreg b.toNat
    let fail := (s.modCur (fun y => y.setW d.toNat 1), After.done)
    match (if x.getLsbD 31 && s.tileFree st.core.die st.core.quad t.toNat then s.ownerGang x else none) with
    | none => fail
    | some g =>
      let n := field x 26 24
      if g.die != st.core.die || g.quad != st.core.quad || (g.tileOf n).isSome then fail
      else
        match s.framePlaces st .read 128 (piecesOf (st.wpair a.toNat) 128 512) with
        | (s1, .bad f) => (s1, .trap (wholeTrap f (st.wpair a.toNat)))
        | (s1, .ok xs) =>
          let (s2, bs) := s1.readPieces 128 xs
          let s3 : State := { s2 with mem := s2.mem.put (Config.tileAddr g.die g.quad t.toNat) bs }
          let s4 := s3.modGang g.ctx g.gang (fun h => { h with accMap := ((List.range 8).map (fun k => h.tileOf k)).set n (some t.toNat) })
          (s4.modCur (fun y => y.setW d.toNat 0), .done))) s

/-- An entry read from a command record, frozen (R314); none when the record is malformed. -/
def State.entryOfRecord (s : State) (d : Die) (q : Quad) (r : List Byte) (rows : List W64) : Option MxEntry :=
  let mcw := BitVec.ofNat 64 (bytesAt r 0 8)
  let opa := BitVec.ofNat 64 (bytesAt r 8 8)
  let opb := BitVec.ofNat 64 (bytesAt r 16 8)
  let tag := BitVec.ofNat 64 (bytesAt r 24 8)
  let c := tag.getLsbD 31
  let gang : BitVec 24 := BitVec.ofNat 24 (field tag 55 32)
  let slot : Slot := BitVec.ofNat 4 (field tag 59 56)
  let k : BitVec 3 := BitVec.ofNat 3 (field mcw 5 3)
  let kind : Option MxKind := match field tag 63 60 with
    | 1 => some .mz
    | 2 => some .mma
    | 3 => some .gath
    | 4 => some .img
    | 5 => some (.load k)
    | 6 => some (.drain k)
    | _ => none
  let tagBad := if c then field tag 24 0 != 0 else field tag 30 21 != 0 || field tag 9 0 != 0
  match kind, s.ctxOf slot with
  | some kd, some ctx =>
    (match s.findGang ctx gang with
    | none => none
    | some g =>
      let who : Who := ⟨ctx, gang, BitVec.ofNat 2 (field tag 20 19), BitVec.ofNat 9 (field tag 18 10)⟩
      let chan := s.channels.find? (fun x => x.die == BitVec.ofNat 2 (field tag 30 29) && x.ch == BitVec.ofNat 4 (field tag 28 25))
      let core := match s.strands.find? (fun (st : Strand) => st.who == who) with | some st => st.core | none => ⟨d, q, 0⟩
      let e : MxEntry := {
        id := 0, die := d, quad := q, who := if c then none else some who, chan := if c then chan.map (·.id) else none
        via := if c then chan.bind (fun x => x.viaFor mcw) else none, core := core
        ctx := ctx, slot := slot, gang := gang, tile := (g.tileOf (mcwAcc mcw)).getD 0, kind := kd, mcw := mcw
        opa := if kd == .gath then 0 else opa
        opb := opb, lanes := lo32 opa, rows := rows, segs := [], held := [], pins := [], code := 0, aged := false, frozen := true
        readyAt := none }
      let bad := match kd with
        | .mz => mcw &&& ~~~7 != 0 || opa != 0 || opb != 0
        | .load k | .drain k => mcw &&& ~~~63 != 0 || decide (2 < k.toNat)
        | .gath => mcwBad mcw false c || hi32 opa != 0
        | .img => mcwBad mcw true c
        | .mma => mcwBad mcw false c
      if tagBad || bad || (c && chan.isNone) || (g.tileOf (mcwAcc mcw)).isNone || g.die != d || g.quad != q then none
      else some { e with segs := e.segments })
  | _, _ => none

/-- The entries of a run of command records; none when one is malformed. -/
def State.entriesOfRecords (s : State) (d : Die) (q : Quad) : Nat → List Byte → Option (List MxEntry)
  | 0, bs => if bs.isEmpty then some [] else none
  | n + 1, bs =>
    if bs.isEmpty then some []
    else
      let gath := bytesAt bs 31 1 / 16 == 3
      let rest := bs.drop 32
      if gath && rest.length < 256 then none
      else
        let rows := if gath then (List.range 32).map (fun l => BitVec.ofNat 64 (bytesAt rest (8 * l) 8)) else []
        match s.entryOfRecord d q (bs.take 32) rows with
        | none => none
        | some e => (s.entriesOfRecords d q n (if gath then rest.drop 256 else rest)).map (fun es => e :: es)

/-- Entries placed at the end of a table, in order. -/
def State.enterAll (s : State) (es : List MxEntry) : State :=
  es.foldl (fun (s : State) e => { s with nextId := s.nextId + 1, mxEntries := s.mxEntries ++ [{ e with id := s.nextId }] }) s

/-- `mload.frzq` (R313): more records than the table could hold are too many for it. -/
def execMloadFrzq (px : Pfx) (d a b : BitVec 6) (s : State) : Host.Outcome State Fault Refusal :=
  issue (.mloadFrzq px d a b) (matrixInstr (fun st s0 =>
    let s := s0.drain st.who
    let n := (st.wreg b.toNat).toNat
    if 288 < n then (s.modCur (fun y => y.setW d.toNat 1), .done)
    else
      match s.framePlaces st .read 32 (piecesOf (st.wpair a.toNat) 32 n) with
      | (s1, .bad f) => (s1, .trap (wholeTrap f (st.wpair a.toNat)))
      | (s1, .ok xs) =>
        let (s2, bs) := s1.readPieces 32 xs
        match s2.entriesOfRecords st.core.die st.core.quad n bs with
        | none => (s2.modCur (fun y => y.setW d.toNat 2), .done)
        | some es =>
          if 32 < (s2.mxTable st.core.die st.core.quad).length + es.length then (s2.modCur (fun y => y.setW d.toNat 1), .done)
          else ((s2.enterAll es).modCur (fun y => y.setW d.toNat 0), .done))) s

/-- The frozen entries of gangs thaw and fetch again (R312). -/
def State.thawEntries (s : State) (l : List (BitVec 12 × BitVec 24)) : State :=
  let s1 : State := { s with mxEntries := s.mxEntries.map (fun (e : MxEntry) =>
    if l.contains (e.ctx, e.gang) then { e with frozen := false } else e) }
  { s1 with mxEntries := s1.mxEntries.map (fun (e : MxEntry) => if e.readyAt.isNone && s1.mxReady e then { e with readyAt := some s1.cycle } else e) }

/-- The entries of a context cancelled, with no write (R315). -/
def State.cancelEntries (s : State) (ctx : BitVec 12) : State :=
  let mine := s.mxEntries.filter (fun e => e.ctx == ctx)
  let s1 := mine.foldl (fun s e => e.pins.foldl State.unpin s) s
  { s1 with
    mxEntries := s1.mxEntries.filter (fun e => e.ctx != ctx)
    posts := s1.posts.filter (fun p => !mine.any (fun e => e.posts.contains p.id)) }

end Sys2Proof.Machine
end

