-- ==== Sys2Proof/Machine/Reservoir.lean ====
section
/-! DEFINITION. Reservoir records and random numbers: the random function, the resampling steps, and the instructions 0x6A to 0x6F and
0x74 (R339 to R350). -/

namespace Sys2Proof.Machine

open Sys2Proof

/-! ### The random function (R340) -/

/-- h of a key and a counter. -/
def randomH (k c : W64) : Word :=
  let h0 := lo32 k ^^^ lo32 c ^^^ (hi32 k ^^^ hi32 c).rotateLeft 16
  let h1 := (h0 ^^^ (h0 >>> 16)) * 0x7A3DE4A5
  let h2 := (h1 ^^^ (h1 >>> 15)) * 0x91E10DA5
  h2 ^^^ (h2 >>> 16)

/-- u of a key and a counter: (h >> 8) × 2^−24, exact in FP32. -/
def randomU (k c : W64) : Word := BitVec.ofNat 32 (rnd fp32 .rn false ((randomH k c) >>> 8).toNat (-24) false).bits

/-! ### Records (R339, R343) -/

/-- A reservoir record (Table 1). -/
structure Record where
  id : Word
  phat : Word
  wsum : Word
  w : Word
  m : Word
  pay0 : Word
  pay1 : Word
  pay2 : Word
  deriving DecidableEq, Repr

/-- The null sample. -/
def nullSample : Word := 0xFFFFFFFF

/-- A null record. -/
def Record.null : Record := ⟨nullSample, 0, 0, 0, 0, 0, 0, 0⟩

/-- The eight words of a record. -/
def Record.words (r : Record) : List Word := [r.id, r.phat, r.wsum, r.w, r.m, r.pay0, r.pay1, r.pay2]

/-- A record of eight words. -/
def Record.ofWords (l : List Word) : Record :=
  ⟨l.getD 0 0, l.getD 1 0, l.getD 2 0, l.getD 3 0, l.getD 4 0, l.getD 5 0, l.getD 6 0, l.getD 7 0⟩

/-- The bits of sr.rsvflags (R129, Table 3): WNAN, WINF, WNPOS, MSAT, NULLN from bit 0. -/
def rsvWNAN : BitVec 5 := 1
def rsvWINF : BitVec 5 := 2
def rsvWNPOS : BitVec 5 := 4
def rsvMSAT : BitVec 5 := 8
def rsvNULLN : BitVec 5 := 16

/-- The FP32 number of a word. -/
def num32 (x : Word) : Num := fp32.decode x.toNat

/-- RN of a sum and of a product of FP32 values (R342). -/
def rnAdd (a b : Word) : Word := BitVec.ofNat 32 (fAdd fp32 .rn a.toNat b.toNat).bits
def rnMul (a b : Word) : Word := BitVec.ofNat 32 (fMul fp32 .rn a.toNat b.toNat).bits

/-- RN of an FP32 value times an unsigned 32-bit integer (R348, R349). -/
def rnMulInt (a m : Word) : Word :=
  BitVec.ofNat 32 (rndProducts fp32 .rn [(num32 a, .fin false m.toNat 0)] []).bits

/-- The record cleaned, and the flag of the class that it met (R343). -/
def Record.clean (r : Record) : Record × BitVec 5 :=
  let gone := fun (f : BitVec 5) => ({ Record.null with m := r.m }, f)
  match num32 r.wsum with
  | .nan _ => gone rsvWNAN
  | .inf _ => gone rsvWINF
  | .fin neg k _ => if neg && k != 0 then gone rsvWNPOS else if neg then ({ r with wsum := 0 }, 0) else (r, 0)

/-- The draw clamped (R343). -/
def clampDraw (u : Word) : Word :=
  match num32 u with
  | .nan _ => 0
  | x => if x.neg then 0 else if numCmp x (num32 0x3F800000) < 0 then u else 0x3F7FFFFF

/-- A weight offered to a record (R347): the record with its new sum and, if the draw chooses it, the sample's fields. -/
def Record.offer (r : Record) (u w : Word) (take : Record → Record) : Record × BitVec 5 :=
  match num32 w with
  | .nan _ => (r, rsvWNAN)
  | .inf neg => (r, if neg then rsvWNPOS else rsvWINF)
  | .fin neg k _ =>
    if neg || k == 0 then (r, rsvWNPOS)
    else
      let t := rnAdd r.wsum w
      if (num32 t).isInf then (r, rsvWINF)
      else
        let r1 := { r with wsum := t }
        (if numCmp (num32 (rnMul u t)) (num32 w) < 0 then take r1 else r1, 0)

/-- `rsvupd` on one record (R347): `c` is the candidate group. -/
def Record.update (r0 : Record) (c : Record) (u0 : Word) : Record × BitVec 5 :=
  let (r, f0) := r0.clean
  let (r1, f1) := if r.m == 0xFFFFFFFF then (r, rsvMSAT) else ({ r with m := r.m + 1 }, 0)
  let (r2, f2) := r1.offer (clampDraw u0) c.wsum
    (fun x => { x with id := c.id, phat := c.phat, pay0 := c.pay0, pay1 := c.pay1, pay2 := c.pay2 })
  (r2, f0 ||| f1 ||| f2)

/-- `rsvmrg` on one record (R348). -/
def Record.merge (r0 q : Record) (ph u0 cap0 : Word) : Record × BitVec 5 :=
  let (r, f0) := r0.clean
  let cap := if cap0 == 0 then 0xFFFFFFFF else cap0
  let m := if q.m.ult cap then q.m else cap
  let full := decide (2 ^ 32 ≤ r.m.toNat + m.toNat)
  let (r1, f1) := if full then ({ r with m := 0xFFFFFFFF }, rsvMSAT) else ({ r with m := r.m + m }, 0)
  if q.id == nullSample then (r1, f0 ||| f1)
  else
    let w := rnMulInt (rnMul ph q.w) m
    let (r2, f2) := r1.offer (clampDraw u0) w
      (fun x => { x with id := q.id, phat := ph, pay0 := q.pay0, pay1 := q.pay1, pay2 := q.pay2 })
    (r2, f0 ||| f1 ||| f2)

/-- `rsvnrm` on one record (R349). -/
def Record.normalise (r0 : Record) : Record × BitVec 5 :=
  let (r, f0) := r0.clean
  let bad := match num32 r.phat with
    | .fin neg k _ => neg || k == 0
    | _ => true
  if r.id == nullSample || (num32 r.wsum).isZero || r.m == 0 || bad then
    ({ r with id := nullSample, phat := 0, w := 0, pay0 := 0, pay1 := 0, pay2 := 0 }, f0 ||| rsvNULLN)
  else
    let d := rnMulInt r.phat r.m
    let w := BitVec.ofNat 32 (fDiv .rn r.wsum.toNat d.toNat).bits
    ({ r with w := w }, f0 ||| (if (num32 w).isInf then rsvWINF else 0))

/-! ### The instructions (R341 to R349) -/

/-- The record of a group of eight v registers in a lane. -/
def Strand.record (st : Strand) (r l : Nat) : Record := Record.ofWords ((List.range 8).map (fun j => st.lane (r + j) l))

/-- Word j of the group a in a lane: v, or w under UA. -/
def srcAAt (px : Pfx) (f : Fields) (st : Strand) (j l : Nat) : Word :=
  if px.extD.ua then st.wreg (f.a.reg + j) else st.lane (f.a.reg + j) l

/-- Word j of the group b in a lane: v, or w under UB. -/
def srcBAt (px : Pfx) (f : Fields) (st : Strand) (j l : Nat) : Word :=
  if px.extD.ub then st.wreg (f.b.reg + j) else st.lane (f.b.reg + j) l

/-- The record of the group a in a lane. -/
def recordA (px : Pfx) (f : Fields) (st : Strand) (l : Nat) : Record := Record.ofWords ((List.range 8).map (fun j => srcAAt px f st j l))

/-- Sticky reservoir flags raised. -/
def Strand.orRsv (st : Strand) (f : BitVec 5) : Strand :=
  { st with sr := { st.sr with rsvflags := st.sr.rsvflags ||| f.setWidth 32 } }

/-- Eight registers of the active lanes written with records. -/
def Strand.putRecords (st : Strand) (d : Nat) (act : Word) (f : Nat → Record) : Strand :=
  (List.range 8).foldl (fun x j => x.putV (d + j) act (fun l => (f l).words.getD j 0)) st

/-- A step on the record in vd, complete at issue. -/
def recordBody (i : Instr) (f : Strand → Fields → Nat → Record × BitVec 5) : Body :=
  pureBody (fun k st =>
    let fs := fieldsAt i k
    let act := st.active i.px
    (st.putRecords fs.d.reg act (fun l => (f st fs l).1)).orRsv ((lanesOf act).foldl (fun x l => x ||| (f st fs l).2) 0))

/-- `rsvinit` (R345). -/
def execRsvinit (px : Pfx) (d : BitVec 8) (s : State) : Host.Outcome State Fault Refusal :=
  issue (.rsvinit px d) (recordBody (.rsvinit px d) (fun _ _ _ => (Record.null, 0))) s

/-- `rsvupd` (R347). -/
def execRsvupd (px : Pfx) (d a b : BitVec 8) (s : State) : Host.Outcome State Fault Refusal :=
  issue (.rsvupd px d a b) (recordBody (.rsvupd px d a b) (fun st fs l =>
    (st.record fs.d.reg l).update (recordA px fs st l) (srcBAt px fs st 0 l))) s

/-- `rsvmrg` (R348). -/
def execRsvmrg (px : Pfx) (d a b : BitVec 8) (s : State) : Host.Outcome State Fault Refusal :=
  issue (.rsvmrg px d a b) (recordBody (.rsvmrg px d a b) (fun st fs l =>
    (st.record fs.d.reg l).merge (recordA px fs st l) (srcBAt px fs st 0 l) (srcBAt px fs st 1 l) (srcBAt px fs st 2 l))) s

/-- `rsvnrm` (R349): deferred. -/
def execRsvnrm (px : Pfx) (d : BitVec 8) (s : State) : Host.Outcome State Fault Refusal :=
  issue (.rsvnrm px d) (fun k s =>
    match s.strands[s.cur]? with
    | none => (s, .done)
    | some st =>
      let fs := fieldsAt (.rsvnrm px d) k
      let act := st.active px
      if act == 0 then (s, .done)
      else
        let f := fun (l : Nat) => (st.record fs.d.reg l).normalise
        (s.defer st { Result.blank st.who with
          vregs := groupRegs fs.d.reg 8
          vwrites := (List.range 8).foldl (fun ws j => ws ++ vWrites (fs.d.reg + j) act (fun l => (f l).1.words.getD j 0)) []
          rsvflags := (lanesOf act).foldl (fun x l => x ||| (f l).2) 0 }, .done)) s

/-- `rsvld` (R346). -/
def execRsvld (px : Pfx) (d x : BitVec 8) (b f : BitVec 4) (s : State) : Host.Outcome State Fault Refusal :=
  issue (.rsvld px d x b f) (memBody (.rsvld px d x b f) (fun k st fs =>
    { record := st.brec b.toNat, off := elemOff (.rsvld px d x b f) k f, index := srcA px fs st, align := 32, kind := .read, near := true
      access := fun _ => .read 32, size := 32, dest := groupRegs fs.d.reg 8 })) s

/-- `rsvst` (R346). -/
def execRsvst (px : Pfx) (v x : BitVec 8) (b f : BitVec 4) (s : State) : Host.Outcome State Fault Refusal :=
  issue (.rsvst px v x b f) (memBody (.rsvst px v x b f) (fun k st fs =>
    { record := st.brec b.toNat, off := elemOff (.rsvst px v x b f) k f, index := srcA px fs st, align := 32, kind := .write, near := true
      access := fun l => .write (leBytes 32 (st.laneGroup fs.d.reg 8 l)), size := 32, dest := [] })) s

/-- `rng` (R344). -/
def execRng (px : Pfx) (d a b : BitVec 8) (s : State) : Host.Outcome State Fault Refusal :=
  issue (.rng px d a b) (pureBody (fun k st =>
    let fs := fieldsAt (.rng px d a b) k
    st.putV2 fs.d.reg (st.active px) (fun l =>
      pair (randomH (srcA2 px fs st l) (srcB2 px fs st l)) (randomU (srcA2 px fs st l) (srcB2 px fs st l))))) s

end Sys2Proof.Machine
end

