-- ==== Sys2Proof/Machine/Rays.lean ====
section
/-! DEFINITION. The ray units and the light-tree walkers (R317 to R338): format tables, acceleration structures, the exact intersection
procedure, traversal, light walks, and the per-lane instructions 0x70 to 0x73. -/

namespace Sys2Proof.Machine

open Sys2Proof

/-! ### Exact numbers -/

/-- A real number as a fraction with a positive denominator, or an infinity. -/
inductive Real1 where
  | neg
  | fin (n : Int) (d : Nat)
  | pos
  deriving DecidableEq, Repr

/-- a ≤ b. -/
def Real1.le (a b : Real1) : Bool :=
  match a, b with
  | .neg, _ => true
  | _, .pos => true
  | .fin n d, .fin m e => decide (n * e ≤ m * d)
  | _, _ => false

/-- a < b. -/
def Real1.lt (a b : Real1) : Bool := !(b.le a)

/-- The greater and the lesser of two. -/
def Real1.max (a b : Real1) : Real1 := if a.le b then b else a
def Real1.min (a b : Real1) : Real1 := if a.le b then a else b

/-- The value of an FP32 number; none for a NaN. -/
def realOf (w : Word) : Option Real1 :=
  match num32 w with
  | .nan _ => none
  | .inf neg => some (if neg then .neg else .pos)
  | .fin neg m e =>
    let x : Int := if neg then -(m : Int) else m
    some (.fin (x * 2 ^ e.toNat) (2 ^ (-e).toNat))

/-- A finite FP32 number in units of 2^−149; none for the others. -/
def unitsOf (w : Word) : Option Int :=
  match num32 w with
  | .fin neg m e => some (scaled neg m e (-149))
  | _ => none

/-- Rnd of a quotient of integers, the divisor not zero; an exact zero is +0. -/
def rndRatio (m : Rm) (n d : Int) : Word :=
  if n == 0 then 0 else BitVec.ofNat 32 (rndQuot fp32 m (decide (n < 0) != decide (d < 0)) n.natAbs 0 d.natAbs 0).bits

/-- Three coordinates in units of 2^−149, or products of them. -/
structure Vec3 where
  x : Int
  y : Int
  z : Int
  deriving DecidableEq, Repr

def Vec3.sub (a b : Vec3) : Vec3 := ⟨a.x - b.x, a.y - b.y, a.z - b.z⟩
def Vec3.dot (a b : Vec3) : Int := a.x * b.x + a.y * b.y + a.z * b.z
def Vec3.cross (a b : Vec3) : Vec3 := ⟨a.y * b.z - a.z * b.y, a.z * b.x - a.x * b.z, a.x * b.y - a.y * b.x⟩

/-- Three finite FP32 words. -/
def vecOf (l : List Word) : Option Vec3 :=
  match unitsOf (l.getD 0 0), unitsOf (l.getD 1 0), unitsOf (l.getD 2 0) with
  | some x, some y, some z => some ⟨x, y, z⟩
  | _, _, _ => none

/-! ### Reads (R324) -/

/-- How a lane's traversal or walk ends early: with a code of R331, or at a fault that is posted. -/
inductive RayEnd where
  | code (n : Nat)
  | wait (f : AFault) (a : W64)
  deriving DecidableEq, Repr

/-- A part of a traversal: the state, and a value or an early end. -/
abbrev RayRes (α : Type) := State × Except RayEnd α

/-- One part after another. -/
def rayBind {α β : Type} (r : RayRes α) (f : α → State → RayRes β) : RayRes β :=
  match r with
  | (s, .ok x) => f x s
  | (s, .error e) => (s, .error e)

/-- What a unit reads with: its translation and the format table of its context. -/
structure RayEnv where
  q : Xreq
  table : List W64
  deriving DecidableEq, Repr

/-- A run of bytes within one granule read at its home. -/
def State.rayRead1 (s : State) (q : Xreq) (a : W64) (n : Nat) : RayRes (List Byte) :=
  if !(field a 63 60 == 0 || field a 63 60 == 1 || field a 63 60 == 4) || field a 59 57 != 0 then (s, .error (.code 3))
  else
    match s.route q none a 1 with
    | (s1, .bad f) => (s1, .error (if f.posts then .wait f a else .code 3))
    | (s1, .ok (p, far)) =>
      match p.addr with
      | none => (s1, .error (.code 4))
      | some x =>
        if far then (s1, .error (.code 4))
        else let r := s1.homeRead x n; (r.1, .ok r.2)

/-- A structure read: aligned, in the parts that its granules cut it into. -/
def State.rayRead (s : State) (q : Xreq) (a : W64) (n align : Nat) : RayRes (List Byte) :=
  if a.toNat % align != 0 then (s, .error (.code 3))
  else
    let k := min n (65536 - a.toNat % 65536)
    rayBind (s.rayRead1 q a k) (fun bs s1 =>
      if n ≤ k then (s1, .ok bs)
      else rayBind (s1.rayRead1 q (a + BitVec.ofNat 64 k) (n - k)) (fun cs s2 => (s2, .ok (bs ++ cs))))

/-- Words of a structure from a byte on. -/
def wordsAt (bs : List Byte) (off n : Nat) : List Word := wordsFrom n (bs.drop off)

/-! ### Format entries, headers, nodes (R319 to R323) -/

/-- A format entry that counts as V = 1 (R319, Table 2). -/
def formatValid (e : W64) : Bool :=
  e.getLsbD 63 && field e 62 16 == 0 && decide (field e 15 14 < 2) && decide (field e 13 12 < 2) && decide (field e 11 10 < 2)
    && decide (field e 9 8 < 3) && field e 7 0 == 0

/-- A scene header (R320) with its format entry. -/
structure Scene where
  root : Word
  prims : W64
  nodes : W64
  top : Bool
  format : W64
  deriving DecidableEq, Repr

/-- Children per node. -/
def Scene.arity (h : Scene) : Nat := if field h.format 15 14 == 0 then 4 else 8
/-- Quantised boxes. -/
def Scene.quant (h : Scene) : Bool := field h.format 13 12 == 1
/-- The bytes of a node (R321, Table 4). -/
def Scene.nodeSize (h : Scene) : Nat := (if h.arity == 4 then 128 else 256) / (if h.quant then 2 else 1)

/-- A scene header read (R320); `bottom` where a bottom header is wanted. -/
def State.readScene (s : State) (v : RayEnv) (a : W64) (bottom : Bool) : RayRes Scene :=
  rayBind (s.rayRead v.q a 32 32) (fun bs s1 =>
    let fmt := bytesAt bs 20 1
    let level := bytesAt bs 21 1
    if bytesAt bs 22 10 != 0 || 16 ≤ fmt || 2 ≤ level || (bottom && level != 0) then (s1, .error (.code 3))
    else
      let e := v.table.getD fmt 0
      if !formatValid e then (s1, .error (.code 5))
      else
        let h : Scene := ⟨BitVec.ofNat 32 (bytesAt bs 16 4), BitVec.ofNat 64 (bytesAt bs 8 8), BitVec.ofNat 64 (bytesAt bs 0 8), level == 1, e⟩
        if h.prims.toNat % (if h.top then 64 else 4) != 0 || h.nodes.toNat % h.nodeSize != 0 then (s1, .error (.code 3))
        else (s1, .ok h))

/-- A child of a node: its box, axis by axis, and its word. -/
structure Child where
  lo : List Real1
  hi : List Real1
  word : Word
  deriving DecidableEq, Repr

/-- KIND of a child word (R321). -/
def childKind (w : Word) : Nat := field w 31 30

/-- The kind stands where it may (R321). -/
def kindOk (top : Bool) (w : Word) : Bool := if top then childKind w != 2 else childKind w != 3

/-- A bound of a quantised box (R322). -/
def quantBound (m : Rm) (origin : Word) (q e : Nat) : Option Real1 :=
  realOf (BitVec.ofNat 32 (rndProducts fp32 m [] [num32 origin, .fin false q ((e : Int) - 127)]).bits)

/-- The box of child `c` of a node; none for a bound that is NaN. -/
def childBox (h : Scene) (bs : List Byte) (c : Nat) : Option (List Real1 × List Real1) :=
  let bounds := if h.quant then
      (List.range 3).map (fun a =>
        let o := BitVec.ofNat 32 (bytesAt bs (4 * a) 4)
        let e := bytesAt bs (12 + a) 1
        (quantBound .rd o (bytesAt bs (16 + 6 * c + a) 1) e, quantBound .ru o (bytesAt bs (19 + 6 * c + a) 1) e))
    else
      (List.range 3).map (fun a =>
        (realOf (BitVec.ofNat 32 (bytesAt bs (24 * c + 4 * a) 4)), realOf (BitVec.ofNat 32 (bytesAt bs (24 * c + 12 + 4 * a) 4))))
  if bounds.all (fun b => b.1.isSome && b.2.isSome) then
    some (bounds.map (fun b => b.1.getD .neg), bounds.map (fun b => b.2.getD .neg))
  else none

/-- The children of a node; none when it is malformed (R321, R322). -/
def nodeChildren (h : Scene) (bs : List Byte) : Option (List Child) :=
  let n := h.arity
  let words := if h.quant then 16 + 6 * n else 24 * n
  let used := words + 4 * n
  let resBad := bytesAt bs used (h.nodeSize - used) != 0 || (h.quant && bytesAt bs 15 1 != 0)
  let kids := (List.range n).map (fun c =>
    let w : Word := BitVec.ofNat 32 (bytesAt bs (words + 4 * c) 4)
    if childKind w == 0 then some (⟨[], [], w⟩ : Child)
    else if !kindOk h.top w then none
    else (childBox h bs c).map (fun b => ⟨b.1, b.2, w⟩))
  if resBad || kids.any Option.isNone then none else some (kids.filterMap id)

/-! ### Rays and tests (R325 to R327) -/

/-- A ray with finite origin and direction. -/
structure Ray where
  o : Vec3
  d : Vec3
  ow : List Word
  dw : List Word
  tmin : Real1
  tmax : Real1
  deriving DecidableEq, Repr

/-- The ray of a group of eight words; none when it is invalid (R325, R330). -/
def rayOf (g : List Word) : Option Ray :=
  match vecOf (g.take 3), vecOf ((g.drop 4).take 3), realOf (g.getD 3 0), realOf (g.getD 7 0) with
  | some o, some d, some t0, some t1 =>
    if d == ⟨0, 0, 0⟩ || t1.lt t0 then none else some ⟨o, d, g.take 3, (g.drop 4).take 3, t0, t1⟩
  | _, _, _, _ => none

/-- A row of a transform applied: one exact sum, rounded once (R325). -/
def transformRow (m : List Word) (r : Nat) (x : List Word) (shift : Bool) : Word :=
  BitVec.ofNat 32 (rndProducts fp32 .rn ((List.range 3).map (fun c => (num32 (m.getD (4 * r + c) 0), num32 (x.getD c 0))))
    (if shift then [num32 (m.getD (4 * r + 3) 0)] else [])).bits

/-- The ray in object space; none where the instance yields no hit (R325). -/
def Ray.inside (r : Ray) (m : List Word) : Option Ray :=
  let ow := (List.range 3).map (fun k => transformRow m k r.ow true)
  let dw := (List.range 3).map (fun k => transformRow m k r.dw false)
  match vecOf ow, vecOf dw with
  | some o, some d => if d == ⟨0, 0, 0⟩ then none else some { r with o := o, d := d, ow := ow, dw := dw }
  | _, _ => none

/-- The quotient (x − o) / d for the end of a box on an axis, with o and d in units of 2^−149, rounded outward. -/
def boxQuot (m : Rm) (x : Real1) (o d : Int) : Real1 :=
  match x with
  | .neg => if 0 < d then .neg else .pos
  | .pos => if 0 < d then .pos else .neg
  | .fin n k => (realOf (rndRatio m (n * 2 ^ 149 - o * k) (d * k))).getD .neg

/-- A box test (R322, R326): the entry t when the box is entered. -/
def boxTest (r : Ray) (tcur : Real1) (c : Child) : Option Real1 :=
  let axes := [(r.o.x, r.d.x), (r.o.y, r.d.y), (r.o.z, r.d.z)].zip (c.lo.zip c.hi)
  let ends := axes.map (fun x =>
    let (o, d) := x.1
    let (lo, hi) := x.2
    if hi.lt lo then none
    else if d == 0 then (if lo.le (.fin o (2 ^ 149)) && (Real1.fin o (2 ^ 149)).le hi then some (Real1.neg, Real1.pos) else none)
    else
      let (near, far) := if 0 < d then (lo, hi) else (hi, lo)
      some (boxQuot .rd near o d, boxQuot .ru far o d))
  if ends.any Option.isNone then none
  else
    let es := ends.filterMap id
    let tn := es.foldl (fun t x => t.max x.1) r.tmin
    let tf := es.foldl (fun t x => t.min x.2) tcur
    if tn.le tf then some tn else none

/-- What a triangle test gives: numerators of t, u and v over a positive denominator, and the face. -/
structure TriHit where
  t : Int
  u : Int
  v : Int
  den : Nat
  back : Bool
  deriving DecidableEq, Repr

/-- A triangle test (R327): nine FP32 words, culling, the ray and the bound. -/
def triTest (r : Ray) (tcur : Real1) (cull : Nat) (g : List Word) : Option TriHit :=
  match vecOf (g.take 3), vecOf ((g.drop 3).take 3), vecOf ((g.drop 6).take 3) with
  | some p0, some p1, some p2 =>
    let e1 := p1.sub p0
    let e2 := p2.sub p0
    let n := e1.cross e2
    let dn := r.d.dot n
    if dn == 0 then none
    else
      let sg : Int := if 0 < dn then 1 else -1
      let s := r.o.sub p0
      let t := sg * ((p0.sub r.o).dot n)
      let u := sg * (-(s.dot (r.d.cross e2)))
      let v := sg * (s.dot (r.d.cross e1))
      let den := dn.natAbs
      let back := decide (0 < dn)
      let tr := Real1.fin t den
      if 0 ≤ u && 0 ≤ v && decide (u + v ≤ (den : Int)) && r.tmin.le tr && tr.le tcur && !(cull == 1 && back) && !(cull == 2 && !back)
      then some ⟨t, u, v, den, back⟩ else none
  | _, _, _ => none

/-! ### Traversal (R328, R329) -/

/-- The best hit so far. -/
structure Hit where
  tri : TriHit
  index : Nat
  inst : Word
  user : Word
  deriving DecidableEq, Repr

/-- The key of a hit is less than another's (R328). -/
def Hit.less (a b : Hit) : Bool :=
  let x := Real1.fin a.tri.t a.tri.den
  let y := Real1.fin b.tri.t b.tri.den
  x.lt y || (x.le y && (a.inst.ult b.inst || (a.inst == b.inst && decide (a.index < b.index))))

/-- Where a walk stands: the header, the ray, the instance index and its USER value. -/
structure Level where
  scene : Scene
  ray : Ray
  inst : Word
  user : Word
  deriving DecidableEq, Repr

/-- A stack entry: an interior node with its children not yet visited, by slot (R329). -/
structure RayNode where
  level : Level
  kids : List (Nat × Child)
  deriving DecidableEq, Repr

/-- A traversal at hand: stack, best hit, box and triangle tests made. -/
structure RayWork where
  stack : List RayNode
  best : Option Hit
  boxes : Nat
  tris : Nat
  deriving DecidableEq, Repr

/-- tcur (R328). -/
def RayWork.bound (w : RayWork) (r : Ray) : Real1 :=
  match w.best with
  | some h => .fin h.tri.t h.tri.den
  | none => r.tmax

/-- An interior node read and pushed (R329). -/
def State.pushNode (s : State) (v : RayEnv) (l : Level) (index : Nat) (w : RayWork) : RayRes RayWork :=
  if 32 ≤ w.stack.length then (s, .error (.code 2))
  else
    let size := l.scene.nodeSize
    rayBind (s.rayRead v.q (l.scene.nodes + BitVec.ofNat 64 (index * size)) size size) (fun bs s1 =>
      match nodeChildren l.scene bs with
      | none => (s1, .error (.code 3))
      | some cs =>
        (s1, .ok { w with stack := ⟨l, ((List.range cs.length).zip cs).filter (fun c => childKind c.2.word != 0)⟩ :: w.stack }))

/-- The triangles of a leaf tested in ascending order; with `any`, up to the first hit (R333). -/
def testLeaf (v : RayEnv) (l : Level) (any : Bool) : Nat → Nat → RayWork → State → RayRes RayWork
  | 0, _, w, s => (s, .ok w)
  | n + 1, k, w, s =>
    if any && w.best.isSome then (s, .ok w)
    else
      rayBind (s.rayRead v.q (l.scene.prims + BitVec.ofNat 64 (36 * k)) 36 4) (fun bs s1 =>
        let w1 := { w with tris := w.tris + 1 }
        let w2 := match triTest l.ray (w1.bound l.ray) (field l.scene.format 9 8) (wordsAt bs 0 9) with
          | some t =>
            let h : Hit := ⟨t, k, l.inst, l.user⟩
            (match w1.best with
            | some b => if h.less b then { w1 with best := some h } else w1
            | none => { w1 with best := some h })
          | none => w1
        testLeaf v l any n (k + 1) w2 s1)

/-- A child word followed that is no instance: an empty one, an interior node, a leaf. -/
def State.enterChild (s : State) (v : RayEnv) (any : Bool) (l : Level) (c : Word) (w : RayWork) : RayRes RayWork :=
  match childKind c with
  | 0 => (s, .ok w)
  | 1 => s.pushNode v l (field c 29 0) w
  | _ => testLeaf v l any (field c 29 26 + 1) (field c 25 0) w s

/-- A descent into an instance (R323, R325). -/
def State.enterInstance (s : State) (v : RayEnv) (any : Bool) (l : Level) (index : Nat) (w : RayWork) : RayRes RayWork :=
  rayBind (s.rayRead v.q (l.scene.prims + BitVec.ofNat 64 (64 * index)) 64 64) (fun bs s1 =>
    if bytesAt bs 60 4 != 0 || bytesAt bs 59 1 != 0 then (s1, .error (.code 3))
    else
      match l.ray.inside (wordsAt bs 0 12) with
      | none => (s1, .ok w)
      | some r =>
        rayBind (s1.readScene v (BitVec.ofNat 64 (bytesAt bs 48 8)) true) (fun h s2 =>
          if !kindOk false h.root then (s2, .error (.code 3))
          else s2.enterChild v any ⟨h, r, BitVec.ofNat 32 index, BitVec.ofNat 32 (bytesAt bs 56 3)⟩ h.root w))

/-- A child word followed. -/
def State.follow (s : State) (v : RayEnv) (any : Bool) (l : Level) (c : Word) (w : RayWork) : RayRes RayWork :=
  if !kindOk l.scene.top c then (s, .error (.code 3))
  else if childKind c == 3 then s.enterInstance v any l (field c 29 0) w
  else s.enterChild v any l c w

/-- The next child of a node, in ORDER, among those whose boxes are entered (R319, R328). -/
def nextChild (order : Nat) (r : Ray) (tcur : Real1) (kids : List (Nat × Child)) : Option (Nat × Child) :=
  (kids.foldl (fun (b : Option ((Nat × Child) × Real1)) k =>
    match boxTest r tcur k.2 with
    | none => b
    | some t =>
      match b with
      | none => some (k, t)
      | some y => if order == 0 && t.lt y.2 then some (k, t) else b) none).map (fun x => x.1)

/-- The walk (R328). Every turn visits a child or pops a node, so no walk of a stack of 32 entries takes 2^100 turns. -/
def rayLoop (v : RayEnv) (any : Bool) : Nat → RayWork → State → RayRes RayWork
  | 0, _, s => (s, .error (.code 2))
  | n + 1, w, s =>
    match w.stack with
    | [] => (s, .ok w)
    | x :: rest =>
      if any && w.best.isSome then (s, .ok w)
      else
        let w1 := { w with boxes := w.boxes + x.kids.length }
        match nextChild (field x.level.scene.format 11 10) x.level.ray (w.bound x.level.ray) x.kids with
        | none => rayLoop v any n { w1 with stack := rest } s
        | some k =>
          rayBind (s.follow v any x.level k.2.word { w1 with stack := { x with kids := x.kids.filter (fun y => y.1 != k.1) } :: rest })
            (fun w2 s1 => rayLoop v any n w2 s1)

/-- A lane's traversal (R328): the finished work. -/
def State.traverse (s : State) (v : RayEnv) (any : Bool) (header : W64) (r : Ray) : RayRes RayWork :=
  rayBind (s.readScene v header false) (fun h s1 =>
    rayBind (s1.follow v any ⟨h, r, 0xFFFFFFFF, 0⟩ h.root ⟨[], none, 0, 0⟩) (fun w s2 => rayLoop v any (2 ^ 100) w s2))

/-! ### Results (R331 to R334) -/

/-- A status word (R331). -/
def statusWord (hit back : Bool) (code : Nat) : Word :=
  BitVec.ofNat 32 ((if hit then 2 ^ 31 else 0) + (if hit && back then 2 ^ 30 else 0) + code)

/-- The result group of `trace` (R332). -/
def traceWords (header : W64) (x : Except Nat (Option Hit)) : List Word :=
  let miss := fun (st : Word) => [0x7F800000, 0xFFFFFFFF, 0xFFFFFFFF, st, lo32 header, hi32 header, 0, 0]
  match x with
  | .error n => miss (statusWord false false n)
  | .ok none => miss (statusWord false false 0)
  | .ok (some h) =>
    [rndRatio .rn h.tri.t h.tri.den, BitVec.ofNat 32 h.index, h.inst, statusWord true h.tri.back 0, lo32 header, hi32 header, h.user, 0]

/-- The triangle that `trres` reads again (R334): the test's outcome. -/
def State.retest (s : State) (v : RayEnv) (r : Ray) (g : List Word) : RayRes (Option TriHit) :=
  let header := pair (g.getD 4 0) (g.getD 5 0)
  let tri := fun (l : Level) (s : State) =>
    rayBind (s.rayRead v.q (l.scene.prims + BitVec.ofNat 64 (36 * (g.getD 1 0).toNat)) 36 4) (fun bs s1 =>
      (s1, .ok (triTest l.ray l.ray.tmax (field l.scene.format 9 8) (wordsAt bs 0 9))))
  rayBind (s.readScene v header false) (fun h s1 =>
    let inst := g.getD 2 0
    if inst == 0xFFFFFFFF then (if h.top then (s1, .error (.code 3)) else tri ⟨h, r, inst, 0⟩ s1)
    else if !h.top then (s1, .error (.code 3))
    else
      rayBind (s1.rayRead v.q (h.prims + BitVec.ofNat 64 (64 * inst.toNat)) 64 64) (fun bs s2 =>
        if bytesAt bs 60 4 != 0 || bytesAt bs 59 1 != 0 then (s2, .error (.code 3))
        else
          match r.inside (wordsAt bs 0 12) with
          | none => (s2, .ok none)
          | some r1 =>
            rayBind (s2.readScene v (BitVec.ofNat 64 (bytesAt bs 48 8)) true) (fun h1 s3 => tri ⟨h1, r1, inst, 0⟩ s3)))

/-- The attributes of `trres` (R334). -/
def attrWords (x : Except Nat (Option TriHit)) : List Word :=
  match x with
  | .error n => [0, 0, 0, statusWord false false n]
  | .ok none => [0, 0, 0, 0]
  | .ok (some h) => [rndRatio .rn h.u h.den, rndRatio .rn h.v h.den, rndRatio .rn (h.den - h.u - h.v) h.den, statusWord true h.back 0]

/-! ### Light trees (R336, R337) -/

/-- A node of a light tree. -/
structure LightNode where
  link : Word
  phi : Word
  r : Word
  c : List Word
  deriving DecidableEq, Repr

/-- Not a NaN and not an infinity. -/
def finite32 (w : Word) : Bool := !(num32 w).isNan && !(num32 w).isInf

/-- A light node read; a malformed one is an error. -/
def State.readLight (s : State) (q : Xreq) (nodes : W64) (count k : Nat) : RayRes LightNode :=
  rayBind (s.rayRead q (nodes + BitVec.ofNat 64 (32 * k)) 32 32) (fun bs s1 =>
    let ws := wordsAt bs 0 6
    let x : LightNode := ⟨ws.getD 5 0, ws.getD 4 0, ws.getD 3 0, ws.take 3⟩
    let l := field x.link 30 0
    if bytesAt bs 24 8 != 0 || !finite32 x.phi || ((num32 x.phi).neg && !(num32 x.phi).isZero) || !finite32 x.r || !x.c.all finite32
        || (!x.link.getLsbD 31 && (decide (l ≤ k) || decide (count ≤ l + 1))) then (s1, .error (.code 3))
    else (s1, .ok x))

/-- I of a child for a point (R337). -/
def lightWeight (x : LightNode) (p : List Word) : Word :=
  let d := (List.range 3).map (fun k => num32 (BitVec.ofNat 32 (fSub fp32 .rn (x.c.getD k 0).toNat (p.getD k 0).toNat).bits))
  let den0 := (rndProducts fp32 .rn (d.map (fun y => (y, y))) []).bits
  let den1 := (fMul fp32 .rn x.r.toNat x.r.toNat).bits
  let den := if numCmp (fp32.decode den0) (fp32.decode den1) < 0 then den1 else den0
  if (num32 x.phi).isZero then 0
  else if (fp32.decode den).isZero then 0x7F800000
  else BitVec.ofNat 32 (fDiv .rn x.phi.toNat den).bits

/-- The probabilities of the children for their weights (R337). -/
def lightSplit (a b : Word) : Word × Word :=
  if (num32 a).isInf && (num32 b).isInf then (0x3F000000, 0x3F000000)
  else if (num32 a).isInf then (0x3F800000, 0)
  else if (num32 b).isInf then (0, 0x3F800000)
  else
    match unitsOf a, unitsOf b with
    | some x, some y => (rndRatio .rn x (x + y), rndRatio .rn y (x + y))
    | _, _ => (0, 0)

/-- The walk from an interior node, with the interior nodes still allowed. -/
def lightLoop (q : Xreq) (nodes : W64) (count : Nat) (p : List Word) : Nat → LightNode → Word → Word → State → RayRes (Word × Word)
  | 0, x, _, prob, s => if x.link.getLsbD 31 then (s, .ok (x.link &&& 0x7FFFFFFF, prob)) else (s, .error (.code 3))
  | n + 1, x, u, prob, s =>
    if x.link.getLsbD 31 then (s, .ok (x.link &&& 0x7FFFFFFF, prob))
    else
      let l := field x.link 30 0
      rayBind (s.readLight q nodes count l) (fun a s1 =>
        rayBind (s1.readLight q nodes count (l + 1)) (fun b s2 =>
          let ia := lightWeight a p
          let ib := lightWeight b p
          if (num32 ia).isZero && (num32 ib).isZero then (s2, .ok (0xFFFFFFFF, 0))
          else
            let (pl, pr) := lightSplit ia ib
            let low := numCmp (num32 u) (num32 pl) < 0
            let u1 := if low then BitVec.ofNat 32 (fDiv .rn u.toNat pl.toNat).bits
              else
                match unitsOf u, unitsOf pl, unitsOf pr with
                | some x, some y, some z => if z == 0 then 0x3F800000 else rndRatio .rn (x - y) z
                | _, _, _ => 0
            let u2 := if numCmp (num32 u1) (num32 0x3F800000) < 0 then u1 else 0x3F7FFFFF
            lightLoop q nodes count p n (if low then a else b) u2 (rnMul prob (if low then pl else pr)) s2))

/-- A lane's walk (R337): the light and its probability. -/
def State.lightWalk (s : State) (q : Xreq) (header : W64) (g : List Word) : RayRes (Word × Word) :=
  let p := g.take 3
  let u := g.getD 3 0
  if !p.all finite32 || (num32 u).isNan || ((num32 u).neg && !(num32 u).isZero) || !(numCmp (num32 u) (num32 0x3F800000) < 0) then
    (s, .error (.code 1))
  else
    rayBind (s.rayRead q header 16 16) (fun bs s1 =>
      let count := bytesAt bs 8 4
      let nodes : W64 := BitVec.ofNat 64 (bytesAt bs 0 8)
      if bytesAt bs 12 4 != 0 || count == 0 || 2 ^ 30 < count || nodes.toNat % 32 != 0 then (s1, .error (.code 3))
      else rayBind (s1.readLight q nodes count 0) (fun x s2 => lightLoop q nodes count p 64 x u 0x3F800000 s2))

/-! ### Format tables (R318) -/

/-- A table in which every entry reads as V = 0. -/
def blankTable : List W64 := List.replicate 16 0

/-- A core's copy of a table. -/
def State.rayTable (s : State) (c : CoreId) (ctx : BitVec 12) : Option RayTable := s.rayTables.find? (fun t => t.core == c && t.ctx == ctx)

/-- A core's copy replaced. -/
def State.setRayTable (s : State) (t : RayTable) : State :=
  { s with rayTables := t :: s.rayTables.filter (fun x => !(x.core == t.core && x.ctx == t.ctx)) }

/-- The entries read into a core's copy (R318), or the fault posted. -/
def State.loadRayTable (s : State) (c : CoreId) (ctx : BitVec 12) (slot : Slot) : State :=
  let r := s.reg (.raytab slot)
  if !r.getLsbD 63 then s.setRayTable ⟨c, ctx, blankTable, none⟩
  else
    let a : W64 := BitVec.ofNat 64 (field r 59 7 * 128)
    match s.rayRead (engineReq ctx slot c.die c.quad .read) a 128 128 with
    | (s1, .ok bs) => s1.setRayTable ⟨c, ctx, (List.range 16).map (fun i => BitVec.ofNat 64 (bytesAt bs (8 * i) 8)), none⟩
    | (s1, .error (.code _)) => s1.setRayTable ⟨c, ctx, blankTable, none⟩
    | (s1, .error (.wait f b)) =>
      let (s2, id) := s1.postFault c.die c.quad 5 (c.core.setWidth 4) ctx slot f b
      s2.setRayTable ⟨c, ctx, blankTable, some id⟩

/-- The table a core uses for a context, once its load is over: none while the answer to its fault is awaited. -/
def State.useRayTable (s : State) (c : CoreId) (ctx : BitVec 12) (slot : Slot) : State × Option (List W64) :=
  match s.rayTable c ctx with
  | none => (s, some blankTable)
  | some t =>
    match t.post with
    | none => (s, some t.entries)
    | some p =>
      if !s.answered p then (s, none)
      else if s.postState p == .fixed then
        let s1 := (s.dropPost p).loadRayTable c ctx slot
        match s1.rayTable c ctx with
        | some u => (s1, if u.post.isNone then some u.entries else none)
        | none => (s1, none)
      else ((s.dropPost p).setRayTable { t with post := none }, some t.entries)

/-- RAYTAB write (R318): refused while gangs of the slot are resident, for EN with address bits [59:57], or for a reserved bit (R4). ERR is
cleared by writing one. -/
def execRaytabWrite (k : Slot) (v : W64) (s : State) : Host.Outcome State Fault Refusal :=
  let r := s.reg (.raytab k)
  if s.slotBusy k || (v.getLsbD 63 && field v 59 57 != 0) || field v 61 60 != 0 || field v 6 0 != 0 then
    .next (s.setReg (.raytab k) (setField r 62 62 1))
  else .next (s.setReg (.raytab k) (setField v 62 62 (if v.getLsbD 62 then 0 else field r 62 62)))

/-! ### Lanes under way (R332 to R335, R337) -/

/-- The words of a group a or b in a lane. -/
def groupA (px : Pfx) (f : Fields) (st : Strand) (n l : Nat) : List Word := (List.range n).map (fun j => srcAAt px f st j l)
def groupB (px : Pfx) (f : Fields) (st : Strand) (n l : Nat) : List Word := (List.range n).map (fun j => srcBAt px f st j l)

/-- A traversal or walk put under way (R324, R332): earlier writes of the strand are performed first. -/
def rayBody (i : Instr) (kind : RayKind) (na nb nd : Nat) : Body := fun k s =>
  match s.strands[s.cur]? with
  | none => (s, .done)
  | some st =>
    let act := st.active i.px
    let f := fieldsAt i k
    if act == 0 then (s, .done)
    else if st.posted != 0 then (s.modCur (fun x => x.hold .posted), .again)
    else
      let s1 := s.drain st.who
      let id := s1.nextId
      let s2 := s1.defer st { Result.blank st.who with vregs := groupRegs f.d.reg nd, pending := [id] }
      ({ s2 with rayOps := s2.rayOps ++ [⟨id, st.who, st.core, st.who.ctx, st.ctxSlot, kind, f.d.reg,
          (lanesOf act).map (fun l => ⟨l, groupA i.px f st na l, groupB i.px f st nb l, none, none⟩)⟩] }, .done)

/-- An operation changed. -/
def State.modRay (s : State) (id : Nat) (f : RayOp → RayOp) : State :=
  { s with rayOps := s.rayOps.map (fun r => if r.result == id then f r else r) }

/-- A lane of an operation changed. -/
def RayOp.setLane (r : RayOp) (l : Nat) (f : RayLane → RayLane) : RayOp :=
  { r with lanes := r.lanes.map (fun x => if x.lane == l then f x else x) }

/-- Once every lane has ended, the results are ready to be written (R332). -/
def State.rayDone (s : State) (id : Nat) : State :=
  match s.rayOps.find? (fun r => r.result == id) with
  | none => s
  | some r =>
    if r.lanes.any (fun l => l.answer.isNone) then s
    else
      let ws := r.lanes.foldr (fun l ws =>
        let a := l.answer.getD []
        ((List.range a.length).zip a).map (fun p => (r.dest + p.1, l.lane, p.2)) ++ ws) []
      ({ s with rayOps := s.rayOps.filter (fun x => x.result != id) } : State).modResult id (fun x =>
        { x with vwrites := x.vwrites ++ ws, pending := [] })

/-- What a lane's unit computes: its words, or a fault to post. -/
def State.rayLaneRun (s : State) (r : RayOp) (l : RayLane) (table : List W64) : State × Except (AFault × W64) (List Word) :=
  let q := engineReq r.ctx r.slot r.core.die r.core.quad .read
  let v : RayEnv := ⟨q, table⟩
  let charge := fun (s : State) (w : RayWork) => s.charge r.ctx r.who.gang r.core.die (w.boxes * chargeBox + w.tris * chargeTriangle)
  let header := pair (l.b.getD 0 0) (l.b.getD 1 0)
  match r.kind with
  | .ltwalk =>
    (match s.lightWalk q header l.a with
    | (s1, .ok (x, p)) => (s1, .ok [x, p])
    | (s1, .error (.wait f a)) => (s1, .error (f, a))
    | (s1, .error (.code _)) => (s1, .ok [0xFFFFFFFE, BitVec.ofNat 32 fp32.canon]))
  | .trres =>
    if !(l.b.getD 3 0).getLsbD 31 then (s, .ok [0, 0, 0, l.b.getD 3 0])
    else
      (match rayOf l.a with
      | none => (s, .ok (attrWords (.error 1)))
      | some ray =>
        match s.retest v ray l.b with
        | (s1, .ok h) => (s1, .ok (attrWords (.ok h)))
        | (s1, .error (.wait f a)) => (s1, .error (f, a))
        | (s1, .error (.code n)) => (s1, .ok (attrWords (.error n))))
  | k =>
    let out := fun (x : Except Nat (Option Hit)) =>
      if k == .trace then traceWords header x
      else [match x with | .error n => statusWord false false n | .ok none => 0 | .ok (some h) => statusWord true h.tri.back 0]
    (match rayOf l.a with
    | none => (s, .ok (out (.error 1)))
    | some ray =>
      match s.traverse v (k == .traceocc) header ray with
      | (s1, .ok w) => (charge s1 w, .ok (out (.ok w.best)))
      | (s1, .error (.wait f a)) => (s1, .error (f, a))
      | (s1, .error (.code n)) => (s1, .ok (out (.error n))))

/-- What a lane ends with at an unfixable answer (R324, R331, R337). -/
def RayOp.unfixable (r : RayOp) (l : RayLane) : List Word :=
  match r.kind with
  | .ltwalk => [0xFFFFFFFE, BitVec.ofNat 32 fp32.canon]
  | .trres => attrWords (.error 4)
  | .trace => traceWords (pair (l.b.getD 0 0) (l.b.getD 1 0)) (.error 4)
  | .traceocc => [statusWord false false 4]

/-- A lane run to its end, or to a fault that it waits for. -/
def State.rayLane (s : State) (r : RayOp) (l : RayLane) (table : List W64) : State :=
  match s.rayLaneRun r l table with
  | (s1, .ok ws) => (s1.modRay r.result (fun x => x.setLane l.lane (fun y => { y with answer := some ws, post := none }))).rayDone r.result
  | (s1, .error (f, a)) =>
    let (s2, id) := s1.postFault r.core.die r.core.quad 4 (if r.kind == .ltwalk then 4 else r.core.core.setWidth 4) r.ctx r.slot f a
    s2.modRay r.result (fun x => x.setLane l.lane (fun y => { y with post := some id }))

/-- A lane looked at: run, or run again after an answer. -/
def State.rayTurn (s0 : State) (id : Nat) (lane : Nat) (light : Bool) : State :=
  match s0.rayOps.find? (fun r => r.result == id) with
  | none => s0
  | some r =>
    let s := s0.paidBy r.ctx r.who.gang r.core.die
    match r.lanes.find? (fun l => l.lane == lane && l.answer.isNone) with
    | none => s
    | some l =>
      if (r.kind == .ltwalk) != light then s
      else
        match l.post with
        | some p =>
          if !s.answered p then s
          else if s.postState p == .fixed then
            match (if light then (s, some blankTable) else s.useRayTable r.core r.ctx r.slot) with
            | (s1, some t) => (s1.dropPost p).rayLane r l t
            | (s1, none) => s1
          else
            ((s.dropPost p).modRay id (fun x => x.setLane lane (fun y => { y with answer := some (r.unfixable l), post := none }))).rayDone id
        | none =>
          match (if light then (s, some blankTable) else s.useRayTable r.core r.ctx r.slot) with
          | (s1, some t) => s1.rayLane r l t
          | (s1, none) => s1

/-- Ray lane complete (R332 to R334): the traversal of a lane of the operation whose result is `id` runs to its end. -/
def execRayLaneComplete (id : Nat) (lane : BitVec 5) (s : State) : Host.Outcome State Fault Refusal := .next (s.rayTurn id lane.toNat false)

/-- Light walk lane complete (R337). -/
def execLightWalkLaneComplete (id : Nat) (lane : BitVec 5) (s : State) : Host.Outcome State Fault Refusal :=
  .next (s.rayTurn id lane.toNat true)

/-! ### The instructions -/

/-- `trace` (R332). -/
def execTrace (px : Pfx) (d a b : BitVec 8) (s : State) : Host.Outcome State Fault Refusal :=
  issue (.trace px d a b) (rayBody (.trace px d a b) .trace 8 2 8) s

/-- `traceocc` (R333). -/
def execTraceocc (px : Pfx) (d a b : BitVec 8) (s : State) : Host.Outcome State Fault Refusal :=
  issue (.traceocc px d a b) (rayBody (.traceocc px d a b) .traceocc 8 2 1) s

/-- `trres` (R334). -/
def execTrres (px : Pfx) (d a b : BitVec 8) (s : State) : Host.Outcome State Fault Refusal :=
  issue (.trres px d a b) (rayBody (.trres px d a b) .trres 8 8 4) s

/-- `ltwalk` (R337). -/
def execLtwalk (px : Pfx) (d a b : BitVec 8) (s : State) : Host.Outcome State Fault Refusal :=
  issue (.ltwalk px d a b) (rayBody (.ltwalk px d a b) .ltwalk 4 2 2) s

end Sys2Proof.Machine
end

