-- ==== Sys2Proof/Machine/Start.lean ====
section
/-! DEFINITION. The start state of a strand (R134, R380), and the agents' turns that are no instruction or event of the table:
evictions and the passing of time. -/

namespace Sys2Proof.Machine

open Sys2Proof

/-- The system registers at the start of a strand (R129, Table 3, R432). -/
def SysRegs.start (mode : Mode) (handler sysmap : W64) : SysRegs where
  hnd := false
  rpt := false
  mode := mode
  cause := 0
  epc := 0
  emask := 0
  donemask := 0
  faddr := 0
  rptstate := 0
  fpmode := 0
  fpflags := 0
  rsvflags := 0
  handler := handler
  rfault := 0
  oobcount := 0
  hscratch0 := 0
  hscratch1 := 0
  sysmap := sysmap
  walkent := 0

/-- A batch with no entries. -/
def Batch.blank : Batch := ⟨[], false, false⟩

/-- A strand at its start (R134, R219, R380): every register zero but the preloaded words, every full/empty bit set, every lane live
unless the last lanes are cut off, and waiting for admission. -/
def Strand.start (who : Who) (slot : Slot) (core : CoreId) (place vregs : Nat) (pc : W64) (preload : List Word) (sr : SysRegs) : Strand where
  who := who
  ctxSlot := slot
  core := core
  slot := place
  state := .waiting
  before := .waiting
  park := none
  waiting := none
  remote := none
  script := []
  owed := none
  entering := []
  pc := pc
  rptAt := 0
  reissue := false
  v := List.replicate vregs []
  w := (List.range 64).map (fun i => preload.getD i 0)
  m := BitVec.allOnes 32 :: List.replicate 7 0
  b := List.replicate 16 0
  emptyV := []
  emptyW := []
  live := BitVec.allOnes 32
  sr := sr
  quadCoherent := BitVec.allOnes 8
  leaseDecl := false
  leaseLines := 0
  leasePeak := 0
  leaseSeen := false
  admission := 0
  order := 0
  spell := 0
  waitSince := 0
  issueSince := 0
  yielded := false
  posted := 0
  mfail := 0
  claim := none
  openBatch := Batch.blank
  sealedBatches := List.replicate 4 none
  tickets := List.replicate 8 none

/-- A partial copy evicted: combined alone into its home line (R83). -/
def State.evictCopy (s : State) (line : Nat) (d : Die) : State :=
  match s.copyOf line d with
  | some c => s.combineCopy c
  | none => s

/-- An unpinned line evicted from the L2 (R72). -/
def State.evictLine (s : State) (line : Nat) : State :=
  match s.l2Line line with
  | some l => if l.pins == 0 then s.l2Evict l else s
  | none => s

/-- Cycles pass (R130). -/
def State.pass (s : State) (n : Nat) : State := { s with cycle := s.cycle + n }

end Sys2Proof.Machine
end

