-- ==== Sys2Proof/Machine/Twill.lean ====
section
/-! DEFINITION. The Twill reuse engines (R288, R351 to R361): descriptors, the per-pixel procedure, callables, tickets, and `twl` and
`twlwait`. -/

namespace Sys2Proof.Machine

open Sys2Proof

/-! ### Descriptors (R352, R353) -/

/-- The fields of a descriptor (R352, Tables 4 and 5). -/
structure Twill where
  ctl : W64
  cur : W64
  out : W64
  prev : W64
  mv : W64
  own : W64
  scene : W64
  key : W64
  ctrBase : W64
  tx0 : Nat
  ty0 : Nat
  ntx : Nat
  nty : Nat
  width : Nat
  height : Nat
  halo : List W64
  reserved : Bool
  deriving DecidableEq, Repr

/-- A descriptor's fields. -/
def twillOf (bs : List Byte) : Twill :=
  let w := fun (o : Nat) => BitVec.ofNat 64 (bytesAt bs o 8)
  ⟨w 0, w 8, w 24, w 16, w 32, w 40, w 48, w 56, w 64, bytesAt bs 72 2, bytesAt bs 74 2, bytesAt bs 76 2, bytesAt bs 78 2,
    bytesAt bs 80 2, bytesAt bs 82 2, (List.range 4).map (fun d => w (88 + 8 * d)), bytesAt bs 84 4 != 0 || bytesAt bs 120 8 != 0⟩

/-- The fields of the control word (R352, Table 5). -/
def Twill.nspat (t : Twill) : Nat := field t.ctl 3 0
def Twill.temporal (t : Twill) : Bool := t.ctl.getLsbD 4
def Twill.vis (t : Twill) : Bool := t.ctl.getLsbD 5
def Twill.norm (t : Twill) : Bool := t.ctl.getLsbD 6
def Twill.rad (t : Twill) : Nat := field t.ctl 13 8
def Twill.haloW (t : Twill) : Nat := field t.ctl 21 16
def Twill.call (t : Twill) : Nat := field t.ctl 39 32
def Twill.mcap (t : Twill) : Nat := field t.ctl 63 48

/-- A surface's address is one that R353 allows. -/
def surfaceOk (align : Nat) (a : W64) : Bool := decide (field a 63 60 < 2) && field a 59 57 == 0 && a.toNat % align == 0

/-- The bytes of two surfaces of the frame overlap. -/
def Twill.meets (t : Twill) (a b : W64) : Bool :=
  overlaps (field a 56 0) (t.width * t.height * 32) (field b 56 0) (t.width * t.height * 32)

/-- The checks of R353 that read nothing. -/
def Twill.refused (t : Twill) (die : Die) : Bool :=
  let sizeBad := fun (n : Nat) => n % 16 != 0 || decide (n < 16) || decide (32768 < n)
  let halos := (List.range 4).filter (fun d => t.halo.getD d 0 != 0)
  t.reserved || field t.ctl 47 40 != 0 || field t.ctl 31 22 != 0 || field t.ctl 15 14 != 0 || t.ctl.getLsbD 7
    || t.mcap == 0 || decide (32 < t.haloW) || t.rad == 0 || decide (32 < t.rad) || decide (8 < t.nspat)
    || sizeBad t.width || sizeBad t.height || t.ntx == 0 || t.nty == 0
    || (!t.vis && t.scene != 0) || (!t.temporal && (t.mv != 0 || t.prev != 0))
    || decide (t.haloW < t.rad)
    || decide (t.width / 16 < t.tx0 + t.ntx) || decide (t.height / 16 < t.ty0 + t.nty)
    || !surfaceOk 8192 t.cur || !surfaceOk 8192 t.out || !surfaceOk 8 t.own
    || (t.temporal && (!surfaceOk 8192 t.prev || !surfaceOk 8 t.mv))
    || halos.any (fun d => !surfaceOk 8192 (t.halo.getD d 0) || t.meets t.out (t.halo.getD d 0))
    || t.meets t.out t.cur || (t.temporal && t.meets t.out t.prev)
    || t.halo.getD die.toNat 0 != 0

/-- The tile of a pixel, in the order of the ownership map (R351). -/
def Twill.tile (t : Twill) (x y : Nat) : Nat := y / 16 * (t.width / 16) + x / 16

/-- The offset of a pixel's record in a surface (R351). -/
def Twill.offset (t : Twill) (x y : Nat) : Nat := t.tile x y * 8192 + (y % 16 * 16 + x % 16) * 32

/-- The `n`-th pixel of the rectangle. -/
def Twill.pixel (t : Twill) (n : Nat) : Nat × Nat := (t.tx0 * 16 + n % (t.ntx * 16), t.ty0 * 16 + n / (t.ntx * 16))

/-- The pixels of the rectangle. -/
def Twill.pixels (t : Twill) : Nat := t.ntx * 16 * (t.nty * 16)

/-- Draw j of a pixel: the random word and the draw (R354). -/
def Twill.counter (t : Twill) (x y j : Nat) : W64 := t.ctrBase + BitVec.ofNat 64 ((y * t.width + x) * 64 + j)
def Twill.h (t : Twill) (x y j : Nat) : Nat := (randomH t.key (t.counter x y j)).toNat
def Twill.u (t : Twill) (x y j : Nat) : Word := randomU t.key (t.counter x y j)

/-! ### Accesses (R357, R359) -/

/-- The translation request of an operation. -/
def TwillOp.xreq (o : TwillOp) (kind : AccessKind) : Xreq := engineReq o.ctx o.slot o.die o.quad kind

/-- The gang of an operation. -/
def State.twillGang (s : State) (o : TwillOp) : Option Gang := s.findGang o.ctx o.who.gang

/-- The place of an access of an operation with the virtual die of its page, and the page of an unbacked region; it fails on a page with TGT 1 or 2 and
on a path, alignment or vault fault, and posts the others. -/
def State.twillPlace (s : State) (o : TwillOp) (kind : AccessKind) (a : W64) (align : Nat) : RayRes (Nat × Die × Option PageSlot) :=
  match s.route (o.xreq kind) (s.twillGang o) a align with
  | (s1, .bad f) => (s1, .error (if f.posts then .wait f a else .code 1))
  | (s1, .ok (p, far)) =>
    if far then (s1, .error (.code 1))
    else
      match p with
      | .mem x => (s1, .ok (x, dieOf x, none))
      | .page p off => (s1, .ok (Config.pageAddr p.die p.ctx p.vpn + off, p.die, some p))
      | .peer _ _ => (s1, .error (.code 1))

/-- The slot of a write to a page of an unbacked region (R61, R62); none left posts the fault. -/
def State.twillSlot (s : State) (page : Option PageSlot) (a : W64) : RayRes Unit :=
  match page with
  | none => (s, .ok ())
  | some p =>
    match s.allocSlot p with
    | some s1 => (s1, .ok ())
    | none => (s, .error (.wait (capacityFault p) a))

/-- Bytes read at their home, with the virtual die of the page. -/
def State.twillRead (s : State) (o : TwillOp) (a : W64) (n : Nat) : RayRes (List Byte × Die) :=
  rayBind (s.twillPlace o .read a n) (fun x s1 => let r := s1.homeRead x.1 n; (r.1, .ok (r.2, x.2.1)))

/-- The owner of a tile (R351); a byte with bits above [1:0] fails the operation. -/
def State.twillOwner (s : State) (o : TwillOp) (t : Twill) (tile : Nat) : RayRes Die :=
  rayBind (s.twillRead o (t.own + BitVec.ofNat 64 tile) 1) (fun x s1 =>
    let b := (x.1.getD 0 0).toNat
    if 4 ≤ b then (s1, .error (.code 1)) else (s1, .ok (BitVec.ofNat 2 b)))

/-- The bytes of the page of an address that an operation has just translated (R38, R41). -/
def State.pageSpan (s : State) (o : TwillOp) (a : W64) : Nat :=
  match s.quadTlb.find? (fun x => x.1 == o.die && x.2.1 == o.quad && tlbServes x.2.2 o.ctx (field a 56 0)) with
  | some x => 2 ^ levelShift x.2.2.level
  | none => 65536

/-- The tiles that the page of an address holds of a surface, a page of `span` bytes (R351, R359). -/
def Twill.pageTiles (t : Twill) (span : Nat) (surface a : W64) : List Nat :=
  let base := field surface 56 0
  let page := field a 56 0 / span * span
  (List.range (span / 8192)).filterMap (fun k =>
    let x := page + 8192 * k
    if base ≤ x ∧ (x - base) / 8192 < t.width / 16 * (t.height / 16) then some ((x - base) / 8192) else none)

/-- Every tile of a list is owned by a die; another owner fails the operation (R353, R359, R69). -/
def ownedBy (o : TwillOp) (t : Twill) (d : Die) : List Nat → State → RayRes Unit
  | [], s => (s, .ok ())
  | k :: ks, s => rayBind (s.twillOwner o t k) (fun x s1 => if x == d then ownedBy o t d ks s1 else (s1, .error (.code 1)))

/-- A record of a surface read, with the placement rule checked on its page (R359): `own` where the page is to be the tiles' owner's,
and the engine's own die otherwise. -/
def State.twillRecord (s : State) (o : TwillOp) (t : Twill) (surface : W64) (own : Bool) (x y : Nat) : RayRes Record :=
  let a := surface + BitVec.ofNat 64 (t.offset x y)
  rayBind (s.twillRead o a 32) (fun r s1 =>
    rayBind (if own then ownedBy o t r.2 (t.pageTiles (s1.pageSpan o a) surface a) s1 else (s1, if r.2 == o.die then .ok () else .error (.code 1)))
      (fun _ s2 => (s2, .ok (Record.ofWords (wordsAt r.1 0 8)))))

/-! ### Callables (R356) -/

/-- The meaning of an instruction that a callable may use; none for any other. -/
def callableExec (i : Instr) (s : State) : Option (Host.Outcome State Fault Refusal) :=
  match i with
  | .iadd a1 a2 a3 a4 => some (execIadd a1 a2 a3 a4 s)
  | .iaddc a1 a2 a3 a4 => some (execIaddc a1 a2 a3 a4 s)
  | .isub a1 a2 a3 a4 => some (execIsub a1 a2 a3 a4 s)
  | .isubb a1 a2 a3 a4 => some (execIsubb a1 a2 a3 a4 s)
  | .imul a1 a2 a3 a4 => some (execImul a1 a2 a3 a4 s)
  | .imulh a1 a2 a3 a4 => some (execImulh a1 a2 a3 a4 s)
  | .imulhn a1 a2 a3 a4 => some (execImulhn a1 a2 a3 a4 s)
  | .imad a1 a2 a3 a4 => some (execImad a1 a2 a3 a4 s)
  | .iabs a1 a2 a3 => some (execIabs a1 a2 a3 s)
  | .imin a1 a2 a3 a4 => some (execImin a1 a2 a3 a4 s)
  | .imax a1 a2 a3 a4 => some (execImax a1 a2 a3 a4 s)
  | .iminn a1 a2 a3 a4 => some (execIminn a1 a2 a3 a4 s)
  | .imaxn a1 a2 a3 a4 => some (execImaxn a1 a2 a3 a4 s)
  | .icmp a1 a2 a3 a4 a5 => some (execIcmp a1 a2 a3 a4 a5 s)
  | .selL a1 a2 a3 a4 => some (execSelL a1 a2 a3 a4 s)
  | .andL a1 a2 a3 a4 => some (execAndL a1 a2 a3 a4 s)
  | .orL a1 a2 a3 a4 => some (execOrL a1 a2 a3 a4 s)
  | .xorL a1 a2 a3 a4 => some (execXorL a1 a2 a3 a4 s)
  | .andn a1 a2 a3 a4 => some (execAndn a1 a2 a3 a4 s)
  | .notL a1 a2 a3 => some (execNotL a1 a2 a3 s)
  | .shl a1 a2 a3 a4 => some (execShl a1 a2 a3 a4 s)
  | .shr a1 a2 a3 a4 => some (execShr a1 a2 a3 a4 s)
  | .sra a1 a2 a3 a4 => some (execSra a1 a2 a3 a4 s)
  | .rotl a1 a2 a3 a4 => some (execRotl a1 a2 a3 a4 s)
  | .popc a1 a2 a3 => some (execPopc a1 a2 a3 s)
  | .clz a1 a2 a3 => some (execClz a1 a2 a3 s)
  | .ctz a1 a2 a3 => some (execCtz a1 a2 a3 s)
  | .brev a1 a2 a3 => some (execBrev a1 a2 a3 s)
  | .bfe a1 a2 a3 a4 => some (execBfe a1 a2 a3 a4 s)
  | .bfes a1 a2 a3 a4 => some (execBfes a1 a2 a3 a4 s)
  | .bfi a1 a2 a3 a4 => some (execBfi a1 a2 a3 a4 s)
  | .mov a1 a2 a3 => some (execMov a1 a2 a3 s)
  | .movw a1 a2 a3 => some (execMovw a1 a2 a3 s)
  | .movi a1 a2 a3 => some (execMovi a1 a2 a3 s)
  | .lid a1 a2 a3 => some (execLid a1 a2 a3 s)
  | .fadd a1 a2 a3 a4 => some (execFadd a1 a2 a3 a4 s)
  | .fsub a1 a2 a3 a4 => some (execFsub a1 a2 a3 a4 s)
  | .fmul a1 a2 a3 a4 => some (execFmul a1 a2 a3 a4 s)
  | .ffma a1 a2 a3 a4 => some (execFfma a1 a2 a3 a4 s)
  | .fmin a1 a2 a3 a4 => some (execFmin a1 a2 a3 a4 s)
  | .fmax a1 a2 a3 a4 => some (execFmax a1 a2 a3 a4 s)
  | .fcmp a1 a2 a3 a4 a5 => some (execFcmp a1 a2 a3 a4 a5 s)
  | .fdiv a1 a2 a3 a4 => some (execFdiv a1 a2 a3 a4 s)
  | .frcp a1 a2 a3 => some (execFrcp a1 a2 a3 s)
  | .frsq a1 a2 a3 => some (execFrsq a1 a2 a3 s)
  | .fsqrt a1 a2 a3 => some (execFsqrt a1 a2 a3 s)
  | .fexp2 a1 a2 a3 => some (execFexp2 a1 a2 a3 s)
  | .flog2 a1 a2 a3 => some (execFlog2 a1 a2 a3 s)
  | .fsinr a1 a2 a3 => some (execFsinr a1 a2 a3 s)
  | .fcosr a1 a2 a3 => some (execFcosr a1 a2 a3 s)
  | .frnd a1 a2 a3 => some (execFrnd a1 a2 a3 s)
  | .ffrac a1 a2 a3 => some (execFfrac a1 a2 a3 s)
  | .dadd a1 a2 a3 a4 => some (execDadd a1 a2 a3 a4 s)
  | .dmul a1 a2 a3 a4 => some (execDmul a1 a2 a3 a4 s)
  | .dfma a1 a2 a3 a4 => some (execDfma a1 a2 a3 a4 s)
  | .hadd2 a1 a2 a3 a4 => some (execHadd2 a1 a2 a3 a4 s)
  | .hmul2 a1 a2 a3 a4 => some (execHmul2 a1 a2 a3 a4 s)
  | .hfma2 a1 a2 a3 a4 => some (execHfma2 a1 a2 a3 a4 s)
  | .badd2 a1 a2 a3 a4 => some (execBadd2 a1 a2 a3 a4 s)
  | .bmul2 a1 a2 a3 a4 => some (execBmul2 a1 a2 a3 a4 s)
  | .bfma2 a1 a2 a3 a4 => some (execBfma2 a1 a2 a3 a4 s)
  | .fdot2b a1 a2 a3 a4 => some (execFdot2b a1 a2 a3 a4 s)
  | .cvt a1 a2 a3 a4 a5 => some (execCvt a1 a2 a3 a4 a5 s)
  | .ddx a1 a2 a3 => some (execDdx a1 a2 a3 s)
  | .ddy a1 a2 a3 => some (execDdy a1 a2 a3 s)
  | .ldB8 a1 a2 a3 a4 a5 => some (execLdB8 a1 a2 a3 a4 a5 s)
  | .ldB16 a1 a2 a3 a4 a5 => some (execLdB16 a1 a2 a3 a4 a5 s)
  | .ldB32 a1 a2 a3 a4 a5 => some (execLdB32 a1 a2 a3 a4 a5 s)
  | .ldB64 a1 a2 a3 a4 a5 => some (execLdB64 a1 a2 a3 a4 a5 s)
  | .ldB128 a1 a2 a3 a4 a5 => some (execLdB128 a1 a2 a3 a4 a5 s)
  | .sadd a1 a2 a3 a4 a5 => some (execSadd a1 a2 a3 a4 a5 s)
  | .ssub a1 a2 a3 a4 a5 => some (execSsub a1 a2 a3 a4 a5 s)
  | .smul a1 a2 a3 a4 a5 => some (execSmul a1 a2 a3 a4 a5 s)
  | .smulh a1 a2 a3 a4 a5 => some (execSmulh a1 a2 a3 a4 a5 s)
  | .sand a1 a2 a3 a4 a5 => some (execSand a1 a2 a3 a4 a5 s)
  | .sor a1 a2 a3 a4 a5 => some (execSor a1 a2 a3 a4 a5 s)
  | .sxor a1 a2 a3 a4 a5 => some (execSxor a1 a2 a3 a4 a5 s)
  | .sshl a1 a2 a3 a4 a5 => some (execSshl a1 a2 a3 a4 a5 s)
  | .sshr a1 a2 a3 a4 a5 => some (execSshr a1 a2 a3 a4 a5 s)
  | .ssra a1 a2 a3 a4 a5 => some (execSsra a1 a2 a3 a4 a5 s)
  | .smin a1 a2 a3 a4 a5 a6 => some (execSmin a1 a2 a3 a4 a5 a6 s)
  | .smax a1 a2 a3 a4 a5 a6 => some (execSmax a1 a2 a3 a4 a5 a6 s)
  | .scmp a1 a2 a3 a4 a5 a6 => some (execScmp a1 a2 a3 a4 a5 a6 s)
  | .ssel a1 a2 a3 a4 a5 => some (execSsel a1 a2 a3 a4 a5 s)
  | .smov a1 a2 a3 a4 => some (execSmov a1 a2 a3 a4 s)
  | .sli a1 a2 a3 => some (execSli a1 a2 a3 s)
  | .slih a1 a2 a3 => some (execSlih a1 a2 a3 s)
  | .spopc a1 a2 a3 => some (execSpopc a1 a2 a3 s)
  | .sclz a1 a2 a3 => some (execSclz a1 a2 a3 s)
  | .sbfe a1 a2 a3 a4 a5 => some (execSbfe a1 a2 a3 a4 a5 s)
  | .sfadd a1 a2 a3 a4 => some (execSfadd a1 a2 a3 a4 s)
  | .sfmul a1 a2 a3 a4 => some (execSfmul a1 a2 a3 a4 s)
  | .sffma a1 a2 a3 a4 => some (execSffma a1 a2 a3 a4 s)
  | .sfmin a1 a2 a3 a4 => some (execSfmin a1 a2 a3 a4 s)
  | .sfmax a1 a2 a3 a4 => some (execSfmax a1 a2 a3 a4 s)
  | .sfcmp a1 a2 a3 a4 a5 => some (execSfcmp a1 a2 a3 a4 a5 s)
  | .sfrcp a1 a2 a3 => some (execSfrcp a1 a2 a3 s)
  | .sfsqrt a1 a2 a3 => some (execSfsqrt a1 a2 a3 s)
  | .sfcvt a1 a2 a3 a4 a5 => some (execSfcvt a1 a2 a3 a4 a5 s)
  | .sld a1 a2 a3 a4 => some (execSld a1 a2 a3 a4 s)
  | .br a1 => some (execBr a1 s)
  | .brw a1 a2 a3 => some (execBrw a1 a2 a3 s)
  | .brany a1 a2 => some (execBrany a1 a2 s)
  | .brall a1 a2 => some (execBrall a1 a2 s)
  | .brnone a1 a2 => some (execBrnone a1 a2 s)
  | .nop a1 => some (execNop a1 s)
  | .exitL px =>
    some (issue (.exitL px) (pureBody (fun _ st => { st with live := st.live &&& ~~~st.mask 0, m := tabSet 8 st.m 0 0 0 })) s)
  | _ => none

/-- The pending loads of the callable's strand performed at their homes, and its results delivered (R357); none where one goes to the
host's memory. -/
def State.callDeliver (s : State) : Option State :=
  if s.reqs.any (fun r => isHost r.addr) then none
  else
    let s1 := s.reqs.foldl (fun s r => s.perform { r with path := if r.path == 2 || r.path == 3 then r.path else 1 }) s
    some (s1.results.foldl State.arrive s1)

/-- The strand that runs a batch (R356): strand 0 of workgroup 0, whichever strand gave the operation, so that no record depends on it (R361; DESIGN
CHOICE, log entry 61). -/
def callStrand (o : TwillOp) (core : CoreId) (entry : W64) (lanes : Word) (inputs : List (List Word)) : Strand :=
  let st := Strand.start { o.who with wg := 0, widx := 0 } o.slot core 0 32 entry [lo32 o.addr, hi32 o.addr] (SysRegs.start .user 4 0)
  let st1 := { st with state := .active, live := lanes, m := tabSet 8 st.m 0 lanes 0 }
  ((List.range inputs.length).zip inputs).foldl (fun x p =>
    ((List.range p.2.length).zip p.2).foldl (fun y w => y.setLane w.1 p.1 w.2) x) st1

/-- A word of the callable's code may be fetched: its page is this package's own (R359). -/
def State.callPage (s : State) (st : Strand) : Bool :=
  match (s.translate st.fetchReq (field st.pc 56 0)).2 with
  | .ok (_, l) => !farTarget l
  | .bad _ => true

/-- The batch run until its live mask is zero (R356): `left` sequences may still issue. -/
def callLoop : Nat → Nat → State → RayRes Strand
  | 0, _, s => (s, .error (.code 1))
  | n + 1, left, s =>
    match s.strands[0]? with
    | none => (s, .error (.code 1))
    | some st =>
      if st.live == 0 then (s, .ok st)
      else if st.rptAt == 0 && left == 0 then (s, .error (.code 1))
      else if !s.callPage st then (s, .error (.code 1))
      else
        match fetchSeq st maxWords [] [] s with
        | (s1, .miss v line) => callLoop n left (s1.icFill false st.core.die st.core.quad st.who.ctx v line)
        | (s1, .bad f a) => (s1, .error (if f.posts then .wait f a else .code 1))
        | (s1, .illegal) => (s1, .error (.code 1))
        | (s1, .instr i) =>
          match callableExec i s1 with
          | some (.next s2) =>
            (match s2.callDeliver with
            | none => (s2, .error (.code 1))
            | some s3 =>
              match s3.strands[0]? with
              | none => (s3, .error (.code 1))
              | some x =>
                if x.sr.hnd then
                  let f : AFault := ⟨0, BitVec.ofNat 8 (field x.sr.cause 23 16), BitVec.ofNat 16 (field x.sr.cause 15 0), x.sr.walkent⟩
                  (s3, .error (if f.posts then .wait f x.sr.faddr else .code 1))
                else if x.state != .active then (s3, .error (.code 1))
                else callLoop n (if x.rptAt == 0 then left - 1 else left) s3)
          | _ => (s1, .error (.code 1))

/-- The core whose ray unit and number an operation uses. -/
def State.twillCore (s : State) (o : TwillOp) : CoreId :=
  match s.strands.find? (fun (st : Strand) => st.who == o.who) with | some st => st.core | none => ⟨o.die, o.quad, 0⟩

/-- The entry of the callable (R356): its first instruction's address; a missing entry fails. -/
def State.callEntry (s : State) (o : TwillOp) (t : Twill) : RayRes W64 :=
  match s.twillGang o with
  | none => (s, .error (.code 1))
  | some g =>
    if g.kernel.calltab == 0 then (s, .error (.code 1))
    else
      rayBind (s.twillRead o (g.kernel.calltab + BitVec.ofNat 64 (8 * t.call)) 8) (fun r s1 =>
        let e := BitVec.ofNat 64 (leNat r.1)
        if !e.getLsbD 63 || field e 62 32 != 0 || field e 1 0 != 0 then (s1, .error (.code 1))
        else (s1, .ok (o.header + BitVec.ofNat 64 (field e 31 0))))

/-- A batch of candidates run through the callable: the final registers. The strand stands in a machine of its own, so that no strand,
access or result of the package is touched. -/
def State.callBatch (s : State) (o : TwillOp) (t : Twill) (inputs : List (List Word)) : RayRes Strand :=
  rayBind (s.callEntry o t) (fun entry s1 =>
    let st := callStrand o (s1.twillCore o) entry (buildMask (fun l => decide (l < inputs.length))) inputs
    let m : State := { s1 with strands := [st], cur := 0, coreTlb := [], reqs := [], results := [] }
    let r := callLoop (2 ^ 32) 65536 m
    ({ r.1 with strands := s1.strands, cur := s1.cur, coreTlb := s1.coreTlb, reqs := s1.reqs, results := s1.results }, r.2))

/-! ### A pixel (R354, R355) -/

/-- RI of a component of a motion vector (R354): none where it is not finite or not below 2^15 in magnitude. -/
def motion (w : Word) : Option Int :=
  match num32 w with
  | .fin neg m e =>
    let big := numCmp (.fin false m e) (.fin false 1 15) ≥ 0
    if big then none
    else let r := (roundInt .rn neg m e).1; some (if neg then -(r : Int) else r)
  | _ => none

/-- The pixel at a displacement, when it lies in the frame. -/
def Twill.inFrame (t : Twill) (x y : Int) : Option (Nat × Nat) :=
  if 0 ≤ x ∧ 0 ≤ y ∧ x < (t.width : Int) ∧ y < (t.height : Int) then some (x.toNat, y.toNat) else none

/-- The temporal candidate (R354). -/
def State.temporalCand (s : State) (o : TwillOp) (t : Twill) (x y : Nat) : RayRes (List TwillCand) :=
  if !t.temporal then (s, .ok [])
  else
    rayBind (s.twillRead o (t.mv + BitVec.ofNat 64 ((y * t.width + x) * 8)) 8) (fun r s1 =>
      match motion (BitVec.ofNat 32 (bytesAt r.1 0 4)), motion (BitVec.ofNat 32 (bytesAt r.1 4 4)) with
      | some dx, some dy =>
        (match t.inFrame (x + dx) (y + dy) with
        | none => (s1, .ok [])
        | some (px, py) =>
          rayBind (s1.twillOwner o t (t.tile px py)) (fun d s2 =>
            if d != o.die then (s2, .ok [])
            else
              rayBind (s2.twillRecord o t t.prev true px py) (fun q s3 => (s3, .ok [⟨q.words, 0, 0, t.u x y 16, none⟩]))))
      | _, _ => (s1, .ok []))

/-- An offset drawn for a spatial candidate (R354). -/
def Twill.draw (t : Twill) (h : Nat) : Int := (h / 256 * (2 * t.rad + 1) / 2 ^ 24 : Nat) - (t.rad : Int)

/-- The spatial candidates from `k` on (R354). -/
def spatialCands (o : TwillOp) (t : Twill) (x y : Nat) : Nat → Nat → List TwillCand → State → RayRes (List TwillCand)
  | 0, _, cs, s => (s, .ok cs)
  | n + 1, k, cs, s =>
    let ox := t.draw (t.h x y (2 * k))
    let oy := t.draw (t.h x y (2 * k + 1))
    match (if ox == 0 && oy == 0 then none else t.inFrame (x + ox) (y + oy)) with
    | none => spatialCands o t x y n (k + 1) cs s
    | some (nx, ny) =>
      rayBind (s.twillOwner o t (t.tile nx ny)) (fun d s1 =>
        let halo := t.halo.getD d.toNat 0
        if d != o.die && halo == 0 then (s1, .error (.code 1))
        else
          rayBind (s1.twillRecord o t (if d == o.die then t.cur else halo) (d == o.die) nx ny) (fun q s2 =>
            spatialCands o t x y n (k + 1) (cs ++ [⟨q.words, 1, k, t.u x y (17 + k), none⟩]) s2))

/-- A pixel begun: its record and its candidates. -/
def State.pixelBegin (s : State) (o : TwillOp) (t : Twill) (x y : Nat) : RayRes TwillWork :=
  rayBind (s.twillRecord o t t.cur true x y) (fun r s1 =>
    rayBind (s1.temporalCand o t x y) (fun a s2 =>
      rayBind (spatialCands o t x y t.nspat 0 a s2) (fun cs s3 => (s3, .ok ⟨0, r.words, cs⟩))))

/-- The visibility test of a candidate (R355): ph after it. -/
def State.visible (s : State) (o : TwillOp) (t : Twill) (table : List W64) (ph : Word) (ray : List Word) : RayRes Word :=
  match rayOf ray with
  | none => (s, .ok ph)
  | some r =>
    rayBind (s.traverse ⟨o.xreq .read, table⟩ true t.scene r) (fun w s1 =>
      (s1.charge o.ctx o.who.gang o.die (w.boxes * chargeBox + w.tris * chargeTriangle), .ok (if w.best.isSome then 0 else ph)))

/-- The outcomes of a batch turned into ph, candidate by candidate. -/
def batchPh (o : TwillOp) (t : Twill) (table : List W64) (st : Strand) : Nat → List TwillCand → State → RayRes (List TwillCand)
  | _, [], s => (s, .ok [])
  | l, c :: cs, s =>
    let ray := (List.range 8).map (fun j => st.lane (16 + j) l)
    rayBind (if t.vis then s.visible o t table (st.lane 8 l) ray else (s, .ok (st.lane 8 l))) (fun ph s1 =>
      rayBind (batchPh o t table st (l + 1) cs s1) (fun r s2 => (s2, .ok ({ c with ph := some ph } :: r))))

/-- The merges of a pixel in order, normalised where NORM asks for it (R354, R355). -/
def pixelResult (t : Twill) (w : TwillWork) : Record :=
  let r := w.cands.foldl (fun (r : Record) c =>
    (r.merge (Record.ofWords c.rec_) (c.ph.getD 0) c.draw (BitVec.ofNat 32 t.mcap)).1) (Record.ofWords w.cur)
  if t.norm then r.normalise.1 else r

/-- A pixel's record written to OUT (R354, R359). -/
def State.pixelWrite (s : State) (o : TwillOp) (t : Twill) (w : TwillWork) (x y : Nat) : RayRes Unit :=
  let a := t.out + BitVec.ofNat 64 (t.offset x y)
  rayBind (s.twillPlace o .write a 32) (fun p s1 =>
    rayBind (rayBind (ownedBy o t p.2.1 (t.pageTiles (s1.pageSpan o a) t.out a) s1) (fun _ s2 => s2.twillSlot p.2.2 a)) (fun _ s2 =>
      (s2.homeWrite p.1 ((pixelResult t w).words.foldr (fun x l => leBytes 4 x.toNat ++ l) []), .ok ())))

/-! ### Operations -/

/-- The operations of a quad. -/
def State.twillTable (s : State) (d : Die) (q : Quad) : List TwillOp := s.twills.filter (fun o => o.die == d && o.quad == q)

/-- An operation changed. -/
def State.modTwill (s : State) (id : Nat) (f : TwillOp → TwillOp) : State :=
  { s with twills := s.twills.map (fun o => if o.id == id then f o else o) }

/-- The operation may go on: its gang is resident and not frozen (R360). -/
def State.twillRuns (s : State) (o : TwillOp) : Bool := match s.twillGang o with | some g => !g.frozen | none => false

/-- The postings of an operation taken off. -/
def State.dropFixups (s : State) (o : TwillOp) : State := o.fixups.foldl (fun s f => s.dropPost f.2) s

/-- What a part of an operation came to: its state is kept, a failure is noted, or the pixel is set aside with its fault posted (R359). A full list
leaves the pixel to be begun again. -/
def State.twillEnd (s : State) (o : TwillOp) (pixel : Nat) (r : RayRes (TwillOp → TwillOp)) : State :=
  match r with
  | (s1, .ok f) => s1.modTwill o.id f
  | (s1, .error (.code _)) => (s1.dropFixups o).modTwill o.id (fun x => { x with failed := true, fixups := [], work := none })
  | (s1, .error (.wait f a)) =>
    if 64 ≤ o.fixups.length then s.modTwill o.id (fun x => { x with work := none, pixel := min x.pixel pixel })
    else
      let (s2, id) := s1.postFault o.die o.quad 3 0 o.ctx o.slot f a
      s2.modTwill o.id (fun x => { x with fixups := x.fixups ++ [(pixel, id)], work := none })

/-- Twill operation start (R353): the checks of the `n`-th operation of a quad's engine. -/
def execTwillOperationStart (die : Die) (q : Quad) (n : Nat) (s : State) : Host.Outcome State Fault Refusal :=
  match (s.twillTable die q)[n]? with
  | none => .next s
  | some o =>
    let s := s.paidBy o.ctx o.who.gang die
    if o.started || o.failed || !s.twillRuns o then .next s
    else
      let t := twillOf o.descriptor
      let waiting := o.fixups.any (fun f => !s.answered f.2)
      let bad := o.fixups.any (fun f => s.postState f.2 == .unfixable)
      if waiting then .next s
      else if t.refused die || bad then .next ((s.dropFixups o).modTwill o.id (fun x => { x with failed := true, fixups := [] }))
      else
        let o1 := { o with fixups := [] }
        let s1 := (s.dropFixups o).modTwill o.id (fun x => { x with fixups := [] })
        let tiles := (List.range (t.ntx * t.nty)).map (fun k => (t.ty0 + k / t.ntx) * (t.width / 16) + t.tx0 + k % t.ntx)
        .next (s1.twillEnd o1 t.pixels
          (rayBind (s1.callEntry o1 t) (fun _ s2 =>
            rayBind (ownedBy o1 t die tiles s2) (fun _ s3 => (s3, .ok (fun x => { x with started := true }))))))

/-- The next pixel of an operation: one whose fault has been fixed, or the next of the rectangle. -/
def State.nextPixel (s : State) (o : TwillOp) : Option (Nat × Option Nat) :=
  match o.fixups.find? (fun f => s.postState f.2 == .fixed) with
  | some f => some (f.1, some f.2)
  | none => if o.pixel < (twillOf o.descriptor).pixels then some (o.pixel, none) else none

/-- Twill pixel (R354): the `n`-th operation of a quad begins its next pixel, or merges and writes the one at hand once its callable has run. -/
def execTwillPixel (die : Die) (q : Quad) (n : Nat) (s : State) : Host.Outcome State Fault Refusal :=
  match (s.twillTable die q)[n]? with
  | none => .next s
  | some o =>
    let s := s.paidBy o.ctx o.who.gang die
    let t := twillOf o.descriptor
    if !o.started || o.failed || !s.twillRuns o then .next s
    else if o.fixups.any (fun f => s.postState f.2 == .unfixable) then
      .next ((s.dropFixups o).modTwill o.id (fun x => { x with failed := true, fixups := [], work := none }))
    else
      match o.work with
      | some w =>
        if w.cands.any (fun c => c.ph.isNone) then .next s
        else
          let (x, y) := t.pixel w.pixel
          .next (s.twillEnd o w.pixel (rayBind (s.pixelWrite o t w x y) (fun _ s1 => (s1, .ok (fun x => { x with work := none })))))
      | none =>
        match s.nextPixel o with
        | none => .next s
        | some (k, post) =>
          let (x, y) := t.pixel k
          let s1 := match post with
            | some p => (s.dropPost p).modTwill o.id (fun x => { x with fixups := x.fixups.filter (fun f => f.2 != p) })
            | none => s.modTwill o.id (fun x => { x with pixel := x.pixel + 1 })
          let o1 := match (s1.twillTable die q)[n]? with | some x => x | none => o
          .next (s1.twillEnd o1 k (rayBind (s1.pixelBegin o1 t x y) (fun w s2 =>
            (s2, .ok (fun x => { x with work := some { w with pixel := k } })))))

/-- Twill callable batch (R355, R356): the callable runs for the candidates of the pixel at hand of the `n`-th operation of a quad. -/
def execTwillCallableBatch (die : Die) (q : Quad) (n : Nat) (s : State) : Host.Outcome State Fault Refusal :=
  match (s.twillTable die q)[n]? with
  | none => .next s
  | some o =>
    let s := s.paidBy o.ctx o.who.gang die
    match o.work with
    | none => .next s
    | some w =>
      if o.failed || !s.twillRuns o || !w.cands.any (fun c => c.ph.isNone) then .next s
      else
        let t := twillOf o.descriptor
        let (x, y) := t.pixel w.pixel
        match s.useRayTable (s.twillCore o) o.ctx o.slot with
        | (s1, none) => .next s1
        | (s1, some table) =>
          let inputs := w.cands.map (fun c =>
            let r := Record.ofWords c.rec_
            [r.id, r.pay0, r.pay1, r.pay2, BitVec.ofNat 32 x, BitVec.ofNat 32 y, BitVec.ofNat 32 c.kind, BitVec.ofNat 32 c.index])
          .next (s1.twillEnd o w.pixel (rayBind (s1.callBatch o t inputs) (fun st s2 =>
            rayBind (batchPh o t table st 0 w.cands s2) (fun cs s3 => (s3, .ok (fun x => { x with work := some { w with cands := cs } }))))))

/-- A ticket of a strand changed. -/
def Strand.setTicket (st : Strand) (n : Nat) (x : Option Ticket) : Strand := { st with tickets := tabSet 8 st.tickets n x none }

/-- Strands that wait in `twl` or `twlwait` looked at (R288): a `twlwait` ends when its ticket is done, and a `twl` issues again. -/
def State.twillWake (s : State) : State :=
  (s.strandsWhere (fun st => st.park == some .twl)).foldl (fun s i =>
    match s.strands[i]? with
    | none => s
    | some st =>
      match st.waiting with
      | some (.twlwait _ d a) =>
        let n := field (st.wreg a.toNat) 2 0
        (match st.tickets.getD n none with
        | some k =>
          if k.done then
            s.modStrand i (fun x => ((x.setW d.toNat (if k.failed then 1 else 0)).setTicket n none).endWait s.cycle)
          else s
        | none => s)
      | some (.twl ..) => s.modStrand i (fun x => x.reissueWait s.cycle)
      | _ => s) s

/-- Twill operation complete (R288): every pixel of the `n`-th operation of a quad is written, or it has failed. -/
def execTwillOperationComplete (die : Die) (q : Quad) (n : Nat) (s : State) : Host.Outcome State Fault Refusal :=
  match (s.twillTable die q)[n]? with
  | none => .next s
  | some o =>
    let over_ := o.started && o.work.isNone && o.fixups.isEmpty && decide ((twillOf o.descriptor).pixels ≤ o.pixel)
    if !s.twillRuns o || !(o.failed || over_) then .next s
    else
      let s1 : State := { s.dropFixups o with twills := s.twills.filter (fun x => x.id != o.id) }
      let s2 := s1.modWho o.who (fun st =>
        match st.tickets.getD o.ticket none with
        | some k => st.setTicket o.ticket (some { k with done := true, failed := o.failed })
        | none => st)
      .next s2.twillWake

/-- Operations of gangs start again from their first pixel (R360). -/
def State.restartTwills (s : State) (l : List (BitVec 12 × BitVec 24)) : State :=
  let mine := s.twills.filter (fun o => l.contains (o.ctx, o.who.gang))
  let s1 := mine.foldl State.dropFixups s
  { s1 with twills := s1.twills.map (fun (o : TwillOp) =>
      if l.contains (o.ctx, o.who.gang) then { o with started := false, pixel := 0, work := none, fixups := [], failed := false } else o) }

/-- Operations of gangs abandoned. -/
def State.dropTwills (s : State) (p : TwillOp → Bool) : State :=
  let s1 := (s.twills.filter p).foldl State.dropFixups s
  { s1 with twills := s1.twills.filter (fun o => !p o) }

/-! ### `twl` and `twlwait` (R288) -/

/-- The ticket that a `twl` takes: the lowest not held, or, of eight held, the lowest whose operation is complete. -/
def Strand.freeTicket (st : Strand) : Option Nat :=
  match (List.range 8).find? (fun n => (st.tickets.getD n none).isNone) with
  | some n => some n
  | none => (List.range 8).find? (fun n => match st.tickets.getD n none with | some k => k.done | none => false)

/-- `twl`. -/
def execTwl (px : Pfx) (d a : BitVec 6) (s : State) : Host.Outcome State Fault Refusal :=
  issue (.twl px d a) (withStrand (fun st s =>
    let addr := st.wpair a.toNat
    match s.placeObject st addr 128 .read [0, 1] with
    | (s1, .bad f) => (s1.endSeries, .trap (wholeTrap f addr))
    | (s1, .ok _) =>
      match st.freeTicket, decide ((s1.twillTable st.core.die st.core.quad).length < 64) with
      | some n, true =>
        if st.posted != 0 then (s1.modCur (fun x => x.hold .posted), .again)
        else
          let s2 := s1.drain st.who
          (match s2.series (.twl px d a) st addr 128 [0, 1] (.read 128) 128 with
          | (s3, .wait) => (s3, .again)
          | (s3, .bad f) => (s3.endSeries, .trap (wholeTrap f addr))
          | (s3, .ok bs) =>
            let header := match s3.gangOf st with | some g => g.kernel.header | none => 0
            let o : TwillOp := ⟨s3.nextId, st.core.die, st.core.quad, st.who, n, st.who.ctx, st.ctxSlot, addr, bs, header, false, 0, none, [],
              false⟩
            let s4 := (({ s3 with
              nextId := s3.nextId + 1
              twills := s3.twills ++ [o]
              twillAddrs := (st.who, n, addr) :: s3.twillAddrs.filter (fun x => !(x.1 == st.who && x.2.1 == n)) } : State).modCur
              (fun x => x.setTicket n (some ⟨bs, header, false, false⟩))).endSeries
            (s4.deferW st [(d.toNat, BitVec.ofNat 32 n)], .done))
      | _, _ => (s1.park s1.cur .twl (.twl px d a), .again))) s

/-- `twlwait`. -/
def execTwlwait (px : Pfx) (d a : BitVec 6) (s : State) : Host.Outcome State Fault Refusal :=
  issue (.twlwait px d a) (withStrand (fun st s =>
    let x := st.wreg a.toNat
    let n := field x 2 0
    match (if field x 31 3 != 0 then none else st.tickets.getD n none) with
    | none => (s.deferW st [(d.toNat, 2)], .done)
    | some k =>
      if k.done then
        let s1 := s.modCur (fun y => y.setTicket n none)
        (s1.deferW st [(d.toNat, if k.failed then 1 else 0)], .done)
      else (s.park s.cur .twl (.twlwait px d a), .again))) s

end Sys2Proof.Machine
end

