-- ==== Sys2Proof/Machine/Copy.lean ====
section
/-! DEFINITION. The copy engines (R103 to R119): queues, packets, segments, ring destinations, HALO and copy-then-mma packets, errors and
completion; the batches that strands wait for (R115, R283); and the queue registers (R108). -/

namespace Sys2Proof.Machine

open Sys2Proof

/-! ### Packets (R109, R110) -/

/-- A copy packet (R109, Tables 3 and 4). -/
structure CopyPacket where
  ctl : Word
  src : W64
  dst : W64
  spitch : Int
  dpitch : Int
  width : Nat
  widthTop : Nat
  height : Nat
  heightTop : Nat
  args : List Byte
  notify : W64
  deriving DecidableEq, Repr

/-- A signed number of 32 bits. -/
def signed32 (n : Nat) : Int := (BitVec.ofNat 32 n).toInt

/-- The fields of a packet. -/
def copyPacket (bs : List Byte) : CopyPacket where
  ctl := BitVec.ofNat 32 (bytesAt bs 0 4)
  src := BitVec.ofNat 64 (bytesAt bs 4 8)
  dst := BitVec.ofNat 64 (bytesAt bs 12 8)
  spitch := signed32 (bytesAt bs 20 4)
  dpitch := signed32 (bytesAt bs 24 4)
  width := bytesAt bs 28 3
  widthTop := bytesAt bs 31 1
  height := bytesAt bs 32 4 % 2 ^ 20
  heightTop := bytesAt bs 32 4 / 2 ^ 20
  args := (bs.drop 36).take 20
  notify := BitVec.ofNat 64 (bytesAt bs 56 8)

def CopyPacket.kind (p : CopyPacket) : Nat := field p.ctl 15 12
def CopyPacket.ord (p : CopyPacket) : Bool := p.ctl.getLsbD 11
def CopyPacket.scope (p : CopyPacket) : Nat := field p.ctl 10 8
def CopyPacket.ntf (p : CopyPacket) : Nat := field p.ctl 7 6
def CopyPacket.etype (p : CopyPacket) : Nat := field p.ctl 5 3
def CopyPacket.ring (p : CopyPacket) : Bool := p.ctl.getLsbD 2
def CopyPacket.fill (p : CopyPacket) : Bool := p.ctl.getLsbD 1
/-- A 32-bit word of ARGS, by byte offset from byte 36. -/
def CopyPacket.arg (p : CopyPacket) (k : Nat) : Nat := bytesAt p.args k 4
/-- The gang that a COPYMMA packet names (R112). -/
def CopyPacket.gang (p : CopyPacket) : BitVec 24 := BitVec.ofNat 24 (p.arg 0)
/-- The MCW and OTHER of a COPYMMA packet (R310). -/
def CopyPacket.mcw (p : CopyPacket) : W64 := BitVec.ofNat 64 (bytesAt p.args 4 8)
def CopyPacket.other (p : CopyPacket) : W64 := BitVec.ofNat 64 (bytesAt p.args 12 8)
/-- The packet reads a source. -/
def CopyPacket.reads (p : CopyPacket) : Bool := p.kind != 0 && p.kind != 2

/-- The element size of a COPYADD (R109, Table 4). -/
def etypeSize (e : Nat) : Nat := if e == 1 || e == 3 then 8 else 4

/-- The reduction of a COPYADD element (R110): integer add, or `red.f` fadd with subnormals kept. -/
def etypeTag (e : Nat) : RedTag :=
  match e with
  | 0 => .int false 0
  | 1 => .int true 0
  | 2 => .float 2 0 false
  | 3 => .float 3 0 false
  | 4 => .float 0 0 false
  | _ => .float 1 0 false

/-- The bytes of ARGS that must be zero (R110, Table 6). -/
def CopyPacket.argsBad (p : CopyPacket) : Bool :=
  let zero := fun (lo n : Nat) => bytesAt p.args lo n == 0
  match p.kind with
  | 2 => !zero 4 16
  | 4 => !zero 16 4
  | 5 => !zero 3 1
  | 6 => decide (3 < bytesAt p.args 0 1) || !zero 1 19
  | _ => !zero 0 20

/-- The conditions of code 1 (R119, Table 5). -/
def CopyPacket.code1 (p : CopyPacket) : Bool :=
  field p.ctl 31 16 != 0 || p.ctl.getLsbD 0 || p.widthTop != 0 || p.heightTop != 0
    || decide (6 < p.kind) || decide (4 < p.scope) || p.ntf == 3
    || (p.kind == 3 && decide (5 < p.etype)) || (p.kind != 3 && p.etype != 0) || (p.fill && p.kind != 4)
    || (p.ring && !(p.kind == 1 || p.kind == 4 || p.kind == 5)) || p.argsBad || (p.ntf == 0 && p.notify != 0)
    || (p.kind == 0 && (p.src != 0 || p.dst != 0 || p.spitch != 0 || p.dpitch != 0 || p.width != 0 || p.height != 0))
    || (p.kind == 2 && p.src != 0)

/-- The conditions of code 2 (R119, Table 5) but for a ring's BASE; `handed`: the packet was published by `cqput`. -/
def CopyPacket.code2 (p : CopyPacket) (handed : Bool) : Bool :=
  let es : Nat := etypeSize p.etype
  (p.kind != 0 && (p.width == 0 || p.height == 0))
    || (decide (1 < p.height) && decide (p.dpitch.natAbs < p.width))
    || (p.ntf == 1 && p.notify.toNat % 8 != 0) || (p.ntf == 2 && p.notify.toNat % 16 != 0)
    || (p.kind == 3 && (p.width % es != 0 || p.dst.toNat % es != 0 || p.src.toNat % es != 0 || p.spitch % (es : Int) != 0
      || p.dpitch % (es : Int) != 0))
    || (p.kind == 4 && decide (p.spitch.natAbs < p.arg 8))
    || (!handed && (onVault p.src || onVault p.dst || onVault p.notify))

/-- A signed step from an address. -/
def rowAt (a : W64) (pitch : Int) (y x : Int) : W64 := atDisp a (y * pitch + x)

/-- The source of byte x of row y (R110). -/
def CopyPacket.srcAt (p : CopyPacket) (y x : Nat) : W64 :=
  if p.kind == 4 then rowAt p.src p.spitch (y + signed32 (p.arg 4)) (x + signed32 (p.arg 0)) else rowAt p.src p.spitch y x

/-- The destination of byte x of row y, from the destination in force (R110). -/
def CopyPacket.dstAt (p : CopyPacket) (dst : W64) (y x : Nat) : W64 := rowAt dst p.dpitch y x

/-- The bytes of a row that the packet writes, and of these the ones that have a source (R110): first and end of each. -/
def CopyPacket.span (p : CopyPacket) (y : Nat) : (Nat × Nat) × (Nat × Nat) :=
  if p.kind == 0 || decide (6 < p.kind) then ((0, 0), (0, 0))
  else if p.kind == 2 then ((0, p.width), (0, 0))
  else if p.kind != 4 then ((0, p.width), (0, p.width))
  else
    let sx : Int := signed32 (p.arg 0)
    let sy : Int := signed32 (p.arg 4) + y
    let lo := min p.width (-sx).toNat
    let hi := min p.width ((p.arg 8 : Int) - sx).toNat
    let have_ := if 0 ≤ sy ∧ sy < p.arg 12 ∧ lo < hi then (lo, hi) else (0, 0)
    (if p.fill then (0, p.width) else have_, have_)

/-- The 32-byte sectors that hold a byte of a run at an address. -/
def sectorsOf (a n : Nat) : Nat := if n == 0 then 0 else (a + n - 1) / 32 - a / 32 + 1

/-- The sector count S (R113). -/
def CopyPacket.sectors (p : CopyPacket) (dst : W64) : Nat :=
  (List.range p.height).foldl (fun n y =>
    let r := (p.span y).1
    n + sectorsOf (p.dstAt dst y r.1).toNat (r.2 - r.1)) 0

/-! ### Segments (R117) -/

/-- The bytes from an address to the end of its 64 KiB granule. -/
def granuleLeft (a : W64) : Nat := 65536 - a.toNat % 65536

/-- The bytes `x` to `hi` of a row cut at the granules of the destination, and of the source where the bytes from `from_` to `upto` have one. -/
def cutRun (p : CopyPacket) (dst : W64) (y from_ upto : Nat) : Nat → Nat → Nat → List CopySeg
  | 0, _, _ => []
  | k + 1, x, hi =>
    if hi ≤ x then []
    else
      let b := max x from_
      let c := b + granuleLeft (p.srcAt y b)
      let n := min (hi - x) (granuleLeft (p.dstAt dst y x))
      let m := if b < upto ∧ c < upto then min n (c - x) else n
      let have_ := min (x + m) upto - b
      ⟨y, x, m, if have_ == 0 then x else b, have_, .todo, false, none, none, []⟩ :: cutRun p dst y from_ upto k (x + m) hi

/-- The segments of a packet, in ascending order of row and then offset. -/
def CopyPacket.segments (p : CopyPacket) (dst : W64) : List CopySeg :=
  (List.range p.height).foldr (fun y l =>
    let r := p.span y
    cutRun p dst y r.2.1 r.2.2 (2 * (r.1.2 - r.1.1) / 65536 + 4) r.1.1 r.1.2 ++ l) []

/-! ### Channels -/

/-- The channel of a die by its number. -/
def State.channel (s : State) (d : Die) (ch : BitVec 4) : Option Channel := s.channels.find? (fun c => c.die == d && c.ch == ch)

/-- A channel changed. -/
def State.modChannel (s : State) (id : Nat) (f : Channel → Channel) : State :=
  { s with channels := s.channels.map (fun c => if c.id == id then f c else c) }

/-- A segment of a channel changed: the places of its translations are let go. -/
def Channel.setSeg (c : Channel) (n : Nat) (x : SegState) : Channel :=
  { c with segs := match c.segs[n]? with | some y => c.segs.set n { y with state := x, src := none, dest := none, got := [] } | none => c.segs }

/-- The fix-up postings of a channel's segments. -/
def Channel.posts (c : Channel) : List Nat := c.segs.filterMap (fun x => match x.state with | .posted p => some p | _ => none)

/-- The translation request of a channel (R104). -/
def Channel.xreq (c : Channel) (kind : AccessKind) : Xreq := engineReq c.ctx c.slot c.die c.quad kind

/-- A channel's accesses are charged to the queue of the strand that handed its packet over (R402). -/
def State.paidByChannel (s : State) (c : Channel) : State := s.workFor c.ctx c.payQ c.die

/-- The gang whose roles resolve the packet's vault addresses (R115). -/
def State.channelGang (s : State) (c : Channel) : Option Gang := c.by_.bind (fun w => s.findGang w.ctx w.gang)

/-- The virtual address of a queue's ring header, on the generic path (R108). -/
def State.cqHeader (s : State) (d : Die) (n : BitVec 6) : W64 := BitVec.ofNat 64 (field (s.reg (.cqhdr d n)) 56 6 * 64)

/-- The request by which an engine reads or writes a queue's ring. -/
def State.cqReq (s : State) (d : Die) (n : BitVec 6) (kind : AccessKind) : Xreq :=
  let r := s.reg (.cqctl d n)
  let ctx := BitVec.ofNat 12 (field r 25 14)
  engineReq ctx ((s.slotOf ctx).getD 0) d (BitVec.ofNat 4 (field r 13 10)) kind

/-- HALT of a queue set (R119). -/
def State.cqHalted (s : State) (d : Die) (n : BitVec 6) : State := s.setRegField (.cqctl d n) 30 30 1

/-- A queue halted with no record, since its ring header cannot be written (R119): HDRF is set too. -/
def State.cqLost (s : State) (d : Die) (n : BitVec 6) : State := (s.cqHalted d n).setRegField (.cqctl d n) 29 29 1

/-- The posting that a channel waits for is taken off. -/
def State.clearPost (s : State) (c : Channel) : State :=
  match c.post with
  | some p => (s.dropPost p).modChannel c.id (fun x => { x with post := none })
  | none => s

/-- The channel waits for an answer that has not come. -/
def State.channelWaits (s : State) (c : Channel) : Bool := match c.post with | some p => !s.answered p | none => false

/-- The answer that the channel waited for was unfixable. -/
def State.channelUnfixable (s : State) (c : Channel) : Bool :=
  match c.post with | some p => s.postState p == .unfixable | none => false

/-- A fault of a channel's own accesses posted to the firmware slot (R107, R114, R117), and what it waits for with it. -/
def State.channelPost (s : State) (c : Channel) (what : Nat) (f : AFault) (a : W64) : State :=
  let (s1, id) := s.postFault c.die c.quad 1 c.ch c.ctx c.slot f a
  s1.modChannel c.id (fun x => { x with post := some id, postFor := what })

/-- The agents that a channel is. -/
def Channel.key (c : Channel) : AgentKey := .channel c.die c.ch
def Channel.haltKey (c : Channel) : AgentKey := .halt c.die c.ch

/-- The queue of a failed packet is halted (R119 steps 1 and 2): ERRCODE and ERRIDX are recorded in its ring header, and HALT is set. A fault on the
header is posted; one that is not fixed leaves no record. -/
def State.copyHalt (s : State) (c : Channel) : State :=
  let lost := fun (s : State) => (s.cqLost c.die c.queue).modChannel c.id (fun x => { x with halted := true })
  if s.channelUnfixable c then lost (s.clearPost c)
  else
    match (s.clearPost c).haltRecord c.haltKey (c.xreq .write) c.header c.code c.index.toNat with
    | (s1, .wait) => s1
    | (s1, .ok _) => ((s1.endScript c.haltKey).cqHalted c.die c.queue).modChannel c.id (fun x => { x with halted := true })
    | (s1, .bad f) => if f.posts then (s1.endScript c.haltKey).channelPost c 3 f c.header else lost (s1.endScript c.haltKey)

/-- A packet refused or failed (R119): the segments not begun are given up, and its queue halts. -/
def State.copyFail (s : State) (c : Channel) (code : Nat) : State :=
  let c1 := match s.channels.find? (fun x => x.id == c.id) with | some x => x | none => c
  let c2 : Channel := { c1 with
    code := if c1.code == 0 then code else c1.code
    segs := c1.segs.map (fun y => match y.state with | .todo | .checked _ => { y with state := .done, void := true, src := none, dest := none } | _ => y) }
  let s1 := s.modChannel c.id (fun _ => c2)
  if c1.halted || c1.post.isSome then s1 else s1.copyHalt c2

/-! ### Taking entries (R103, R107) -/

/-- The entries that an engine holds of a queue. -/
def State.heldOf (s : State) (d : Die) (n : BitVec 6) : List Channel := s.channels.filter (fun c => c.die == d && c.queue == n)

/-- The lowest free channel of a die. -/
def State.freeChannel (s : State) (d : Die) : Option (BitVec 4) :=
  ((List.range 16).map (BitVec.ofNat 4)).find? (fun k => (s.channel d k).isNone)

/-- A fault on the read of a queue's ring, of the header (stage 0) or of an entry or tag (stage 1): posted, or a halt where it is none that is
posted (R107, R119). -/
def State.cqFault (s : State) (d : Die) (n : BitVec 6) (stage : Nat) (f : AFault) (a : W64) : State :=
  if f.posts then
    let q := s.cqReq d n .read
    let (s1, id) := s.postFault d q.quad 1 ((s.freeChannel d).getD 0) q.ctx q.slot f a
    { s1 with queueWaits := s1.queueWaits.filter (fun x => !(x.die == some d && x.queue == n)) ++ [⟨some d, n, id, stage⟩] }
  else s.cqLost d n

/-- The wait of a queue for an answer. -/
def State.cqWait (s : State) (d : Die) (n : BitVec 6) : Option QueueWait := s.queueWaits.find? (fun w => w.die == some d && w.queue == n)

/-- The wait of a queue is over. -/
def State.cqResume (s : State) (d : Die) (n : BitVec 6) (w : QueueWait) : State :=
  { s.dropPost w.post with queueWaits := (s.dropPost w.post).queueWaits.filter (fun x => !(x.die == some d && x.queue == n)) }

/-- A ring header is no copy queue's (R119, code 8). -/
def Ring.noQueue (r : Ring) : Bool := !r.cq || r.logsz != 6 || decide (16 < r.logn)

/-- A queue halted with its record (R119): a fault on the header is posted. -/
def State.cqHalt (s : State) (d : Die) (n : BitVec 6) (code : Nat) (index : Nat) : State :=
  let key := AgentKey.copyQueue d n
  match s.haltRecord key (s.cqReq d n .write) (s.cqHeader d n) code index with
  | (s1, .wait) => s1
  | (s1, .ok _) => (s1.endScript key).cqHalted d n
  | (s1, .bad f) => (s1.endScript key).cqFault d n 0 f (s.cqHeader d n)

/-- The header of a queue's ring read: what follows, unless the engine waits for it or it faults. -/
def State.cqRing (s : State) (d : Die) (n : BitVec 6) (k : List Byte → State → State) : State :=
  let key := AgentKey.copyQueue d n
  match s.agent key (s.cqReq d n .read) none (s.cqHeader d n) 64 (.read 64) 64 with
  | (s1, .wait) => s1
  | (s1, .bad f) => (s1.endScript key).cqFault d n 0 f (s.cqHeader d n)
  | (s1, .ok bs) => k bs s1

/-- A read or write of the ring's entries and tags, or of ACQUIRE: what follows, unless the engine waits for it or it faults. -/
def State.cqStep (s : State) (d : Die) (n : BitVec 6) (stage : Nat) (a : W64) (align : Nat) (acc : Access) (size : Nat)
    (k : List Byte → State → State) : State :=
  let key := AgentKey.copyQueue d n
  match s.agent key (s.cqReq d n .read) none a align acc size with
  | (s1, .wait) => s1
  | (s1, .ok bs) => k bs s1
  | (s1, .bad f) =>
    if stage == 1 && !f.posts then
      s1.cqRing d n (fun bs s2 => s2.cqHalt d n 3 (bytesAt bs 8 8))
    else (s1.endScript key).cqFault d n stage f a

/-- The channel of an entry in hand. -/
def State.newChannel (s : State) (d : Die) (n : BitVec 6) (ch : BitVec 4) (index : Nat) (pkt : List Byte) : Channel :=
  let q := s.cqReq d n .read
  let hand := s.handed.find? (fun y => y.die == d && y.queue == n && y.index == BitVec.ofNat 64 index)
  { id := s.nextId, die := d, ch := ch, queue := n, index := BitVec.ofNat 64 index, ctx := q.ctx, slot := q.slot, quad := q.quad
    header := s.cqHeader d n, packet := pkt, payQ := hand.bind (·.payQ), by_ := hand.map (·.who), started := false, segs := []
    dst := (copyPacket pkt).dst, ring := none, published := false, notified := false, post := none, postFor := 0, stuck := false
    command := none, applied := false, code := 0, halted := false, complete := false }

/-- The entry at ACQUIRE taken, or a monitor armed on its tag (R107). -/
def State.cqTake (s : State) (d : Die) (n : BitVec 6) (ch : BitVec 4) : State :=
  let key := AgentKey.copyQueue d n
  let q := s.cqReq d n .read
  let h := s.cqHeader d n
  s.cqRing d n (fun bs s1 =>
    let index := bytesAt bs 8 8
    match ringOf 0 bs with
    | none => s1.cqHalt d n 8 index
    | some r =>
      if r.noQueue then s1.cqHalt d n 8 index
      else
        s1.cqStep d n 1 (r.tag index) 4 (.read 4) 4 (fun tag s2 =>
          if leNat tag != tagOf index then
            if (s2.reg (.cqctl d n)).getLsbD 0 then (s2.endScript key).armAgent key q (r.tag index) false 1 (BitVec.ofNat 64 (leNat tag))
            else s2.endScript key
          else
            s2.cqStep d n 1 (r.entry index) 64 (.read 64) 64 (fun pkt s3 =>
              s3.cqStep d n 0 (h + 8) 8 (.write (leBytes 8 (index + 1))) 8 (fun _ s4 =>
                let s5 := s4.endScript key
                { s5 with
                  nextId := s5.nextId + 1
                  channels := s5.channels ++ [s5.newChannel d n ch index pkt]
                  handed := s5.handed.filter (fun y => !(y.die == d && y.queue == n && y.index == BitVec.ofNat 64 index)) }))))

/-- The engine's taking of a queue's entries is at an access to a peer. -/
def State.agentBusy (s : State) (key : AgentKey) : Bool :=
  s.peerReqs.any (fun r => r.agent == some key) || s.scripts.any (fun e => e.1 == key)

/-- Copy entry take (R107): a queue that is enabled and not halted, of which the engine holds fewer than 8 entries, while a channel is
free; one that waits for an answer, or on its monitor, waits until it is there. -/
def execCopyEntryTake (die : Die) (n : BitVec 6) (s0 : State) : Host.Outcome State Fault Refusal :=
  let r := s0.reg (.cqctl die n)
  let s := s0.workFor (BitVec.ofNat 12 (field r 25 14)) none die
  let failing := (s.heldOf die n).any (fun c => c.code != 0 && !c.halted)
  match s.freeChannel die with
  | none => .next s
  | some ch =>
    if !s.dieValid die || !(r.getLsbD 0 || s.agentBusy (.copyQueue die n)) || r.getLsbD 30 || failing
        || s.isArmed (AgentKey.who (BitVec.ofNat 12 (field r 25 14)) (.copyQueue die n))
        || decide (8 ≤ (s.heldOf die n).length) then .next s
    else
      match s.cqWait die n with
      | none => .next (s.cqTake die n ch)
      | some w =>
        if !s.answered w.post then .next s
        else if s.postState w.post == .fixed then .next ((s.cqResume die n w).cqTake die n ch)
        else if w.stage == 0 then .next ((s.cqResume die n w).cqLost die n)
        else
          .next (s.cqRing die n (fun bs s1 =>
            let s2 := s1.cqHalt die n 3 (bytesAt bs 8 8)
            if (s2.reg (.cqctl die n)).getLsbD 30 then s2.cqResume die n w else s2))

/-! ### Starting a packet (R110, R113, R119) -/

/-- The gang number is one of a launch that is accepted, and its gang is not placed yet (R112). -/
def State.gangAwaited (s : State) (ctx : BitVec 12) (gang : BitVec 24) : Bool :=
  s.swapped.any (fun x => x.1 == ctx && x.2.1 == gang)
    || s.launches.any (fun l => l.ctx == ctx
      && (let k := (gang.toNat + 0xFFFFFF - l.base % 0xFFFFFF) % 0xFFFFFF
          decide (l.next ≤ k) && decide (k < l.n) && gang != firmwareGang))

/-- The gang of a COPYMMA packet is none of the context, or is retired (R119, code 6). -/
def State.copyGangBad (s : State) (c : Channel) (p : CopyPacket) : Bool :=
  p.kind == 5 && (s.findGang c.ctx p.gang).isNone && !s.gangAwaited c.ctx p.gang

/-- The last byte of the packet in its destination, counted from its first (R119, code 4). -/
def CopyPacket.extent (p : CopyPacket) : Nat := (p.height - 1) * p.dpitch.natAbs + p.width

/-- The packet begins: its segments are known. -/
def State.copyBegin (s : State) (c : Channel) (p : CopyPacket) (dst : W64) : State :=
  s.modChannel c.id (fun x => { x with started := true, dst := dst, segs := p.segments dst })

/-- The checks that need no ring (codes 6 and 7), after which the packet begins. -/
def State.copyChecked (s : State) (c : Channel) (p : CopyPacket) : State :=
  if s.copyGangBad c p then s.copyFail c 6
  else if p.kind == 5 && mcwBad p.mcw false true then s.copyFail c 7
  else s.copyBegin c p p.dst

/-- The ring of a packet (R105, R106, R110): its header is checked, an entry is claimed, and the packet begins once the entry may be written;
until then a monitor stands on RELEASE. -/
def State.copyRing (s : State) (c : Channel) (p : CopyPacket) : State :=
  let fail := fun (s : State) (n : Nat) => (s.endScript c.key).copyFail c n
  let bad := fun (s : State) (f : AFault) =>
    if f.posts then (s.endScript c.key).channelPost c 0 f p.dst else fail s (if f.cls == 0x12 then 4 else 3)
  let await := fun (s : State) (r : Ring) (n : Nat) =>
    if r.room n then s.copyBegin c p (r.entry n) else s.armAgent c.key (c.xreq .read) (p.dst + 16) true 9 (r.roomVal n)
  if onVault p.dst then s.copyFail c 4
  else
    match s.agent c.key (c.xreq .read) none p.dst 64 (.read 64) 64 with
    | (s1, .wait) => s1
    | (s1, .bad f) => bad s1 f
    | (s1, .ok bs) =>
      if c.by_.isNone && onVault (BitVec.ofNat 64 (bytesAt bs 24 8)) then fail s1 2
      else
        match ringOf 0 bs with
        | none => fail s1 4
        | some r =>
          match c.ring with
          | some n => await (s1.endScript c.key) r n.toNat
          | none =>
            if r.cq || decide (2 ^ r.logsz < p.extent) then fail s1 4
            else if s1.copyGangBad c p then fail s1 6
            else if p.kind == 5 && mcwBad p.mcw false true then fail s1 7
            else
              match s1.agent c.key (c.xreq .write) none p.dst 8 (.atomic true 0 1) 8 with
              | (s2, .wait) => s2
              | (s2, .bad f) => bad s2 f
              | (s2, .ok old) =>
                let n := leNat old
                await ((s2.endScript c.key).modChannel c.id (fun y => { y with ring := some (BitVec.ofNat 64 n), dst := r.entry n })) r n

/-- Every earlier entry of the channel's queue is complete (R109, R114). -/
def State.inOrder (s : State) (c : Channel) : Bool :=
  !(s.heldOf c.die c.queue).any (fun x => decide (x.index.toNat < c.index.toNat) && !x.complete)

/-- Copy packet start (R109, R110, R119): the packet is refused with the lowest code of Table 5 that it meets, or it starts. A packet with
ORD starts once every earlier entry of its queue is complete. -/
def execCopyPacketStart (die : Die) (ch : BitVec 4) (s0 : State) : Host.Outcome State Fault Refusal :=
  match s0.channel die ch with
  | none => .next s0
  | some c =>
    let s := s0.paidByChannel c
    let p := copyPacket c.packet
    if c.started || c.code != 0 || s.channelWaits c || s.isArmed (c.key.who c.ctx) then .next s
    else if p.code1 then .next (s.copyFail c 1)
    else if p.code2 c.by_.isSome then .next (s.copyFail c 2)
    else if p.ord && !s.inOrder c then .next s
    else if s.channelUnfixable c then .next ((s.clearPost c).copyFail c 3)
    else if p.ring then .next ((s.clearPost c).copyRing c p)
    else .next (s.copyChecked c p)

/-! ### Moving a segment (R104, R110, R111) -/

/-- A place with paths 0x0, 0x1 and 0x4 told apart no more: they name the same bytes (R34). -/
def flatKey (a : W64) : Nat := if onVault a then a.toNat else field a 56 0

/-- The byte at a flat address is one that the packet reads (R111). -/
def Channel.readsByte (c : Channel) (p : CopyPacket) (k : Nat) : Bool :=
  p.reads && c.segs.any (fun x =>
    x.sourced != 0 && (let a := flatKey (p.srcAt x.row x.from_); decide (a ≤ k) && decide (k < a + x.sourced)))

/-- The bytes of a run that the packet does not also read, in runs: offset and bytes. -/
def runsOf : Nat → List (Option Byte) → List (Nat × List Byte)
  | _, [] => []
  | k, none :: l => runsOf (k + 1) l
  | k, some b :: l =>
    match runsOf (k + 1) l with
    | (j, bs) :: r => if j == k + 1 then (k, b :: bs) :: r else (k, [b]) :: (j, bs) :: r
    | [] => [(k, [b])]

/-- Bytes cut at the 32-byte sectors of their address. -/
def cutSectors : Nat → Nat → List Byte → List (Nat × List Byte)
  | 0, _, _ => []
  | k + 1, a, bs =>
    if bs.isEmpty then []
    else
      let n := min bs.length (32 - a % 32)
      (a, bs.take n) :: cutSectors k (a + n) (bs.drop n)

/-- The request last sent is the channel's: its answer belongs to a segment and offset. -/
def State.markEngine (s : State) (c : Channel) (seg off : Nat) : State :=
  { s with peerReqs := s.peerReqs.map (fun (r : PeerReq) =>
      if r.tag == BitVec.ofNat 16 (s.nextId - 1) then { r with engine := some (c.id, seg, off) } else r) }

/-- Bytes written at a place: at their home, or by posted writes of a sector each to a peer (R104, R374). -/
def State.copyPut (s : State) (c : Channel) (seg off : Nat) (pl : Place) (va : W64) (bs : List Byte) : State :=
  match pl with
  | .peer pkg dpa =>
    (cutSectors (bs.length + 1) dpa bs).foldl (fun (s : State) x =>
      ((s.sendPeer none c.ctx pkg x.1 (va + BitVec.ofNat 64 (x.1 - dpa)) (.write x.2) none).markEngine c seg off)) s
  | _ => s.homeWrite (pl.addr.getD 0) bs

/-- A place moved on by some bytes of its granule. -/
def Place.plus (p : Place) (n : Nat) : Place :=
  match p with
  | .mem a => .mem (a + n)
  | .page q off => .page q (off + n)
  | .peer pkg dpa => .peer pkg (dpa + n)

/-- One element of a COPYADD reduced (R110). -/
def State.copyAdd (s : State) (c : Channel) (seg off : Nat) (pl : Place) (va : W64) (e x : Nat) : State :=
  match pl with
  | .peer pkg dpa =>
    let acc := match etypeTag e with
      | .int wide op => Access.redInt wide op (BitVec.ofNat 64 x)
      | .float t op ftz => .redFloat t op ftz (BitVec.ofNat 64 x)
    (s.sendPeer none c.ctx pkg dpa va acc none).markEngine c seg off
  | _ => s.homeReduce c.die (pl.addr.getD 0) (etypeTag e) (BitVec.ofNat 64 x)

/-- A segment's bytes come to its destination (R104, R110, R111): bytes that the packet also reads are left for later. -/
def State.copyDeliver (s : State) (c : Channel) (p : CopyPacket) (seg : Nat) (x : CopySeg) (pl : Place) (bs : List Byte) : State :=
  let d := p.dstAt c.dst x.row x.off
  let clash := fun (i : Nat) => c.readsByte p (flatKey d + i)
  if p.kind == 3 then
    let es := etypeSize p.etype
    (List.range (bs.length / es)).foldl (fun (s : State) i =>
      if (List.range es).any (fun j => clash (es * i + j)) then s
      else s.copyAdd c seg (es * i) (pl.plus (es * i)) (d + BitVec.ofNat 64 (es * i)) p.etype (bytesAt bs (es * i) es)) s
  else
    (runsOf 0 ((List.range bs.length).zip bs |>.map (fun y => if clash y.1 then none else some y.2))).foldl (fun (s : State) r =>
      s.copyPut c seg r.1 (pl.plus r.1) (d + BitVec.ofNat 64 r.1) r.2) s

/-- The bytes that a segment writes (R110): those of its source where it has one, and elsewhere the pattern of a FILL, or zeros. -/
def CopyPacket.bytesOf (p : CopyPacket) (x : CopySeg) (source : List Byte) : List Byte :=
  (List.range x.len).map (fun i =>
    if decide (x.from_ ≤ x.off + i) && decide (x.off + i < x.from_ + x.sourced) then source.getD (x.off + i - x.from_) 0
    else if p.kind == 2 then p.args.getD ((x.off + i) % 4) 0 else 0)

/-- The bytes of a segment's source that a peer has sent, in place. -/
def CopySeg.received (x : CopySeg) : List Byte :=
  x.got.foldl (fun l g => l.take g.1 ++ g.2 ++ l.drop (g.1 + g.2.length)) (List.replicate x.sourced 0)

/-- The unspecified bytes of a packet whose source and destination overlap (R111), once its segments are done. -/
def State.copyOverlap (s : State) (c : Channel) (p : CopyPacket) : State :=
  ((List.range c.segs.length).zip c.segs).foldl (fun (s : State) y =>
    let x := y.2
    let d := p.dstAt c.dst x.row x.off
    let hits := (List.range x.len).filter (fun i => c.readsByte p (flatKey d + i))
    if x.state != .done || x.void || hits.isEmpty then s
    else
      match s.route (c.xreq .write) (s.channelGang c) d 1 with
      | (s1, .bad _) => s1
      | (s1, .ok (pl, _)) =>
        match s1.reachHome .write pl with
        | (_, .bad _) => s1
        | (s2, .ok _) =>
          hits.foldl (fun (s : State) i =>
            ({ s with fresh := s.fresh + 1 } : State).copyPut c y.1 i (pl.plus i) (d + BitVec.ofNat 64 i) [Config.freeByte s.fresh]) s2) s

/-- A vault address waits while the gang whose allocation it names is frozen or swapped out (R115). -/
def State.vaultHeld (s : State) (c : Channel) (a : W64) : Bool :=
  let away := fun (ctx : BitVec 12) (g : BitVec 24) =>
    s.swapped.any (fun x => x.1 == ctx && x.2.1 == g) || (match s.findGang ctx g with | some h => h.frozen | none => false)
  onVault a
    && (match c.by_ with
      | none => false
      | some w =>
        away w.ctx w.gang
          || (field a 63 60 == 3
            && (match s.findGang w.ctx w.gang with
              | some h => away w.ctx (BitVec.ofNat 24 (field (h.roles.getD (field a 59 56) 0) 23 0))
              | none => false)))

/-- The places of a segment's source and destination, and whether each is far: both are translated before any byte moves (R117). A path or vault
bounds fault of either is found before a translation. -/
def State.segPlaces (s : State) (c : Channel) (p : CopyPacket) (x : CopySeg) : State × Ans (Option (Place × Bool) × (Place × Bool)) × W64 :=
  let g := s.channelGang c
  let a := p.srcAt x.row x.from_
  let d := p.dstAt c.dst x.row x.off
  let early := if x.sourced != 0 then s.pathCheck c.ctx g false a else none
  match early, s.pathCheck c.ctx g true d with
  | some f, _ => (s, .bad f, a)
  | none, some f => (s, .bad f, d)
  | none, none =>
    let (s1, r1) :=
      if x.sourced != 0 then (match s.route (c.xreq .read) g a 1 with | (t, .ok z) => (t, Ans.ok (some z)) | (t, .bad f) => (t, .bad f))
      else (s, .ok none)
    match r1 with
    | .bad f => (s1, .bad f, a)
    | .ok from_ =>
      match s1.route (c.xreq .write) g d 1 with
      | (s2, .bad f) => (s2, .bad f, d)
      | (s2, .ok z) => (s2, .ok (from_, z), d)

/-- The places that a segment's accesses go to: those of the translations made for it, where they stand (R44). -/
def State.segFixed (s : State) (c : Channel) (p : CopyPacket) (x : CopySeg) : State × Ans (Option Place × Place) × W64 :=
  match x.dest, x.src.isSome || x.sourced == 0 with
  | some d, true => (s, .ok (x.src, d), 0)
  | _, _ =>
    match s.segPlaces c p x with
    | (s1, .bad f, a) => (s1, .bad f, a)
    | (s1, .ok (y, z), a) => (s1, .ok (y.map (·.1), z.1), a)

/-- The entries of a die's fix-up list (R103). -/
def State.copyFixups (s : State) (d : Die) : Nat :=
  (s.channels.filter (fun c => c.die == d)).foldl (fun n c => n + c.posts.length) 0

/-- A segment has met a fault (R117): it goes to the fix-up list, or fails the packet. A full list leaves it to be issued again, and its channel
issues nothing until an entry frees. -/
def State.segFault (s : State) (c : Channel) (n : Nat) (f : AFault) (a : W64) : State :=
  if !f.posts then s.copyFail c 3
  else if 64 ≤ s.copyFixups c.die then s.modChannel c.id (fun x => { x.setSeg n .todo with stuck := true })
  else
    let (s1, id) := s.postFault c.die c.quad 1 c.ch c.ctx c.slot f a
    s1.modChannel c.id (fun x => x.setSeg n (.posted id))

/-- The page is backed on a die, or unbacked with that die as home (R116). -/
def Place.onDie (p : Place) (d : Die) : Bool :=
  match p with
  | .mem a => isDevice a && dieOf a == d
  | .page q _ => q.die == d
  | .peer _ _ => false

/-- A segment is written (R104, R117): its bytes reach their home, where an unbacked page takes its slot (R62). A source in the package is read
at the same instant. -/
def State.segLand (s : State) (c : Channel) (p : CopyPacket) (n : Nat) (x : CopySeg) (src : Option Place) (d : Place) : State :=
  match s.reachHome .write d with
  | (s1, .bad f) => s1.segFault c n f (p.dstAt c.dst x.row x.off)
  | (s1, .ok _) =>
    let (s2, bs) := match src with | some y => s1.homeRead (y.addr.getD 0) x.sourced | none => (s1, x.received)
    (s2.copyDeliver c p n x d (p.bytesOf x bs)).modChannel c.id (fun y => y.setSeg n .done)

/-- A segment in hand is moved (R104, R117): the source is read at its home and the destination written at its own. A source at a peer is read
by a request for each sector, and the segment is written with the last answer. -/
def State.segMove (s : State) (c : Channel) (p : CopyPacket) (n : Nat) (x : CopySeg) : State :=
  match s.segFixed c p x with
  | (s1, .bad f, a) => s1.segFault c n f a
  | (s1, .ok (src, d), _) =>
    let stale := fun (y : Place) => match y with | .peer pkg _ => s1.routeStale.contains pkg | _ => false
    let lost := fun (y : Place) => match y with | .peer pkg _ => !s1.reachable pkg | _ => false
    let room := fun (y : Place) => match y.addr with | some z => s1.l2Ready z x.len | none => true
    let all := d :: src.toList
    if all.any stale || !all.all room then s
    else if all.any lost then s1.segFault c n (peerFault 0x1F) (p.dstAt c.dst x.row x.off)
    else
      match src with
      | some (.peer pkg dpa) =>
        let va := p.srcAt x.row x.from_
        let s2 := (cutSectors (x.sourced + 1) dpa (List.replicate x.sourced 0)).foldl (fun (s : State) y =>
          (s.sendPeer none c.ctx pkg y.1 (va + BitVec.ofNat 64 (y.1 - dpa)) (.read y.2.length) none).markEngine c n (y.1 - dpa)) s1
        s2.modChannel c.id (fun y => { y with segs := y.segs.set n { x with state := .remote, src := src, dest := some d, got := [] } })
      | _ => s1.segLand c p n x src d

/-- The last answer of a segment's source has come: it is written where its destination was translated to, or translated again if a round has
taken that place away since (R44, R47). -/
def State.segArrive (s : State) (c : Channel) (p : CopyPacket) (n : Nat) (x : CopySeg) : State :=
  match x.dest with
  | some d => s.segLand c p n x none d
  | none =>
    let a := p.dstAt c.dst x.row x.off
    match s.route (c.xreq .write) (s.channelGang c) a 1 with
    | (s1, .bad f) => s1.segFault c n f a
    | (s1, .ok (d, _)) => s1.segLand c p n x none d

/-- A segment given up: the packet has failed before it was written (R119). -/
def Channel.voidSeg (c : Channel) (n : Nat) : Channel :=
  { c with segs := match c.segs[n]? with
      | some y => c.segs.set n { y with state := .done, void := true, src := none, dest := none, got := [] }
      | none => c.segs }

/-- A peer's answer to a segment's access: the bytes of its source are written together with the last of them; a fault reply fails the packet, and
what is not written by then is given up (R104, R119, R453). -/
def State.engineReply (s : State) (id seg off : Nat) (bs : Option (List Byte)) (read : Bool) : State :=
  let last := !s.peerReqs.any (fun r => match r.engine with | some (i, n, _) => i == id && n == seg && !r.posted | none => false)
  match s.channels.find? (fun c => c.id == id) with
  | none => s
  | some c =>
    match bs, c.segs[seg]? with
    | none, _ =>
      let s1 := s.copyFail c 3
      if last && read then s1.modChannel id (fun y => y.voidSeg seg) else s1
    | some _, none => s
    | some data, some x =>
      if !read || x.state != .remote then s
      else
        let x1 := { x with got := x.got ++ [(off, data)] }
        let s1 := s.modChannel id (fun y => { y with segs := y.segs.set seg x1 })
        if !last then s1
        else if c.code != 0 then s1.modChannel id (fun y => y.voidSeg seg)
        else s1.segArrive c (copyPacket c.packet) seg x1

/-- The packet may move its segments: no vault address of the segment is held back (R115). -/
def State.segHeld (s : State) (c : Channel) (p : CopyPacket) (x : CopySeg) : Bool :=
  s.vaultHeld c (p.dstAt c.dst x.row x.off) || (x.sourced != 0 && s.vaultHeld c (p.srcAt x.row x.from_))

/-- A segment of a HALO packet translated ahead and its places checked (R116): once all are, the packet is refused if one of them is elsewhere. -/
def State.haloAhead (s : State) (c : Channel) (p : CopyPacket) (n : Nat) (x : CopySeg) : State :=
  match s.segPlaces c p x with
  | (s1, .bad f, a) => s1.segFault c n f a
  | (s1, .ok (src, (d, far)), _) =>
    let ok := (match src with | some (a, f) => a.onDie c.die && !f | none => true)
      && d.onDie (BitVec.ofNat 2 (bytesAt p.args 0 1)) && !far
    let c1 : Channel := { c with segs := c.segs.set n { x with state := .checked ok, src := src.map (·.1), dest := some d } }
    let s2 := s1.modChannel c.id (fun y => { y with segs := c1.segs })
    if c1.checkedAll && c1.segs.any (fun y => y.state == .checked false) then s2.copyFail c1 5 else s2

/-- The channel issues no segment: one of them met a full fix-up list, and no entry has freed since (R117). -/
def State.channelStuck (s : State) (c : Channel) : Bool := c.stuck && decide (64 ≤ s.copyFixups c.die)

/-- Copy segment (R117): segment `seg` of a channel's packet is translated and moved, or set aside with its fault posted. -/
def execCopySegment (die : Die) (ch : BitVec 4) (seg : Nat) (s0 : State) : Host.Outcome State Fault Refusal :=
  match s0.channel die ch with
  | none => .next s0
  | some c =>
    let s := (s0.paidByChannel c).modChannel c.id (fun x => { x with stuck := s0.channelStuck c })
    match c.segs[seg]? with
    | none => .next s
    | some x =>
      let p := copyPacket c.packet
      if !c.started || c.code != 0 || s0.channelStuck c || s.segHeld c p x then .next s
      else
        match x.state with
        | .todo => if p.kind == 6 then .next (s.haloAhead c p seg x) else .next (s.segMove c p seg x)
        | .checked _ => if c.checkedAll then .next (s.segMove c p seg x) else .next s
        | _ => .next s

/-- Copy fix-up replay (R118): the other segments are done, or cannot be for want of a free entry in the list, and the first segment whose fault is
answered is issued again; an unfixable answer fails the packet. -/
def execCopyFixupReplay (die : Die) (ch : BitVec 4) (s0 : State) : Host.Outcome State Fault Refusal :=
  match s0.channel die ch with
  | none => .next s0
  | some c =>
    let s := s0.paidByChannel c
    let p := copyPacket c.packet
    let others := !s.channelStuck c && c.segs.any (fun x => match x.state with | .posted _ | .done => false | .checked _ => p.kind != 6 | _ => true)
    match c.segs.findIdx? (fun x => match x.state with | .posted k => s.answered k | _ => false) with
    | none => .next s
    | some n =>
      match c.segs[n]? with
      | none => .next s
      | some x =>
        let k := match x.state with | .posted k => k | _ => 0
        let gone := fun (s : State) => s.modChannel c.id (fun y => y.voidSeg n)
        if c.code != 0 then .next (gone (s.dropPost k))
        else if s.postState k == .unfixable then .next (gone ((s.dropPost k).copyFail c 3))
        else if others || s.segHeld c p x then .next s
        else
          let s1 := (s.dropPost k).modChannel c.id (fun y => y.setSeg n .todo)
          let c1 := c.setSeg n .todo
          let x1 := c1.segs.getD n x
          if p.kind == 6 then .next (s1.haloAhead c1 p n x1) else .next (s1.segMove c1 p n x1)

/-! ### Ring publication and the matrix command (R106, R112) -/

/-- Every segment is over. -/
def Channel.moved (c : Channel) : Bool := (c.started || c.code != 0) && c.segs.all (fun x => x.state == .done)

/-- Posted writes of the channel that are not acknowledged. -/
def State.channelPosted (s : State) (c : Channel) : Bool :=
  s.peerReqs.any (fun r => match r.engine with | some (i, _, _) => i == c.id | none => false)

/-- The ring entry published (R106, R110), once every write of the packet is visible: none while the entry's turn has not come or a fault is
posted. One that cannot be published is given up, and the packet fails. -/
def State.copyPublish (s : State) (c : Channel) (p : CopyPacket) : State :=
  let finished := fun (s : State) => (s.endScript c.key).modChannel c.id (fun x => { x with published := true })
  let giveUp := fun (s : State) => finished ((s.endScript c.key).copyFail c 3)
  let bad := fun (s : State) (f : AFault) (a : W64) => if f.posts then (s.endScript c.key).channelPost c 1 f a else giveUp s
  match c.ring with
  | none => finished s
  | some i =>
    if s.channelUnfixable c then giveUp (s.clearPost c)
    else if s.channelPosted c || s.isArmed (c.key.who c.ctx) then s
    else
      match (s.clearPost c).agent c.key (c.xreq .read) none p.dst 64 (.read 64) 64 with
      | (s1, .wait) => s1
      | (s1, .bad f) => bad s1 f p.dst
      | (s1, .ok bs) =>
        match ringOf 0 bs with
        | none => giveUp s1
        | some r =>
          if !r.room i.toNat then (s1.endScript c.key).armAgent c.key (c.xreq .read) (p.dst + 16) true 9 (r.roomVal i.toNat)
          else
            match s1.agent c.key (c.xreq .write) none (r.tag i.toNat) 4 (.write (leBytes 4 (tagOf i.toNat))) 4 with
            | (s2, .wait) => s2
            | (s2, .bad f) => bad s2 f (r.tag i.toNat)
            | (s2, .ok _) => finished s2

/-- COPYMMA command issue (R112, R310): once the copy is done and its ring entry published, the command enters the table of the quad that
holds the gang; it waits while the gang is pre-empted or not placed, or the table is full. -/
def execCopymmaCommandIssue (die : Die) (ch : BitVec 4) (s0 : State) : Host.Outcome State Fault Refusal :=
  match s0.channel die ch with
  | none => .next s0
  | some c =>
    let s := s0.paidByChannel c
    let p := copyPacket c.packet
    if p.kind != 5 || c.code != 0 || !c.moved || c.command.isSome || s.channelWaits c then .next s
    else if !c.published then .next ((s.copyOverlap c p).copyPublish c p)
    else
      match s.findGang c.ctx p.gang with
      | none => if s.gangAwaited c.ctx p.gang then .next s else .next (s.copyFail c 6)
      | some g =>
        if g.frozen || !s.mxRoom g.die g.quad then .next s
        else
          let side := p.mcw.getLsbD 3
          let e : MxEntry := {
            id := 0, die := g.die, quad := g.quad, who := none, chan := some c.id, via := c.viaFor p.mcw, core := ⟨g.die, g.quad, 0⟩
            ctx := c.ctx, slot := c.slot
            gang := g.gang, tile := (g.tileOf (mcwAcc p.mcw)).getD 0, kind := .mma, mcw := p.mcw
            opa := if side then p.other else c.dst
            opb := if side then c.dst else p.other
            lanes := 0, rows := [], segs := [], held := [], pins := [], code := 0, aged := false, frozen := false, readyAt := none }
          if !g.kernel.matrix || (g.tileOf (mcwAcc p.mcw)).isNone || (s.entryCheck (some g) e).isSome then .next (s.copyFail c 7)
          else .next ((s.mxEnter e).modChannel c.id (fun x => { x with command := some s.nextId }))

/-! ### Completion (R113, R114, R119) -/

/-- A batch with an entry marked complete. -/
def Batch.mark (b : Batch) (d : Die) (n : BitVec 6) (index : W64) (failed : Bool) : Batch :=
  let hit := fun (e : BatchEntry) => e.die == d && e.queue == n && !e.done && e.index.toNat == index.toNat
  if b.entries.any hit then
    { b with entries := b.entries.map (fun e => if hit e then { e with done := true } else e), failed := b.failed || failed }
  else b

/-- Every entry of a batch is complete. -/
def Batch.finished (b : Batch) : Bool := b.entries.all (fun e => e.done)

/-- The entry marked complete in the batches of a strand. -/
def Strand.markBatch (st : Strand) (d : Die) (n : BitVec 6) (index : W64) (failed : Bool) : Strand :=
  { st with
    openBatch := st.openBatch.mark d n index failed
    sealedBatches := st.sealedBatches.map (fun b => b.map (fun x => x.mark d n index failed)) }

/-- A sealed batch let go. -/
def Strand.dropBatch (st : Strand) (n : Nat) : Strand := { st with sealedBatches := tabSet 4 st.sealedBatches n none none }

/-- Strands in `cwait` whose batch is complete go on (R283). -/
def State.cwaitWake (s : State) : State :=
  (s.strandsWhere (fun st => st.park == some .cwait)).foldl (fun s i =>
    match s.strands[i]? with
    | none => s
    | some st =>
      match st.waiting with
      | some (.cwait _ d a) =>
        let n := field (st.wreg a.toNat) 1 0
        (match st.sealedBatches.getD n none with
        | some b =>
          if b.finished then s.modStrand i (fun x => ((x.setW d.toNat (if b.failed then 1 else 0)).dropBatch n).endWait s.cycle) else s
        | none => s)
      | _ => s) s

/-- A credit of a transaction barrier (R113, R275). -/
def State.tbarCredit (s : State) (a credit : Nat) : State :=
  let (s1, v) := s.homeNat a 16
  let bytes := (v / 2 ^ 64 + 2 ^ 32 - credit % 2 ^ 32) % 2 ^ 32
  let arr := v % 2 ^ 32
  let ini := v / 2 ^ 32 % 2 ^ 32
  let full := arr == 0 && bytes == 0
  let phase := if full then (v / 2 ^ 96 + 1) % 2 ^ 32 else v / 2 ^ 96
  (s1.homePut a 16 (phase * 2 ^ 96 + bytes * 2 ^ 64 + ini * 2 ^ 32 + (if full then ini else arr))).testVaultWaits a

/-- The notification of a complete packet (R114): none while a fault of it is posted, or while the vault it lies in is away (R115). -/
def State.copyNotify (s : State) (c : Channel) (p : CopyPacket) : State :=
  let finished := fun (s : State) => (s.endScript c.key).modChannel c.id (fun x => { x with notified := true })
  let fail := fun (s : State) => finished ((s.endScript c.key).copyFail c 3)
  let bad := fun (s : State) (f : AFault) => if f.posts then (s.endScript c.key).channelPost c 2 f p.notify else fail s
  let align := if p.ntf == 1 then 8 else 16
  if p.ntf == 0 || p.ntf == 3 || p.notify.toNat % align != 0 || (c.by_.isNone && onVault p.notify) then finished s
  else if s.channelUnfixable c then fail (s.clearPost c)
  else if s.vaultHeld c p.notify then s
  else
    let x := if c.code == 0 then 1 else 2 ^ 32
    match (s.clearPost c).route (c.xreq .write) (s.channelGang c) p.notify align with
    | (s1, .bad f) => bad s1 f
    | (s1, .ok (pl, far)) =>
      if p.ntf == 2 && far then fail s1
      else
        match s1.reachHome .write pl with
        | (s2, .bad f) => bad s2 f
        | (s2, .ok _) =>
          if p.ntf == 2 then finished (s2.tbarCredit (pl.addr.getD 0) (p.sectors c.dst * 32))
          else
            match s2.agentAt c.key c.ctx p.notify pl (.atomic true 0 (BitVec.ofNat 64 x)) 8 with
            | (s3, .wait) => s3
            | (s3, .bad f) => bad s3 f
            | (s3, .ok _) => finished s3

/-- A complete entry released in index order (R106, R107, R114): RELEASE is moved past it once it stands there. A fault on the header is posted;
one that is not fixed leaves the entry unreleased, and halts the queue with no record. -/
def State.copyRelease (s : State) (c : Channel) : State :=
  let a := c.header + 16
  let bad := fun (s : State) (f : AFault) =>
    let s1 := s.endScript c.key
    if f.posts then s1.channelPost c 4 f a else s1.cqLost c.die c.queue
  if s.channelWaits c || (s.reg (.cqctl c.die c.queue)).getLsbD 29 then s
  else if s.channelUnfixable c then (s.clearPost c).cqLost c.die c.queue
  else if (s.heldOf c.die c.queue).any (fun x => decide (x.index.toNat < c.index.toNat)) then s
  else
    match (s.clearPost c).agent c.key (c.xreq .read) none a 8 (.read 8) 8 with
    | (s1, .wait) => s1
    | (s1, .bad f) => bad s1 f
    | (s1, .ok bs) =>
      if leNat bs != c.index.toNat then s1.endScript c.key
      else
        match s1.agent c.key (c.xreq .write) none a 8 (.write (leBytes 8 (c.index.toNat + 1))) 8 with
        | (s2, .wait) => s2
        | (s2, .bad f) => bad s2 f
        | (s2, .ok _) => { s2.endScript c.key with channels := (s2.endScript c.key).channels.filter (fun y => y.id != c.id) }

/-- The packet can complete: nothing of it is under way (R114, R118). -/
def State.copyOver (s : State) (c : Channel) (p : CopyPacket) : Bool :=
  c.moved && !(s.peerReqs.any (fun r => match r.engine with | some (i, _, _) => i == c.id && (!r.posted || p.scope == 4) | none => false))
    && (c.code != 0 || p.kind != 5 || c.applied)

/-- Copy packet complete (R114, R119): the queue of a failed packet is halted, the ring entry is published, the notification made, and the queue
entry released. -/
def execCopyPacketComplete (die : Die) (ch : BitVec 4) (s0 : State) : Host.Outcome State Fault Refusal :=
  match s0.channel die ch with
  | none => .next s0
  | some c =>
    let s := s0.paidByChannel c
    let p := copyPacket c.packet
    if c.complete then .next (s.copyRelease c)
    else if s.channelWaits c || !s.copyOver c p then .next s
    else if s.channelUnfixable c && c.postFor == 1 then .next (s.copyPublish c p)
    else if s.channelUnfixable c && c.postFor == 2 then .next (s.copyNotify c p)
    else if c.code != 0 && !c.halted then .next (s.copyHalt c)
    else if !c.published then .next ((s.copyOverlap c p).copyPublish c p)
    else if !c.notified then .next (s.copyNotify c p)
    else
      let s1 := s.modChannel c.id (fun x => { x with complete := true })
      let s2 : State := { s1 with
        strands := s1.strands.map (fun (st : Strand) => st.markBatch die c.queue c.index (c.code != 0))
        launches := s1.launches.map (fun (l : Launch) =>
          if l.waits.contains (die, c.queue, c.index) then
            { l with waits := l.waits.filter (fun w => w != (die, c.queue, c.index)), acks := if s1.channelPosted c then c.id :: l.acks else l.acks }
          else l) }
      .next (s2.copyRelease c).cwaitWake

/-! ### The queue registers (R108) -/

/-- The entries held of a queue are complete and none is being taken: a write that cleared EN completes (R108). -/
def State.cqIdle (s : State) (d : Die) (n : BitVec 6) : Bool := (s.heldOf d n).all (fun c => c.complete) && !s.agentBusy (.copyQueue d n)

/-- CQCTLn write (R108). A write that clears EN while the engine takes an entry from a peer leaves CTX and QUAD as they were (log entry 61). -/
def execCqctlWrite (die : Die) (n : BitVec 6) (v : Word) (s : State) : Host.Outcome State Fault Refusal :=
  let r := s.reg (.cqctl die n)
  let same := field v 25 10 == field r 25 10 && v.getLsbD 0 == r.getLsbD 0
  let enable := v.getLsbD 0 && !r.getLsbD 0
  let refused := field v 28 26 != 0 || field v 9 1 != 0
    || (r.getLsbD 0 && v.getLsbD 0 && !same)
    || (enable && (s.slotOf (BitVec.ofNat 12 (field v 25 14))).isNone)
  if s.pendingWrites.contains (.cqctl die n) then .next s
  else if refused then .next (s.setRegField (.cqctl die n) 31 31 1)
  else
    let busy := s.agentBusy (.copyQueue die n)
    let err := if v.getLsbD 31 then 0 else field r 31 31
    let halt := if v.getLsbD 30 then 0 else field r 30 30
    let hdrf := if v.getLsbD 29 || v.getLsbD 30 then 0 else field r 29 29
    let s1 := s.setReg (.cqctl die n)
      (BitVec.ofNat 64 (err * 2 ^ 31 + halt * 2 ^ 30 + hdrf * 2 ^ 29 + field (if busy then r else v.setWidth 64) 25 10 * 2 ^ 10 + field v 0 0))
    let cleared := r.getLsbD 0 && !v.getLsbD 0
    let s2 := if cleared || v.getLsbD 30 then s1.disarm (AgentKey.who (BitVec.ofNat 12 (field r 25 14)) (.copyQueue die n)) else s1
    let s3 : State := if cleared && !busy then
        (match s2.cqWait die n with | some w => s2.cqResume die n w | none => s2).endScript (.copyQueue die n)
      else s2
    .next (if cleared && !s3.cqIdle die n then { s3 with pendingWrites := s3.pendingWrites ++ [.cqctl die n] } else s3)

/-- Copy queue disable complete (R108): the write that cleared EN completes with the last entry held. -/
def execCqDisableComplete (die : Die) (n : BitVec 6) (s : State) : Host.Outcome State Fault Refusal :=
  if s.cqIdle die n then .next { s with pendingWrites := s.pendingWrites.filter (· != .cqctl die n) } else .next s

end Sys2Proof.Machine
end

