-- ==== Sys2Proof/Machine/Queues.lean ====
section
/-! DEFINITION. What strands do with copy queues, batches and rings: uniform opcodes 0x5C to 0x62 (R115, R282 to R286). -/

namespace Sys2Proof.Machine

open Sys2Proof

/-- The ring fault (R265, R284). -/
def Trap.ring : Trap := Trap.plain 0x21 0
/-- The batch-limit trap (R282, R283). -/
def Trap.batchLimit : Trap := Trap.plain 0x23 0
/-- The role fault of a role (R265). -/
def Trap.role (r : Nat) : Trap := Trap.plain 0x20 (BitVec.ofNat 16 r)

/-- What follows an access of a series: the rest of the instruction, a wait, or the fault. -/
def afterStep (r : State × Step1) (a : W64) (k : List Byte → State → State × After) : State × After :=
  match r with
  | (s, .ok bs) => k bs s
  | (s, .wait) => (s, .again)
  | (s, .bad f) => (s.endSeries, .trap (wholeTrap f a))

/-- The strand parks on a monitor of a word (R106, R284, R285), here or at a peer. -/
def State.parkWatch (s0 : State) (st : Strand) (i : Instr) (p : Park) (a : W64) (wide : Bool) (cond : BitVec 4) (val : W64) :
    State × After :=
  let s := s0.endSeries
  match s.route (st.xreq .read) (s.gangOf st) a (if wide then 8 else 4) with
  | (s1, .bad f) => (s1, .trap (wholeTrap f a))
  | (s1, .ok (.peer pkg dpa, _)) =>
    if !s1.reachable pkg then (s1, .trap ⟨0x19, 0x1F, none, 0, a, 0⟩)
    else ((s1.park s1.cur p i).sendPeer (some st.who) st.who.ctx pkg dpa a (.arm wide cond val) none, .again)
  | (s1, .ok (pl, _)) => ((s1.park s1.cur p i).sendArm st a (pl.addr.getD 0) wide cond val, .again)

/-- The header of a ring read at its home, with the ring fault where it breaks Table 1 or `bad` refuses it. -/
def withRing (i : Instr) (st : Strand) (s : State) (h : W64) (bad : Ring → Bool) (k : Ring → State → State × After) : State × After :=
  afterStep (s.series i st h 64 [0, 1] (.read 64) 64) h (fun bs s1 =>
    match ringOf 0 bs with
    | none => (s1.endSeries, .trap Trap.ring)
    | some r => if bad r then (s1.endSeries, .trap Trap.ring) else k r s1)

/-- The paths of a ring's entries and tags. -/
def ringPaths : List Nat := [0, 1, 2, 3, 4]

/-- The role of a strand's gang. -/
def State.roleOf (s : State) (st : Strand) (r : Nat) : W64 := match s.gangOf st with | some g => g.roles.getD r 0 | none => 0

/-- The packet held in a group of 16 w registers; `halo` puts HALO in its KIND (R282). -/
def packetOf (st : Strand) (a : Nat) (halo : Bool) : List Byte :=
  let w0 := st.wreg a
  (List.range 16).foldr (fun j l =>
    leBytes 4 (if j == 0 then (if halo then (setField w0 15 12 6).toNat else w0.toNat) else (st.wreg (a + j)).toNat) ++ l) []

/-- The entry claimed is written and published (R115): its packet, then, with every prior store visible, its tag. -/
def publishEntry (i : Instr) (die : Die) (n : BitVec 6) (d : Nat) (pkt : List Byte) (r : Ring) (index : Nat) (st : Strand) (s : State) :
    State × After :=
  afterStep (s.series i st (r.entry index) 64 ringPaths (.write pkt) 64) (r.entry index) (fun _ s1 =>
    let far := match s1.route (st.xreq .write) (s1.gangOf st) (r.tag index) 4 with | (_, .ok (.peer .., _)) => true | _ => false
    let posted := match s1.strands[s1.cur]? with | some x => x.posted | none => 0
    if far && posted != 0 then (s1.modCur (fun x => x.hold .posted), .again)
    else
      afterStep ((s1.drain st.who).series i st (r.tag index) 4 ringPaths (.write (leBytes 4 (tagOf index))) 4) (r.tag index) (fun _ s2 =>
        let s3 : State := { s2.endSeries with
          handed := s2.endSeries.handed ++ [⟨die, n, BitVec.ofNat 64 index, st.who, s2.queueFor st.who.ctx st.who.gang, pkt⟩] }
        let s4 := s3.modCur (fun x => { x with
          claim := none
          openBatch := { x.openBatch with entries := x.openBatch.entries ++ [⟨die, n, BitVec.ofNat 48 index, false⟩] } })
        (s4.deferW st [(d, BitVec.ofNat 32 index), (d + 1, BitVec.ofNat 32 (index / 2 ^ 32))], .done)))

/-- `cqput` and `halox` (R115, R282). -/
def submitBody (i : Instr) (halo : Bool) (d a : Nat) (role : Nat) : Body :=
  withStrand (fun st s =>
    let x := s.roleOf st role
    let die : Die := BitVec.ofNat 2 (field x 1 0)
    let n : BitVec 6 := BitVec.ofNat 6 (field x 7 2)
    if field x 63 60 != 5 || !s.dieValid die || !(s.reg (.cqctl die n)).getLsbD 0 then (s, .trap (Trap.role role))
    else if st.claim.isNone && decide (16 ≤ st.openBatch.entries.length) then (s, .trap Trap.batchLimit)
    else
      let h := s.cqHeader die n
      withRing i st s h Ring.noQueue (fun r s1 =>
        let go := fun (index : Nat) (s2 : State) =>
          if r.room index then publishEntry i die n d (packetOf st a halo) r index st s2
          else s2.parkWatch st i .cqput (h + 16) true 9 (BitVec.ofNat 64 (index + 1 - 2 ^ r.logn))
        match st.claim with
        | some index => go index.toNat s1
        | none =>
          afterStep (s1.series i st h 8 [0, 1] (.atomic true 0 1) 8) h (fun bs s2 =>
            go (leNat bs) (s2.modCur (fun y => { y with claim := some (BitVec.ofNat 63 (leNat bs)) })))))

/-- `cqput`. -/
def execCqput (px : Pfx) (d a : BitVec 6) (r : BitVec 4) (s : State) : Host.Outcome State Fault Refusal :=
  issue (.cqput px d a r) (submitBody (.cqput px d a r) false d.toNat a.toNat r.toNat) s

/-- `halox`. -/
def execHalox (px : Pfx) (d a : BitVec 6) (r : BitVec 4) (s : State) : Host.Outcome State Fault Refusal :=
  issue (.halox px d a r) (submitBody (.halox px d a r) true d.toNat a.toNat r.toNat) s

/-- `cseal` (R283). -/
def execCseal (px : Pfx) (d : BitVec 6) (s : State) : Host.Outcome State Fault Refusal :=
  issue (.cseal px d) (withStrand (fun st s =>
    if st.openBatch.entries.isEmpty then (s.modCur (fun x => x.setW d.toNat 0xFFFFFFFF), .done)
    else
      match (List.range 4).find? (fun n => (st.sealedBatches.getD n none).isNone) with
      | none => (s, .trap Trap.batchLimit)
      | some n =>
        (s.modCur (fun x => { x.setW d.toNat (BitVec.ofNat 32 n) with
          sealedBatches := tabSet 4 x.sealedBatches n (some { x.openBatch with sealed := true }) none
          openBatch := Batch.blank }), .done))) s

/-- `cwait` (R283). -/
def execCwait (px : Pfx) (d a : BitVec 6) (s : State) : Host.Outcome State Fault Refusal :=
  issue (.cwait px d a) (withStrand (fun st s =>
    let x := st.wreg a.toNat
    let n := field x 1 0
    match (if field x 31 2 != 0 then none else st.sealedBatches.getD n none) with
    | none => (s.deferW st [(d.toNat, 2)], .done)
    | some b =>
      if b.finished then ((s.modCur (fun y => y.dropBatch n)).deferW st [(d.toNat, if b.failed then 1 else 0)], .done)
      else (s.park s.cur .cwait (.cwait px d a), .again))) s

/-- `ringawait` (R284). -/
def execRingawait (px : Pfx) (d a : BitVec 6) (s : State) : Host.Outcome State Fault Refusal :=
  let i : Instr := .ringawait px d a
  issue (.ringawait px d a) (withStrand (fun st s =>
    let h := st.wpair a.toNat
    withRing i st s h (fun r => r.cq) (fun r s1 =>
      let n := r.acquire
      afterStep (s1.series i st (r.tag n) 4 ringPaths (.read 4) 4) (r.tag n) (fun bs s2 =>
        if leNat bs != tagOf n then s2.parkWatch st i .ring (r.tag n) false 0 (BitVec.ofNat 64 (tagOf n))
        else
          afterStep (s2.series i st (h + 8) 8 [0, 1] (.cas 8 (BitVec.ofNat 128 n) (BitVec.ofNat 128 (n + 1))) 8) h (fun old s3 =>
            if leNat old != n then (s3.endSeries, .again)
            else
              let e := r.entry n
              let s4 := s3.endSeries.l1InvalidateRange st.core st.who.ctx (field e 56 0) (2 ^ r.logsz)
              (s4.deferW st [(d.toNat, BitVec.ofNat 32 n), (d.toNat + 1, BitVec.ofNat 32 (n / 2 ^ 32)), (d.toNat + 2, lo32 e),
                (d.toNat + 3, hi32 e)], .done)))))) s

/-- `ringrel` (R285). -/
def execRingrel (px : Pfx) (a b : BitVec 6) (s : State) : Host.Outcome State Fault Refusal :=
  let i : Instr := .ringrel px a b
  issue (.ringrel px a b) (withStrand (fun st s =>
    let h := st.wpair a.toNat
    let n := (st.wpair b.toNat).toNat
    withRing i st s h (fun r => r.cq) (fun r s1 =>
      if n < r.release then (s1.endSeries, .trap Trap.ring)
      else if r.release != n then s1.parkWatch st i .ring (h + 16) true 0 (BitVec.ofNat 64 n)
      else
        afterStep ((s1.drain st.who).series i st (h + 16) 8 [0, 1] (.write (leBytes 8 (n + 1))) 8) h (fun _ s2 => (s2.endSeries, .done))))) s

/-- `ringpeek` (R286). -/
def execRingpeek (px : Pfx) (d a : BitVec 6) (s : State) : Host.Outcome State Fault Refusal :=
  let i : Instr := .ringpeek px d a
  issue (.ringpeek px d a) (withStrand (fun st s =>
    let h := st.wpair a.toNat
    withRing i st s h (fun r => r.cq) (fun r s1 =>
      let n := r.acquire
      afterStep (s1.series i st (r.tag n) 4 ringPaths (.read 4) 4) (r.tag n) (fun bs s2 =>
        let room : Int := (2 ^ r.logn : Nat) - ((r.reserve : Int) - r.release)
        let free := min 0xFFFFFFFF room.toNat
        (s2.endSeries.deferW st [(d.toNat, BitVec.ofNat 32 n), (d.toNat + 1, BitVec.ofNat 32 (n / 2 ^ 32)),
          (d.toNat + 2, if leNat bs == tagOf n then 1 else 0), (d.toNat + 3, BitVec.ofNat 32 free)], .done))))) s

end Sys2Proof.Machine
end

