-- ==== Sys2Proof/Machine/Launch.lean ====
section
/-! DEFINITION. Launch queues and the Bureau agents (R389 to R403): packets, kernel headers and parameter blocks (R133 to R135), acceptance and
gang numbers (R379), placement (R378, R384, R395, R396), retirement (R387), completion (R398), headroom (R394), and joule budgets (R402, R403). -/

namespace Sys2Proof.Machine

open Sys2Proof

/-! ### Launch packets (R391) -/

/-- Fields of a launch packet (R391, Tables 2 and 3). -/
def lpCtl (p : List Byte) : Word := BitVec.ofNat 32 (bytesAt p 0 4)
def lpGangs (p : List Byte) : Word := BitVec.ofNat 32 (bytesAt p 4 4)
def lpStagger (p : List Byte) : Word := BitVec.ofNat 32 (bytesAt p 8 4)
def lpPlace (p : List Byte) : Word := BitVec.ofNat 32 (bytesAt p 12 4)
def lpKhdr (p : List Byte) : W64 := BitVec.ofNat 64 (bytesAt p 16 8)
def lpParams (p : List Byte) : W64 := BitVec.ofNat 64 (bytesAt p 24 8)
def lpSignal (p : List Byte) : W64 := BitVec.ofNat 64 (bytesAt p 32 8)
def lpAfftab (p : List Byte) : W64 := BitVec.ofNat 64 (bytesAt p 40 8)
def lpGraph (p : List Byte) : W64 := BitVec.ofNat 64 (bytesAt p 48 8)
def lpKind (p : List Byte) : Nat := field (lpCtl p) 15 12
def lpAcq (p : List Byte) : Bool := (lpCtl p).getLsbD 11
def lpRel (p : List Byte) : Bool := (lpCtl p).getLsbD 10
def lpOrd (p : List Byte) : Bool := (lpCtl p).getLsbD 6
def lpAff (p : List Byte) : Nat := field (lpPlace p) 5 4
def lpMask (p : List Byte) : Nat := field (lpPlace p) 3 0

/-- An address of a packet breaks R391: another path, bits [59:57], or its alignment. -/
def lpAddrBad (a : W64) (align : Nat) : Bool := decide (1 < field a 63 60) || field a 59 57 != 0 || a.toNat % align != 0

/-- The virtual dies that a launch may use (R391). -/
def State.launchDies (s : State) (p : List Byte) : List Die :=
  s.validDies.filter (fun d => lpMask p == 0 || lpMask p / 2 ^ d.toNat % 2 == 1)

/-- The packet is malformed (R391, R393; status 1). -/
def State.launchBad (s : State) (p : List Byte) : Bool :=
  let all := bytesAt p 56 8 != 0 || field (lpCtl p) 31 16 != 0 || field (lpCtl p) 5 0 != 0 || decide (2 < lpKind p)
    || decide (4 < field (lpCtl p) 9 7) || field (lpPlace p) 31 6 != 0 || field (lpStagger p) 31 16 != 0 || field (lpGangs p) 31 24 != 0
    || decide (1 < lpAff p) || (lpAff p != 1 && lpAfftab p != 0) || (lpKind p != 2 && lpGraph p != 0) || lpAddrBad (lpSignal p) 8
  if lpKind p == 0 then
    all || lpGangs p != 0 || lpPlace p != 0 || lpStagger p != 0 || lpKhdr p != 0 || lpParams p != 0 || lpAfftab p != 0 || lpGraph p != 0
  else
    all || lpGangs p == 0 || lpAddrBad (lpKhdr p) 128 || lpAddrBad (lpParams p) 128 || lpAddrBad (lpAfftab p) 1 || lpAddrBad (lpGraph p) 32
      || (lpMask p != 0 && (s.launchDies p).isEmpty)

/-! ### Kernel headers and parameter blocks (R133 to R135, R400) -/

/-- The rows that a strand of a kernel takes (R122). -/
def rowsFor (vregs : Nat) : Nat := vregs + 4

/-- A kernel header's fields; none when R133 or R400 refuses it. -/
def kernelOf (a : W64) (h : List Byte) : Option Kernel :=
  let n := bytesAt h
  let flags := n 6 2
  let nodew := n 22 2
  let node := flags / 4 % 2 == 1
  let k : Kernel := {
    header := a, entry := n 24 4, codeSize := n 28 4, calltab := BitVec.ofNat 64 (n 40 8), strands := n 10 2, wgs := n 12 1
    vregs := n 8 1 * 8, vault := n 16 2, lease := n 14 2, lbar := flags % 2 == 1, matrix := flags / 2 % 2 == 1, node := node
    nodeWords := nodew + 1, paramSize := n 18 2, wpre := n 9 1, shape := BitVec.ofNat 96 (n 8 12), preload := [], patches := [] }
  let bad := n 0 4 != 0x4C4E524B || n 4 2 != 1 || decide (8 ≤ flags) || n 36 4 != 0 || n 48 16 != 0
    || k.vregs == 0 || decide (256 < k.vregs) || decide (64 < k.wpre) || k.strands == 0 || decide (512 < k.strands)
    || k.wgs == 0 || decide (4 < k.wgs) || decide (2048 < k.lease) || decide (256 < k.vault) || k.paramSize % 4 != 0
    || k.entry % 4 != 0 || decide (k.entry < 64) || n 32 4 % 8 != 0 || decide (24508 < k.strands * rowsFor k.vregs)
    || decide (k.paramSize < 4 * k.wpre)
    || (if node then decide (16 ≤ nodew) || k.wgs != 1 || decide (k.vregs < k.nodeWords) else nodew != 0)
  if bad then none else some k

/-- What the agent's reading of a structure comes to. -/
inductive Reading (α : Type) where
  | ok (x : α)
  /-- A peer's answer is awaited. -/
  | hold
  /-- A fault that is posted (R390), at the address. -/
  | wait (f : AFault) (a : W64)
  /-- The structure is refused or unreadable. -/
  | bad
  deriving DecidableEq, Repr

/-- Words read one after another by an agent for a context. -/
def readWords (key : AgentKey) (q : Xreq) (a : W64) : List Nat → State → State × Reading (List Nat)
  | [], s => (s, .ok [])
  | k :: ks, s =>
    let x := a + BitVec.ofNat 64 k
    match s.agent key q none x 4 (.read 4) 4 with
    | (s1, .wait) => (s1, .hold)
    | (s1, .bad f) => (s1, if f.posts then .wait f x else .bad)
    | (s1, .ok w) =>
      match readWords key q a ks s1 with
      | (s2, .ok ws) => (s2, .ok (leNat w :: ws))
      | (s2, r) => (s2, r)

/-- The byte offsets of `n` words. -/
def wordOffsets (n : Nat) : List Nat := (List.range n).map (fun k => 4 * k)

/-- Words as bytes. -/
def bytesOfWords (ws : List Nat) : List Byte := ws.foldr (fun w l => leBytes 4 w ++ l) []

/-- What is read so far is carried on. -/
def readThen {α β : Type} (r : State × Reading α) (k : α → State → State × Reading β) : State × Reading β :=
  match r with
  | (s, .ok x) => k x s
  | (s, .hold) => (s, .hold)
  | (s, .wait f a) => (s, .wait f a)
  | (s, .bad) => (s, .bad)

/-- The patch list (R135): offset of the word, and offset in the user area; none when it breaks R135. -/
def patchesOf (k : Kernel) : List Nat → List Nat → Option (List (Nat × Nat))
  | w :: x :: l, prev =>
    let poff := x % 65536
    if x / 65536 != 0 || w % 4 != 0 || poff % 4 != 0 || decide (w < k.entry) || decide (k.codeSize < w + 4)
        || decide (k.paramSize < poff + 4) || prev.any (fun p => decide (w ≤ p)) then none
    else (patchesOf k l [w]).map (fun r => (w, poff) :: r)
  | [], _ => some []
  | _, _ => none

/-- A kernel with the words that a launch preloads and patches, and its role words (R133 to R135). -/
def loadKernel (key : AgentKey) (q : Xreq) (khdr params : W64) (s : State) : State × Reading (Kernel × List W64) :=
  readThen (readWords key q khdr (wordOffsets 16) s) (fun hw s1 =>
    let h := bytesOfWords hw
    match kernelOf khdr h with
    | none => (s1, .bad)
    | some k =>
      let used := BitVec.ofNat 16 (bytesAt h 20 2)
      let slots := (List.range 16).filter (fun r => used.getLsbD r)
      readThen (readWords key q (khdr + BitVec.ofNat 64 (bytesAt h 32 4)) (wordOffsets (2 * bytesAt h 13 1)) s1) (fun pw s2 =>
        match patchesOf k pw [] with
        | none => (s2, .bad)
        | some ps =>
          readThen (readWords key q params (slots.flatMap (fun r => [8 * r, 8 * r + 4])) s2) (fun rw s3 =>
            readThen (readWords key q params ((List.range k.wpre).map (fun i => 128 + 4 * i)) s3) (fun ws s4 =>
              readThen (readWords key q params (ps.map (fun p => 128 + p.2)) s4) (fun vs s5 =>
                let roles := (List.range 16).map (fun r =>
                  match slots.findIdx? (· == r) with
                  | some i => BitVec.ofNat 64 (rw.getD (2 * i) 0 + rw.getD (2 * i + 1) 0 * 2 ^ 32)
                  | none => 0)
                (s5, .ok ({ k with
                  preload := ws.map (BitVec.ofNat 32)
                  patches := (ps.zip vs).map (fun x => (x.1.1, BitVec.ofNat 32 x.2)) }, roles)))))))

/-- A node table entry (R399, Table 6): header, buffer, capacity and timer; none when it breaks the rule. -/
def nodeEntry (root : Bool) (ws : List Nat) : Option (W64 × W64 × Nat × Nat) :=
  let e := bytesOfWords ws
  let buf := BitVec.ofNat 64 (bytesAt e 8 8)
  let cap := bytesAt e 20 2
  let timer := bytesAt e 22 2
  if bytesAt e 24 8 != 0 || (!root && bytesAt e 16 4 != 0) || decide (cap < 5) || decide (20 < cap) || decide (128 < timer)
      || buf.toNat % 128 != 0 || field buf 63 57 != 0 then none
  else some (BitVec.ofNat 64 (bytesAt e 0 8), buf, 2 ^ cap, if timer == 0 then 4 else timer)

/-- The entries of a node table read and checked (R399). -/
def readNodes (key : AgentKey) (q : Xreq) (a : W64) (n : Nat) : List Nat → State → State × Reading (List (W64 × W64 × Nat × Nat))
  | [], s => (s, .ok [])
  | i :: is, s =>
    readThen (readWords key q (a + BitVec.ofNat 64 (32 * i)) (wordOffsets 8) s) (fun ws s1 =>
      match nodeEntry (i == 0) ws with
      | none => (s1, .bad)
      | some e => readThen (readNodes key q a n is s1) (fun es s2 => (s2, .ok (e :: es))))

/-- The kernels of the nodes (R400): a header without FLAGS.NODE makes the table malformed, the root's excepted; `none` for that. -/
def loadNodes (key : AgentKey) (q : Xreq) (params : W64) : List ((W64 × W64 × Nat × Nat) × Bool) → State → State × Reading (Option (List Node))
  | [], s => (s, .ok (some []))
  | ((kh, buf, cap, timer), root) :: l, s =>
    readThen (loadKernel key q kh params s) (fun x s1 =>
      if !root && !x.1.node then (s1, .ok none)
      else
        readThen (loadNodes key q params l s1) (fun r s2 =>
          (s2, .ok (r.map (fun ns => (⟨x.1, x.2, buf, cap, timer, 0, 0, 0, false⟩ : Node) :: ns)))))

/-- What a launch's structures come to: the kernel, its roles and the nodes, a peer's answer awaited, a posted fault with the status that an
unfixable answer to it gives, or the status of a refusal (R398, Table 5). -/
inductive Structures where
  | ok (k : Kernel) (roles : List W64) (nodes : List Node)
  | hold
  | wait (f : AFault) (a : W64) (status : Nat)
  | refused (status : Nat)
  deriving DecidableEq, Repr

/-- A structure read, with the status of a launch for which it cannot be. -/
def structureThen {α : Type} (r : State × Reading α) (status : Nat) (k : α → State → State × Structures) : State × Structures :=
  match r with
  | (s, .ok x) => k x s
  | (s, .hold) => (s, .hold)
  | (s, .wait f a) => (s, .wait f a status)
  | (s, .bad) => (s, .refused status)

/-- The structures that a packet names read and checked. -/
def launchStructures (key : AgentKey) (q : Xreq) (p : List Byte) (s : State) : State × Structures :=
  structureThen (loadKernel key q (lpKhdr p) (lpParams p) s) 2 (fun x s1 =>
    if lpKind p != 2 then (s1, .ok x.1 x.2 [])
    else
      structureThen (readWords key q (lpGraph p) [16] s1) 7 (fun ws s2 =>
        let n := ws.headD 0
        if n == 0 || decide (4096 < n) then (s2, .refused 7)
        else
          structureThen (readNodes key q (lpGraph p) n (List.range n) s2) 7 (fun es s3 =>
            if (es.head?.map (·.1)) != some (lpKhdr p) then (s3, .refused 7)
            else
              structureThen (loadNodes key q (lpParams p) ((List.range n).zip es |>.map (fun x => (x.2, x.1 == 0))) s3) 2 (fun r s4 =>
                match r with
                | none => (s4, .refused 7)
                | some ns => (s4, .ok x.1 x.2 ns)))))

/-! ### Gang numbers (R379) -/

/-- Gang numbers are counted modulo 0xFF_FFFF. -/
def gangMod : Nat := 0xFFFFFF

/-- The ranges of gang numbers of a context that are held: first number and count. -/
def State.heldRanges (s : State) (ctx : BitVec 12) : List (Nat × Nat) :=
  ((s.launches.filter (fun l => l.ctx == ctx && decide (l.next < l.n))).map (fun l => ((l.base + l.next) % gangMod, l.n - l.next)))
    ++ (s.gangs.filter (fun g => g.ctx == ctx)).map (fun g => (g.gang.toNat, 1))
    ++ (s.swapped.filter (fun g => g.1 == ctx)).map (fun g => (g.2.1.toNat, 1))

/-- Two cyclic ranges of numbers meet. -/
def rangesMeet (a n b m : Nat) : Bool :=
  decide ((b + gangMod - a) % gangMod < n) || decide ((a + gangMod - b) % gangMod < m)

/-- The lowest base of `n` free numbers: 0, or the number after a held range. -/
def State.lowestBase (s : State) (ctx : BitVec 12) (n : Nat) : Option Nat :=
  let held := s.heldRanges ctx
  let ends := 0 :: held.map (fun r => (r.1 + r.2) % gangMod)
  ((ends.filter (fun b => !held.any (fun r => rangesMeet b n r.1 r.2))).foldl (fun (x : Option Nat) b =>
    match x with | some y => some (min y b) | none => some b) none)

/-! ### Signals (R398) -/

/-- A quad that reads for the agents: quad 0 of the lowest valid virtual die. -/
def State.agentDie (s : State) : Die := s.validDies.headD 0

/-- An agent's access for a context (R39, R390). -/
def State.agentReq (s : State) (ctx : BitVec 12) (slot : Slot) (kind : AccessKind) : Xreq := engineReq ctx slot s.agentDie 0 kind

/-- A completion signal performed (R398): whether it is over. One at a peer is awaited, and one that faults is recorded in the field records. The
agent has no other answer in hand. -/
def State.signal (s : State) (key : AgentKey) (ctx : BitVec 12) (slot : Slot) (a : W64) (status : Nat) : State × Bool :=
  let bad := fun (s : State) => ({ s.endScript key with records := { s.records with sigfault := bumpRec s.records.sigfault } }, true)
  if a == 0 || lpAddrBad a 8 then (s, true)
  else if s.peerReqs.any (fun r => r.agent == some key) then (s, false)
  else
    match s.scripts.find? (fun e => e.1 == key) with
    | some (_, _, some _) => (s.endScript key, true)
    | some (_, _, none) => bad s
    | none =>
      match s.agent key (s.agentReq ctx slot .write) none a 8 (.atomic true 0 (BitVec.ofNat 64 (1 + status * 2 ^ 32))) 8 with
      | (s1, .wait) => (s1, false)
      | (s1, .ok _) => (s1, true)
      | (s1, .bad _) => bad s1

/-! ### Taking entries (R389, R390, R393) -/

/-- The virtual address of a launch queue's ring header. -/
def State.lqHeader (s : State) (n : BitVec 6) : W64 := BitVec.ofNat 64 (field (s.reg (.lqhdr n)) 56 6 * 64)

/-- The context of a launch queue. -/
def State.lqCtx (s : State) (n : BitVec 6) : BitVec 12 := BitVec.ofNat 12 (field (s.reg (.lqctl n)) 25 14)

/-- The agents' request for a launch queue. -/
def State.lqReq (s : State) (n : BitVec 6) (kind : AccessKind) : Xreq :=
  s.agentReq (s.lqCtx n) ((s.slotOf (s.lqCtx n)).getD 0) kind

/-- A launch queue halted with no record, since its ring header cannot be written (R390). -/
def State.lqLost (s : State) (n : BitVec 6) : State := (s.setRegField (.lqctl n) 30 30 1).setRegField (.lqctl n) 27 27 1

/-- A fault on the read of a launch queue's ring, of the header (stage 0) or of an entry or tag (stage 1), or on the record of its halt (R390): posted
to the agent's firmware slot, or a halt. -/
def State.lqFault (s : State) (n : BitVec 6) (stage : Nat) (f : AFault) (a : W64) : State :=
  if f.posts then
    let q := s.lqReq n .read
    let (s1, id) := s.postFault q.die q.quad 0 0 q.ctx q.slot f a
    { s1 with queueWaits := s1.queueWaits.filter (fun x => !(x.die.isNone && x.queue == n)) ++ [⟨none, n, id, stage⟩] }
  else s.lqLost n

/-- The halt of a launch queue (R390), with its record in the header. -/
def State.lqHalt (s : State) (n : BitVec 6) (code : Nat) (index : Nat) : State :=
  let key := AgentKey.launchQueue n
  match s.haltRecord key (s.lqReq n .write) (s.lqHeader n) code index with
  | (s1, .wait) => s1
  | (s1, .ok _) => (s1.endScript key).setRegField (.lqctl n) 30 30 1
  | (s1, .bad f) => (s1.endScript key).lqFault n 0 f (s.lqHeader n)

/-- The wait of a launch queue for an answer. -/
def State.lqWait (s : State) (n : BitVec 6) : Option QueueWait := s.queueWaits.find? (fun w => w.die.isNone && w.queue == n)

/-- The wait of a launch queue is over. -/
def State.lqResume (s : State) (n : BitVec 6) (w : QueueWait) : State :=
  { s.dropPost w.post with queueWaits := (s.dropPost w.post).queueWaits.filter (fun x => !(x.die.isNone && x.queue == n)) }

/-- The header of a launch queue's ring read: what follows, unless the agents wait for it or it faults. -/
def State.lqRing (s : State) (n : BitVec 6) (k : List Byte → State → State) : State :=
  let key := AgentKey.launchQueue n
  match s.agent key (s.lqReq n .read) none (s.lqHeader n) 64 (.read 64) 64 with
  | (s1, .wait) => s1
  | (s1, .bad f) => (s1.endScript key).lqFault n 0 f (s.lqHeader n)
  | (s1, .ok bs) => k bs s1

/-- A read of the ring's entries and tags: what follows, unless the agents wait for it or it faults. -/
def State.lqStep (s : State) (n : BitVec 6) (index : Nat) (a : W64) (align size : Nat) (k : List Byte → State → State) : State :=
  let key := AgentKey.launchQueue n
  match s.agent key (s.lqReq n .read) none a align (.read size) size with
  | (s1, .wait) => s1
  | (s1, .ok bs) => k bs s1
  | (s1, .bad f) => if f.posts then (s1.endScript key).lqFault n 1 f a else s1.lqHalt n 3 index

/-- The entry in hand of a queue changed. -/
def State.modTaken (s : State) (n : BitVec 6) (f : LaunchTaken → LaunchTaken) : State :=
  { s with taken := s.taken.map (fun t => if t.queue == n then f t else t) }

/-- A fault of an entry in hand posted (R390): of a structure, or of its ring's header. -/
def State.takenPost (s : State) (t : LaunchTaken) (f : AFault) (a : W64) (status : Nat) : State :=
  let q := s.agentReq t.ctx t.slot .read
  let (s1, id) := s.postFault q.die q.quad 0 0 q.ctx q.slot f a
  s1.modTaken t.queue (fun x => { x with post := some id, unfixable := status })

/-- An entry taken off its ring and released (R106, R389). -/
def State.lqRelease (s : State) (t : LaunchTaken) : State :=
  let key := AgentKey.launchQueue t.queue
  let q := s.agentReq t.ctx t.slot .write
  let next := Access.write (leBytes 8 (t.index + 1))
  let bad := fun (s : State) (f : AFault) (a : W64) =>
    if f.posts then (s.endScript key).takenPost t f a 0 else (s.endScript key).lqLost t.queue
  if (s.reg (.lqctl t.queue)).getLsbD 27 then s
  else
    match s.agent key q none (t.header + 8) 8 next 8 with
    | (s1, .wait) => s1
    | (s1, .bad f) => bad s1 f (t.header + 8)
    | (s1, .ok _) =>
      match s1.agent key q none (t.header + 16) 8 next 8 with
      | (s2, .wait) => s2
      | (s2, .bad f) => bad s2 f (t.header + 16)
      | (s2, .ok _) => { s2.endScript key with taken := (s2.endScript key).taken.filter (fun x => x.queue != t.queue) }

/-- The launches in ascending ticket order, with one more. -/
def insertLaunch (l : Launch) : List Launch → List Launch
  | [] => [l]
  | x :: xs => if l.ticket.toNat < x.ticket.toNat then l :: x :: xs else x :: insertLaunch l xs

/-- The launch accepted (R393): ticket, base and table entry; a co-resident launch takes a launch-barrier counter (R384). None while no table
entry, base or counter is free. -/
def State.accept (s : State) (t : LaunchTaken) (k : Kernel) (roles : List W64) (nodes : List Node) : Option State :=
  let count := field (lpGangs t.packet) 23 0
  match s.lowestBase t.ctx count with
  | none => none
  | some b =>
    if decide (256 ≤ s.launches.length) || (k.lbar && decide (64 ≤ s.lbars.length)) then none
    else
      some { s with
        ticketNext := s.ticketNext + 1
        launches := s.launches ++ [{
          ticket := s.ticketNext, queue := t.queue, ctx := t.ctx, slot := t.slot, packet := t.packet, kernel := k, roles := roles, n := count
          next := 0, base := b, retired := 0, nodeGangs := 0, status := 0, lastOn := [], deferred := none, room := 0, waits := [], acks := []
          nodes := nodes, post := none, closing := none }]
        lbars := if k.lbar then s.lbars ++ [(s.ticketNext, ⟨0, 0, 0⟩)] else s.lbars }

/-- The signal of a refused launch or a NOP performed, and then its entry released (R393, R398). -/
def State.lqSignal (s : State) (t : LaunchTaken) (status : Nat) : State :=
  let s1 := s.modTaken t.queue (fun x => { x with status := some status })
  match s1.signal (.launchQueue t.queue) t.ctx t.slot (lpSignal t.packet) status with
  | (s2, true) => (s2.modTaken t.queue (fun x => { x with finished := true })).lqRelease t
  | (s2, false) => s2

/-- An entry in hand: refused, complete as a NOP, or accepted (R393, R398). -/
def State.lqEntry (s : State) (t : LaunchTaken) : State :=
  let key := AgentKey.launchQueue t.queue
  if t.finished then s.lqRelease t
  else
    match t.status with
    | some status => s.lqSignal t status
    | none =>
      if s.launchBad t.packet then s.lqSignal t 1
      else if lpKind t.packet == 0 then s.lqSignal t 0
      else
        match launchStructures key (s.agentReq t.ctx t.slot .read) t.packet s with
        | (s1, .hold) => s1
        | (s1, .wait f a status) => (s1.endScript key).takenPost t f a status
        | (s1, .refused status) => (s1.endScript key).lqSignal t status
        | (s1, .ok k roles nodes) =>
          match s1.accept t k roles nodes with
          | some s2 => ((s2.endScript key).modTaken t.queue (fun x => { x with finished := true })).lqRelease t
          | none => s1.endScript key

/-- An entry in hand goes on, once the fault it waits for is answered (R390). -/
def State.lqGo (s : State) (t : LaunchTaken) : State :=
  match t.post with
  | none => s.lqEntry t
  | some p =>
    if !s.answered p then s
    else
      let s1 := (s.dropPost p).modTaken t.queue (fun x => { x with post := none })
      if s.postState p == .fixed then s1.lqEntry { t with post := none }
      else if t.finished then s1.lqLost t.queue
      else s1.lqSignal { t with post := none } t.unfixable

/-- The entry at ACQUIRE read, or a monitor armed on its tag (R389). -/
def State.lqTake (s : State) (n : BitVec 6) : State :=
  let key := AgentKey.launchQueue n
  let q := s.lqReq n .read
  s.lqRing n (fun bs s1 =>
    let index := bytesAt bs 8 8
    match ringOf 0 bs with
    | none => s1.lqHalt n 8 index
    | some r =>
      if r.cq || r.logsz != 6 || decide (16 < r.logn) then s1.lqHalt n 8 index
      else
        s1.lqStep n index (r.tag index) 4 4 (fun tag s2 =>
          if leNat tag != tagOf index then
            if (s2.reg (.lqctl n)).getLsbD 0 then (s2.endScript key).armAgent key q (r.tag index) false 1 (BitVec.ofNat 64 (leNat tag))
            else s2.endScript key
          else
            s2.lqStep n index (r.entry index) 64 64 (fun p s3 =>
              let t : LaunchTaken := { queue := n, ctx := q.ctx, slot := q.slot, header := s.lqHeader n, index := index, packet := p, post := none
                                       unfixable := 0, status := none, finished := false }
              ({ s3.endScript key with taken := (s3.endScript key).taken ++ [t] } : State).lqEntry t)))

/-- The agents have an entry of the queue in hand, or are reading its ring at a peer. -/
def State.lqBusy (s : State) (n : BitVec 6) : Bool := s.taken.any (fun t => t.queue == n) || s.agentBusy (.launchQueue n)

/-- A write that cleared EN is complete once the queue's entry in hand is released (R108, R390). -/
def State.lqSettle (s : State) (n : BitVec 6) : State :=
  if (s.reg (.lqctl n)).getLsbD 0 || s.lqBusy n then s else { s with pendingWrites := s.pendingWrites.filter (· != .lqctl n) }

/-- Launch entry take (R389, R390, R393): from a queue that is enabled and not halted, while the launch table has room; one entry of a queue is
in hand at a time. -/
def execLaunchEntryTake (n : BitVec 6) (s0 : State) : Host.Outcome State Fault Refusal :=
  let r := s0.reg (.lqctl n)
  let s := s0.workFor (s0.lqCtx n) none s0.agentDie
  match s.taken.find? (fun t => t.queue == n) with
  | some t => .next (((s.workFor t.ctx none s.agentDie).lqGo t).lqSettle n)
  | none =>
    if s.validDies.isEmpty || !(r.getLsbD 0 || s.agentBusy (.launchQueue n)) || r.getLsbD 30
        || s.isArmed (AgentKey.who (s.lqCtx n) (.launchQueue n)) || decide (256 ≤ s.launches.length + s.taken.length) then .next s
    else
      match s.lqWait n with
      | none => .next ((s.lqTake n).lqSettle n)
      | some w =>
        if !s.answered w.post then .next s
        else if s.postState w.post == .fixed then .next (((s.lqResume n w).lqTake n).lqSettle n)
        else if w.stage == 0 then .next ((s.lqResume n w).lqLost n)
        else
          .next (s.lqRing n (fun bs s1 =>
            let s2 := s1.lqHalt n 3 (bytesAt bs 8 8)
            if (s2.reg (.lqctl n)).getLsbD 30 then s2.lqResume n w else s2))

/-! ### Room for a gang (R378, R90) -/

/-- The user strands that hold a slot of a core: one that has ended has freed it (R251). -/
def State.userStrands (s : State) (c : CoreId) : List Strand :=
  s.strands.filter (fun st => st.core == c && !st.isFirmware && st.state != .ended)

/-- The register rows taken on a core (R122). -/
def State.rowsUsed (s : State) (c : CoreId) : Nat := (s.userStrands c).foldl (fun n st => n + rowsFor st.allotment) 0

/-- The cores of a quad that hold a workgroup, lowest first, as many as the gang has workgroups. -/
def State.coresFor (s : State) (d : Die) (q : Quad) (k : Kernel) : Option (List (BitVec 2)) :=
  let fit := ((List.range 4).map (BitVec.ofNat 2)).filter (fun c =>
    decide ((s.userStrands ⟨d, q, c⟩).length + k.strands ≤ 512)
      && decide (s.rowsUsed ⟨d, q, c⟩ + k.strands * rowsFor k.vregs ≤ 24508))
  if k.wgs ≤ fit.length then some (fit.take k.wgs) else none

/-- The valid runs of a vault's allocation table: base and size. -/
def State.vatRuns (s : State) (d : Die) (q : Quad) : List (Nat × Nat) :=
  ((List.range 32).map (fun n => s.reg (.vat d q (BitVec.ofNat 5 n)))).filterMap (fun (r : W64) =>
    if r.getLsbD 31 then some (field r 7 0, field r 16 8) else none)

/-- The lowest free run of a vault and a free entry of its table (R90). -/
def State.vaultRun (s : State) (d : Die) (q : Quad) (size : Nat) : Option (BitVec 5 × Nat) :=
  let runs := s.vatRuns d q
  match ((List.range 32).map (BitVec.ofNat 5)).find? (fun n => !(s.reg (.vat d q n)).getLsbD 31),
      (List.range (257 - size)).find? (fun b => !runs.any (fun r => overlaps b size r.1 r.2)) with
  | some n, some b => some (n, b)
  | _, _ => none

/-- Where a gang of a kernel fits on a quad (R378): its cores, and its vault run. A die that is warm reset takes none (R466). -/
def State.fits (s : State) (slot : Slot) (ctx : BitVec 12) (d : Die) (q : Quad) (k : Kernel) :
    Option (List (BitVec 2) × Option (BitVec 5 × Nat)) :=
  if !s.dieValid d || s.dieReset == some d || s.deadDies.contains d || (s.rootOf slot ctx).isNone || s.ctxHeld.contains ctx then none
  else
    match s.coresFor d q k with
    | none => none
    | some cs =>
      if k.vault == 0 then some (cs, none)
      else
        match s.vaultRun d q k.vault with
        | some v => some (cs, some v)
        | none => none

/-! ### Placing a gang (R132, R134, R380) -/

/-- A role word as it is stored (R132); its reserved field reads as zero (R4). -/
def storedRole (l : Launch) (index : Option Nat) (w : W64) : W64 :=
  match field w 63 60 with
  | 1 | 3 | 4 | 5 => setField w 59 24 0
  | 2 =>
    match index with
    | none => 0
    | some i =>
      let j : Int := i + (w.extractLsb' 0 24).toInt
      if 0 ≤ j ∧ j < field (lpGangs l.packet) 23 0 then BitVec.ofNat 64 (2 ^ 60 + (l.base + j.toNat) % gangMod) else 0
  | _ => 0

/-- The free strand slots of a core, lowest first. -/
def State.freeSlots (s : State) (c : CoreId) : List Nat :=
  (List.range 512).filter (fun n => !(s.userStrands c).any (fun st => st.slot == n))

/-- The strands of one workgroup of a gang at their start (R134, R380). -/
def State.newStrands (s : State) (g : Gang) (wg : Nat) (c : CoreId) : List Strand :=
  ((List.range g.kernel.strands).zip (s.freeSlots c)).map (fun x =>
    let sr := SysRegs.start .user (s.reg (.hndbase g.ctxSlot)) (s.reg (.sysmap g.ctxSlot))
    let st := Strand.start ⟨g.ctx, g.gang, BitVec.ofNat 2 wg, BitVec.ofNat 9 x.1⟩ g.ctxSlot c x.2 g.kernel.vregs
      (g.kernel.header + BitVec.ofNat 64 g.kernel.entry) g.kernel.preload sr
    { st with leaseDecl := g.kernel.lease != 0, leaseLines := g.kernel.lease, waitSince := s.cycle })

/-- The bytes of a run of a vault's 64 KiB units zeroed (R92): each word has a new code. -/
def State.zeroVault (s : State) (d : Die) (q : Quad) (base size : Nat) : State :=
  let a := Config.vaultAddr d q (base * 65536)
  { s with
    mem := s.mem.zero a (size * 65536)
    vaultUpsets := s.vaultUpsets.filter (fun (u : Nat × Bool) => !overlaps u.1 32 a (size * 65536)) }

/-- The vault allocation of a gang: the table entry written, and the run zero (R90, R92). -/
def State.takeVault (s : State) (ctx : BitVec 12) (d : Die) (q : Quad) (size : Nat) (v : Option (BitVec 5 × Nat)) : State :=
  match v with
  | none => s
  | some (n, b) =>
    (s.setReg (.vat d q n) (BitVec.ofNat 64 (2 ^ 31 + ctx.toNat * 2 ^ 17 + size * 2 ^ 8 + b))).zeroVault d q b size

/-- The launch counter registers the strands of a gang (R382). -/
def State.registerLaunch (s : State) (ticket : W64) (n : Nat) : State :=
  { s with lbars := s.lbars.map (fun e => if e.1 == ticket then (e.1, { e.2 with registered := e.2.registered + n }) else e) }

/-- The strands of a gang placed, and the ray format tables of its cores loaded (R318). -/
def State.putGang (s : State) (g : Gang) (vault : Option (BitVec 5 × Nat)) : State :=
  let s1 := s.takeVault g.ctx g.die g.quad g.kernel.vault vault
  let fresh := ((List.range g.cores.length).zip g.cores).foldr (fun x l => s1.newStrands g x.1 ⟨g.die, g.quad, x.2⟩ ++ l) []
  let s2 : State := { s1 with gangs := s1.gangs ++ [g], strands := s1.strands ++ fresh }
  let s3 := (s2.registerLaunch g.ticket fresh.length).paidBy g.ctx g.gang g.die
  g.cores.foldl (fun (s : State) c =>
    if (s.rayTable ⟨g.die, g.quad, c⟩ g.ctx).isNone then s.loadRayTable ⟨g.die, g.quad, c⟩ g.ctx g.ctxSlot else s) s3

/-- A gang of a launch at its placement. -/
def newGang (l : Launch) (number index : Nat) (node : Bool) (k : Kernel) (roles : List W64) (d : Die) (q : Quad) (cores : List (BitVec 2))
    (vault : Option (BitVec 5 × Nat)) : Gang where
  ctx := l.ctx
  ctxSlot := l.slot
  gang := BitVec.ofNat 24 number
  index := index
  ticket := l.ticket
  die := d
  quad := q
  cores := cores
  kernel := k
  roles := roles.map (storedRole l (if node then none else some index))
  vat := vault.map (·.1)
  accMap := List.replicate 8 none
  wgBars := List.replicate k.wgs ⟨k.strands, 0, 0⟩
  regroups := List.replicate k.wgs ⟨k.strands, 0, 0⟩
  gangBar := ⟨k.strands * k.wgs, 0, 0⟩
  isNode := node
  frozen := false
  firstAt := 0

/-- A launch of the table changed. -/
def State.modLaunch (s : State) (ticket : W64) (f : Launch → Launch) : State :=
  { s with launches := s.launches.map (fun l => if l.ticket == ticket then f l else l) }

/-- Every L1 line and instruction/constant line of a context invalidated in the package (R101, R392). -/
def State.invalidateCtx (s : State) (ctx : BitVec 12) : State :=
  (s.l1Drop (fun _ x _ => x == ctx)).icDrop (fun _ _ x _ => x == ctx)

/-- The acquire fence before the first gang of a launch (R392). -/
def State.launchFence (s : State) (l : Launch) : State := if lpAcq l.packet && l.next == 0 then s.invalidateCtx l.ctx else s

/-- The next gang of a launch placed on a quad; its strands may first issue from a cycle on. -/
def State.placeNext (s : State) (l : Launch) (d : Die) (q : Quad) (cores : List (BitVec 2)) (vault : Option (BitVec 5 × Nat)) (firstAt : Nat) : State :=
  let g := { newGang l ((l.base + l.next) % gangMod) l.next false l.kernel l.roles d q cores vault with firstAt := firstAt }
  (((s.launchFence l).putGang g vault).endScript (.launch l.ticket)).modLaunch l.ticket (fun x => { x with
    next := x.next + 1
    lastOn := x.lastOn.set d.toNat s.cycle })

/-! ### Budgets (R402, R403) -/

/-- REMAIN of a queue. -/
def State.remain (s : State) (n : BitVec 6) : Int := (s.reg (.lqbud n)).toInt

/-- The queue's budget is enforced and gone (R403). -/
def State.exhausted (s : State) (n : BitVec 6) : Bool := (s.reg (.lqctl n)).getLsbD 28 && decide (s.remain n ≤ 0)

/-- The queue that a strand's work is charged to. -/
def State.queueOf (s : State) (st : Strand) : Option (BitVec 6) :=
  (s.gangOf st).bind (fun g => (s.launches.find? (fun l => l.ticket == g.ticket)).map (·.queue))

/-- The strand is held by its queue's budget (R403). -/
def State.budgetHeld (s : State) (st : Strand) : Bool := match s.queueOf st with | some n => s.exhausted n | none => false

/-- EXH set and the strands of the queue's launches held, while the budget is gone (R403). -/
def State.exhaust (s : State) (n : BitVec 6) : State :=
  if !s.exhausted n then s
  else
    let s1 := s.setRegField (.lqctl n) 29 29 1
    (s1.strandsWhere (fun st => st.state == .active && s1.queueOf st == some n)).foldl (fun s i => s.dropStrand i .drop) s1

/-- Joule charge (R402): the `n`-th charge under way is subtracted from its queue's REMAIN. -/
def execJouleCharge (n : Nat) (s : State) : Host.Outcome State Fault Refusal :=
  match s.charges[n]? with
  | none => .next s
  | some c =>
    let s1 : State := { s with charges := s.charges.eraseIdx n }
    .next ((s1.setReg (.lqbud c.queue) (s1.reg (.lqbud c.queue) - BitVec.ofNat 64 c.amount)).exhaust c.queue)

/-- Core cycles in a number of nanoseconds at the clock in force. -/
def State.cyclesOf (s : State) (ns : Nat) : Nat := ns * s.clock / 20

/-- Budget refill (R403): a PERIOD after the last. -/
def execBudgetRefill (n : BitVec 6) (s : State) : Host.Outcome State Fault Refusal :=
  let r := s.reg (.lqref n)
  let period := field r 63 48
  if period == 0 then .next s
  else
    let now := max s.cycle (s.refills.get 0 n.toNat + s.cyclesOf (period * 1000))
    let amount : Int := field r 47 0 * 1000000
    let s1 : State := { s with cycle := now, refills := s.refills.set n.toNat now }
    .next ((s1.setReg (.lqbud n) (BitVec.ofInt 64 (min (s1.remain n + amount) (2 * amount)))).exhaust n)

/-! ### Headroom (R394) -/

/-- A charge rate in quarter-watts: the charges of 1,000 cycles at the clock in force; how it rounds is left open. -/
def rateOf (fj clock : Nat) (up : Bool) : Nat :=
  let num := fj * clock
  let den := 5000000000
  if up then (num + den - 1) / den else num / den

/-- The next gang of a launch fits some quad of the die (R394). -/
def State.roomOn (s : State) (l : Launch) (d : Die) : Bool :=
  decide (l.next < l.n) && (List.range 16).any (fun q => (s.fits l.slot l.ctx d (BitVec.ofNat 4 q) l.kernel).isSome)

/-- Head publish (R394): 1,000 cycles after the last, HEAD and the free-room bits of a die. -/
def execHeadPublish (die : Die) (s : State) : Host.Outcome State Fault Refusal :=
  if !s.dieValid die then .next s
  else
    let now := max s.cycle (s.headAt.get 0 die.toNat + 1000)
    let (up, s0) := ({ s with cycle := now } : State).freeBool
    let limit := field (s0.reg (.head die)) 31 16
    let head := limit - rateOf (s0.dieCharges.get 0 die.toNat) s0.clock up
    let s1 := s0.setRegField (.head die) 15 0 head
    .next { s1 with
      dieCharges := s1.dieCharges.set die.toNat 0
      headAt := s1.headAt.set die.toNat now
      launches := s1.launches.map (fun (l : Launch) => { l with room := setField l.room die.toNat die.toNat (if s1.roomOn l die then 1 else 0) }) }

/-! ### The agents' loop (R395) -/

/-- HEAD of a die. -/
def State.headOf (s : State) (d : Die) : Nat := field (s.reg (.head d)) 15 0

/-- An earlier launch of the same queue has not signalled. -/
def State.ordWaits (s : State) (l : Launch) : Bool :=
  lpOrd l.packet && s.launches.any (fun x => x.queue == l.queue && decide (x.ticket.toNat < l.ticket.toNat))

/-- Some other allowed die has free room and more headroom (R395). -/
def State.betterDie (s : State) (l : Launch) (d : Die) : Bool :=
  (s.launchDies l.packet).any (fun e =>
    e != d && l.room.getLsbD e.toNat
      && (decide (s.headOf d < s.headOf e) || (s.headOf e == s.headOf d && decide (e.toNat < d.toNat))))

/-- What the agent finds of a launch: nothing for this quad, or a change of state. -/
inductive Visit where
  | pass (s : State)
  | acted (s : State)

/-- The affinity byte of the next gang (R395): the die wanted, or the state while it cannot be read or is invalid. -/
def State.affinity (s : State) (l : Launch) (d : Die) (q : Quad) : State × Option Die :=
  let fail := fun (s : State) => (s.modLaunch l.ticket (fun x => { x with status := 6, n := x.next, post := none }) |>.endScript (.launch l.ticket), none)
  let read := fun (s : State) =>
    let a := lpAfftab l.packet + BitVec.ofNat 64 l.next
    match s.agent (.launch l.ticket) (engineReq l.ctx l.slot d q .read) none a 1 (.read 1) 1 with
    | (s1, .wait) => (s1, none)
    | (s1, .ok bs) =>
      let b := leNat bs
      if b < 4 ∧ s1.dieValid (BitVec.ofNat 2 b) then (s1.modLaunch l.ticket (fun x => { x with post := none }), some (BitVec.ofNat 2 b))
      else fail s1
    | (s1, .bad f) =>
      if f.posts then
        let (s2, id) := (s1.endScript (.launch l.ticket)).postFault d q 0 0 l.ctx l.slot f a
        (s2.modLaunch l.ticket (fun x => { x with post := some id }), none)
      else fail s1
  match l.post with
  | none => read s
  | some p => if !s.answered p then (s, none) else if s.postState p == .fixed then read (s.dropPost p) else fail (s.dropPost p)

/-- The next gang of a launch placed on the quad, where it fits (R378). -/
def State.tryPlace (s : State) (l : Launch) (d : Die) (q : Quad) : Visit :=
  if l.lastOn.any (fun e => e.1 == d.toNat) && decide (s.cycle < l.lastOn.get 0 d.toNat + field (lpStagger l.packet) 15 0) then .pass s
  else
    match s.fits l.slot l.ctx d q l.kernel with
    | some (cs, v) => .acted (s.placeNext l d q cs v 0)
    | none => .pass s

/-- One launch visited by the agent of a quad. -/
def State.visitRoot (s0 : State) (l : Launch) (d : Die) (q : Quad) : Visit :=
  let s := s0.workFor l.ctx none d
  if l.n ≤ l.next || l.closing.isSome || l.kernel.lbar || s.ordWaits l || (s.exhausted l.queue || ((s.reg (.lqctl l.queue)).getLsbD 29
      && (s.reg (.lqctl l.queue)).getLsbD 28)) then .pass s
  else if lpAff l.packet == 1 then
    match s.affinity l d q with
    | (s1, some w) => if w == d then s1.tryPlace l d q else .pass s1
    | (s1, none) => .pass s1
  else if !(s.launchDies l.packet).contains d then .pass s
  else if s.betterDie l d && (match l.deferred with | some t => decide (s.cycle < t + 4000) | none => true) then
    .pass (if l.deferred.isNone then s.modLaunch l.ticket (fun x => { x with deferred := some s.cycle }) else s)
  else s.tryPlace l d q

/-! ### Node gangs (R400, R401) -/

/-- The records of a node that wait. -/
def Node.pending (x : Node) : Nat := x.appended - x.taken

/-- A full set of records. -/
def Node.fullSet (x : Node) : Nat := x.kernel.strands * 32

/-- A node of a launch changed. -/
def State.modNode (s : State) (ticket : W64) (k : Nat) (f : Node → Node) : State :=
  s.modLaunch ticket (fun l => { l with nodes := match l.nodes[k]? with | some x => l.nodes.set k (f x) | none => l.nodes })

/-- The address of the k-th record appended to a node. -/
def Node.recordAt (x : Node) (k : Nat) : W64 := x.buf + BitVec.ofNat 64 (k % x.cap * (4 * x.kernel.nodeWords))

/-- Records of a node read in append order. -/
def readRecords (key : AgentKey) (q : Xreq) (x : Node) : Nat → Nat → State → State × Reading (List (List Nat))
  | 0, _, s => (s, .ok [])
  | n + 1, k, s =>
    readThen (readWords key q (x.recordAt k) (wordOffsets x.kernel.nodeWords) s) (fun r s1 =>
      readThen (readRecords key q x n (k + 1) s1) (fun rs s2 => (s2, .ok (r :: rs))))

/-- The strands of a node gang receive their records (R401). -/
def nodeStrand (words : Nat) (recs : List (List Nat)) (st : Strand) : Strand :=
  let mine := (recs.drop (st.who.widx.toNat * 32)).take 32
  let live := buildMask (fun j => decide (j < mine.length))
  { st with
    live := live
    m := tabSet 8 st.m 0 live 0
    v := (List.range st.v.length).map (fun r =>
      if r < words then buildRow (fun j => BitVec.ofNat 32 ((mine.getD j []).getD r 0)) else st.v.getD r []) }

/-- Strands parked in `emit` issue it again. -/
def State.emitWake (s : State) (ticket : W64) : State :=
  (s.strandsWhere (fun st => st.park == some .emit
    && (match s.gangOf st with | some g => g.ticket == ticket | none => false))).foldl (fun s i =>
      s.modStrand i (fun x => x.reissueWait s.cycle)) s

/-- The number of a node gang: the lowest that no accepted gang of the context holds. -/
def State.nodeNumber (s : State) (ctx : BitVec 12) : Option Nat := s.lowestBase ctx 1

/-- The kernel of a node gang over `r` records (R401). -/
def Node.kernelFor (x : Node) (r : Nat) : Kernel := { x.kernel with strands := (r + 31) / 32 }

/-- As many strands of a node gang as the quad holds, at most so many. -/
def State.nodeFits (s : State) (l : Launch) (x : Node) (d : Die) (q : Quad) : Nat → Option (Nat × List (BitVec 2) × Option (BitVec 5 × Nat))
  | 0 => none
  | k + 1 =>
    match s.fits l.slot l.ctx d q (x.kernelFor (32 * (k + 1))) with
    | some f => some (k + 1, f)
    | none => s.nodeFits l x d q k

/-- The die takes node gangs of a launch: it is one that DMASK allows, or none of those has room for a strand, and R401 promises the launch a free slot
on any core of the package. -/
def State.nodeDie (s : State) (l : Launch) (x : Node) (d : Die) : Bool :=
  (s.launchDies l.packet).contains d
    || !(s.launchDies l.packet).any (fun e => (List.range 16).any (fun q => (s.nodeFits l x e (BitVec.ofNat 4 q) 1).isSome))

/-- A node launch of a launch's k-th node on the quad (R401), where its records are due, over as many of them as its quad holds strands for. -/
def State.visitNode (s0 : State) (l : Launch) (k : Nat) (x : Node) (d : Die) (q : Quad) : Visit :=
  let s := s0.workFor l.ctx none d
  let key := AgentKey.launch l.ticket
  let want := min x.pending x.fullSet
  if want == 0 || !(x.due || decide (x.fullSet ≤ x.pending)) || l.closing.isSome || s.exhausted l.queue || !s.nodeDie l x d then .pass s
  else
    match s.nodeFits l x d q ((want + 31) / 32), s.nodeNumber l.ctx with
    | some (n, cs, v), some number =>
      let r := min want (32 * n)
      (match (match l.post with | none => some s | some p => if s.answered p then some (s.dropPost p) else none) with
      | none => .pass s
      | some s0 =>
        let lost : Bool := match l.post with | some p => s.postState p == .unfixable | none => false
        let fail := fun (s : State) => (s.endScript key).modLaunch l.ticket (fun y => { y with
          status := 7, n := y.next, post := none, nodes := y.nodes.map (fun (z : Node) => { z with taken := z.appended, due := false }) })
        if lost then .acted (fail s0)
        else
          match readRecords key (engineReq l.ctx l.slot d q .read) x r x.taken (s0.modLaunch l.ticket (fun y => { y with post := none })) with
          | (s1, .hold) => .acted s1
          | (s1, .bad) => .acted (fail s1)
          | (s1, .wait f a) =>
            let (s2, id) := (s1.endScript key).postFault d q 0 0 l.ctx l.slot f a
            .acted (s2.modLaunch l.ticket (fun y => { y with post := some id }))
          | (s1, .ok recs) =>
            let g := newGang l number 0 true (x.kernelFor r) x.roles d q cs v
            let s2 := (s1.endScript key).putGang g v
            let s3 : State := { s2 with strands := s2.strands.map (fun (st : Strand) =>
              if st.who.ctx == g.ctx && st.who.gang == g.gang then nodeStrand x.kernel.nodeWords recs st else st) }
            let s4 := s3.modLaunch l.ticket (fun y => { y with nodeGangs := y.nodeGangs + 1 })
            .acted ((s4.modNode l.ticket k (fun y => { y with taken := y.taken + r, due := y.due && decide (r < y.pending) })).emitWake l.ticket))
    | _, _ => .pass s

/-- The nodes of a launch visited, lowest first. -/
def visitNodes (ticket : W64) (d : Die) (q : Quad) : List Nat → State → Visit
  | [], s => .pass s
  | k :: ks, s =>
    match s.launches.find? (fun l => l.ticket == ticket) with
    | none => .pass s
    | some l =>
      match l.nodes[k]? with
      | none => .pass s
      | some x =>
        match s.visitNode l k x d q with
        | .acted s1 => .acted s1
        | .pass s1 => visitNodes ticket d q ks s1

/-- The accepted launches visited in ascending ticket order, until a gang is placed (R395). -/
def visitLaunches (d : Die) (q : Quad) : List W64 → State → State
  | [], s => s
  | t :: ts, s =>
    match s.launches.find? (fun l => l.ticket == t) with
    | none => visitLaunches d q ts s
    | some l =>
      match s.visitRoot l d q with
      | .acted s1 => s1
      | .pass s1 =>
        match visitNodes t d q (List.range l.nodes.length) s1 with
        | .acted s2 => s2
        | .pass s2 => visitLaunches d q ts s2

/-- Tickets in ascending order, with one more. -/
def insertTicket (t : W64) : List W64 → List W64
  | [] => [t]
  | x :: xs => if t.toNat < x.toNat then t :: x :: xs else x :: insertTicket t xs

/-- The tickets of the accepted launches, in ascending order. -/
def State.tickets (s : State) : List W64 := s.launches.foldr (fun l ts => insertTicket l.ticket ts) []

/-- No agent of a quad runs: its four firmware slots have stopped (R434). -/
def State.agentsStopped (s : State) (d : Die) (q : Quad) : Bool := (List.range 4).all (fun c => s.stopped.contains ⟨d, q, BitVec.ofNat 2 c⟩)

/-- Gang placement (R395): the agents of a quad run their loop once. -/
def execGangPlacement (die : Die) (q : Quad) (s : State) : Host.Outcome State Fault Refusal :=
  if !s.dieValid die || s.agentsStopped die q then .next s
  else .next (visitLaunches die q s.tickets s)

/-- Node timer expiry (R401): the timer of a node's waiting records lapses, and they are due. -/
def execNodeTimerExpiry (ticket : W64) (node : BitVec 12) (s : State) : Host.Outcome State Fault Refusal :=
  match (s.launches.find? (fun l => l.ticket == ticket)).bind (fun l => l.nodes[node.toNat]?) with
  | none => .next s
  | some x =>
    if x.pending == 0 then .next s
    else
      let s1 : State := { s with cycle := max s.cycle (x.firstAt + s.cyclesOf (x.timer * 500)) }
      .next (s1.modNode ticket node.toNat (fun y => { y with due := true }))

/-! ### Co-resident placement (R384, R396) -/

/-- The gangs of a co-resident launch placed one after another, each on the first quad that holds it of the dies it may take; none when one
cannot be placed. The first issue of the gangs of one die is STAGGER cycles apart (R396). -/
def placeAll (ticket : W64) : List (List Die) → State → Option State
  | [], s => some s
  | dies :: more, s =>
    match s.launches.find? (fun l => l.ticket == ticket) with
    | none => none
    | some l =>
      let quads := dies.flatMap (fun d => (List.range 16).map (fun q => (d, BitVec.ofNat 4 q)))
      match quads.findSome? (fun x => (s.fits l.slot l.ctx x.1 x.2 l.kernel).map (fun f => (x, f))) with
      | none => none
      | some ((d, q), (cs, v)) =>
        let before := (s.gangs.filter (fun g => g.ticket == ticket && g.die == d)).length
        placeAll ticket more (s.placeNext l d q cs v (s.cycle + before * field (lpStagger l.packet) 15 0))

/-- A launch leaves the table once its signal is over (R393, R398); a launch-barrier counter that it still holds is returned. -/
def State.endLaunch (s0 : State) (l : Launch) (status : Nat) : State :=
  let s := if l.closing.isNone then s0.dropScript (.launch l.ticket) else s0
  match s.signal (.launch l.ticket) l.ctx l.slot (lpSignal l.packet) status with
  | (s1, false) => s1.modLaunch l.ticket (fun x => { x with closing := some status })
  | (s1, true) =>
    let s2 := match l.post with | some p => s1.dropPost p | none => s1
    { s2 with
      launches := s2.launches.filter (fun x => x.ticket != l.ticket)
      lbars := s2.lbars.filter (fun e => e.1 != l.ticket) }

/-- The dies that the affinity bytes of a co-resident launch name: none while one is awaited, or when one is invalid (R395, R396). -/
def affinityDies (ticket : W64) : Nat → Nat → State → State × Option (List (List Die))
  | 0, _, s => (s, some [])
  | n + 1, i, s =>
    match s.launches.find? (fun l => l.ticket == ticket) with
    | none => (s, none)
    | some l =>
      match s.affinity { l with next := i } s.agentDie 0 with
      | (s1, some d) =>
        (match affinityDies ticket n (i + 1) s1 with
        | (s2, some ds) => (s2, some ([d] :: ds))
        | (s2, none) => (s2, none))
      | (s1, none) => (s1, none)

/-- Co-resident placement (R384, R396): all gangs of a launch are placed in one step, or the launch is refused with status 3; among waiting
co-resident launches the lowest ticket comes first. -/
def execCoResidentPlacement (ticket : W64) (s0 : State) : Host.Outcome State Fault Refusal :=
  match s0.launches.find? (fun l => l.ticket == ticket) with
  | none => .next s0
  | some l =>
    let s := s0.workFor l.ctx none s0.agentDie
    let earlier := s.launches.any (fun x => x.kernel.lbar && decide (x.next < x.n) && decide (x.ticket.toNat < ticket.toNat))
    if !l.kernel.lbar || l.n ≤ l.next || l.closing.isSome || earlier || s.ordWaits l || s.exhausted l.queue || s.ctxHeld.contains l.ctx then .next s
    else
      match (if lpAff l.packet == 1 then affinityDies ticket l.n 0 s else (s, some (List.replicate l.n (s.launchDies l.packet)))) with
      | (s1, none) => .next s1
      | (s1, some dies) =>
        match placeAll ticket dies s1 with
        | some s2 => .next s2
        | none => .next ((s1.endScript (.launch ticket)).endLaunch l 3)

/-! ### Retirement (R387) -/

/-- A packet names the vault of a gang in SRC or DST, or through the BASE of its ring. -/
def State.packetNames (s : State) (g : Gang) (q : Xreq) (bs : List Byte) : Bool :=
  let p := copyPacket bs
  let names := fun (a : W64) =>
    field a 63 60 == 2
      || (field a 63 60 == 3 && (let r := g.roles.getD (field a 59 56) 0; field r 63 60 == 1 && field r 23 0 == g.gang.toNat))
  names p.src || (if p.ring then
      (match s.readRing q p.dst with | (_, .ok (some r)) => names r.base | _ => false)
    else names p.dst)

/-- A copy packet published by a strand of the gang that names its vault is not complete (R387 step 3). One that no engine has taken is looked at in
its ring, and where that cannot be read here, as its strand published it. -/
def State.vaultPackets (s : State) (g : Gang) : Bool :=
  let mine := fun (w : Who) => w.ctx == g.ctx && w.gang == g.gang
  s.channels.any (fun c => (match c.by_ with | some w => mine w | none => false) && !c.complete && s.packetNames g (c.xreq .read) c.packet)
    || s.handed.any (fun h =>
      mine h.who
        && (let q := s.cqReq h.die h.queue .read
          match s.readRing q (s.cqHeader h.die h.queue) with
          | (s1, .ok (some r)) =>
            (match s1.engineRead q none (r.entry h.index.toNat) 64 64 with
            | (s2, .ok bs) => s2.packetNames g q bs
            | _ => s.packetNames g q h.packet)
          | _ => s.packetNames g q h.packet))

/-- The copy-then-mma packets of a context that name a gang number and are published, taken or not, in a queue that is enabled or not (R392). Of a
ring that cannot be read here, those that strands have published are known. -/
def State.mmaPackets (s : State) (ctx : BitVec 12) (mine : BitVec 24 → Bool) : List (Die × BitVec 6 × W64) :=
  let names := fun (bs : List Byte) => (copyPacket bs).kind == 5 && mine (copyPacket bs).gang
  let held := (s.channels.filter (fun c => c.ctx == ctx && !c.complete && names c.packet)).map (fun c => (c.die, c.queue, c.index))
  let rings := s.validDies.flatMap (fun d => (List.range 64).flatMap (fun k =>
    let n := BitVec.ofNat 6 k
    let r := s.reg (.cqctl d n)
    if field r 25 14 != ctx.toNat then []
    else
      let q := s.cqReq d n .read
      match s.readRing q (s.cqHeader d n) with
      | (_, .ok (some g)) =>
        (List.range (min (2 ^ g.logn) (g.reserve - g.acquire))).filterMap (fun j =>
          let i := g.acquire + j
          match s.engineRead q none (g.tag i) 4 4, s.engineRead q none (g.entry i) 64 64 with
          | (_, .ok t), (_, .ok bs) => if leNat t == tagOf i && names bs then some (d, n, BitVec.ofNat 64 i) else none
          | _, _ => none)
      | _ => []))
  let given := (s.handed.filter (fun h => h.who.ctx == ctx && names h.packet)).map (fun h => (h.die, h.queue, h.index))
  held ++ rings ++ given.filter (fun w => !rings.contains w)

/-- The copy entries that the strands of a gang have published and that are not complete (R392). -/
def State.batchWaits (s : State) (g : Gang) : List (Die × BitVec 6 × W64) :=
  (s.strands.filter (fun st => st.who.ctx == g.ctx && st.who.gang == g.gang)).flatMap (fun st =>
    (st.openBatch.entries ++ st.sealedBatches.flatMap (fun b => match b with | some x => x.entries | none => [])).filterMap (fun e =>
      if e.done then none else some (e.die, e.queue, e.index.setWidth 64)))

/-- The launch counts a gang as retired (R387 step 6, R392, R401); with the last of them its launch-barrier counter is returned (R384). -/
def State.countRetired (s : State) (g : Gang) : State :=
  match s.launches.find? (fun l => l.ticket == g.ticket) with
  | none => s
  | some l =>
    let last := l.n ≤ l.retired + (if g.isNode then 0 else 1)
    let mine := fun (x : BitVec 24) =>
      x == g.gang || (last && decide ((x.toNat + gangMod - l.base) % gangMod < field (lpGangs l.packet) 23 0))
    let more := if lpRel l.packet then s.batchWaits g ++ s.mmaPackets l.ctx mine else []
    let gone := last && !s.gangs.any (fun h => h.ticket == g.ticket && h.gang != g.gang) && !s.swapped.any (fun x => x.2.2 == g.ticket)
    ({ s with lbars := s.lbars.filter (fun e => !(gone && e.1 == g.ticket)) } : State).modLaunch l.ticket (fun x => { x with
      retired := if g.isNode then x.retired else x.retired + 1
      nodeGangs := if g.isNode then x.nodeGangs - 1 else x.nodeGangs
      waits := x.waits ++ more.filter (fun w => !x.waits.contains w) })

/-- A gang's resources freed (R387 step 4): the vault run, the tiles, the slots and the counters; the strands are gone. -/
def State.freeGang (s : State) (g : Gang) : State :=
  let mine := fun (w : Who) => w.ctx == g.ctx && w.gang == g.gang
  let s1 := match g.vat with | some n => s.setReg (.vat g.die g.quad n) 0 | none => s
  let s3 : State := { s1 with
    gangs := s1.gangs.filter (fun h => !(h.ctx == g.ctx && h.gang == g.gang))
    strands := s1.strands.filter (fun st => !mine st.who)
    results := s1.results.filter (fun r => !mine r.who)
    cancels := s1.cancels.filter (fun w => !mine w) }
  { s3 with rayTables := s3.rayTables.filter (fun t =>
      !(t.ctx == g.ctx && t.core.die == g.die && t.core.quad == g.quad
        && !s3.gangs.any (fun h => h.ctx == g.ctx && h.die == g.die && h.quad == g.quad && h.cores.contains t.core.core))) }

/-- The context's L1 lines invalidated in the cores of a gang (R95, R387 step 5). -/
def State.gangLines (s : State) (g : Gang) : State :=
  g.cores.foldl (fun (s : State) c => s.l1InvalidateCtx ⟨g.die, g.quad, c⟩ g.ctx) s

/-- Steps 4 to 6 of a gang's retirement: its resources are freed, its cores' lines go, and the launch counts it. -/
def State.retireGang (s : State) (g : Gang) : State :=
  let mine := fun (w : Who) => w.ctx == g.ctx && w.gang == g.gang
  let s1 := (((s.strands.filter (fun st => mine st.who)).foldl (fun (s : State) st => s.drain st.who) s).countRetired g).freeGang g |>.gangLines g
  { s1 with wakes := s1.wakes.filter (fun w => !mine w.who) }

/-- Gang retirement (R387): the last strand has ended, and the gang's engine work that it waits for is over. -/
def execGangRetirement (ctx : BitVec 12) (gang : BitVec 24) (s : State) : Host.Outcome State Fault Refusal :=
  match s.findGang ctx gang with
  | none => .next s
  | some g =>
    let mine := fun (w : Who) => w.ctx == ctx && w.gang == gang
    if g.frozen || s.strands.any (fun st => mine st.who && st.state != .ended)
        || s.mxEntries.any (fun e => e.ctx == ctx && e.gang == gang) || s.twills.any (fun o => mine o.who) || s.vaultPackets g then .next s
    else .next (s.retireGang g)

/-- Launch completion (R398): every gang has retired, no buffer holds a record, and the work that R392 adds is complete. A launch whose context
slot has been disabled ends with status 4. -/
def execLaunchCompletion (ticket : W64) (s : State) : Host.Outcome State Fault Refusal :=
  match s.launches.find? (fun l => l.ticket == ticket) with
  | none => .next s
  | some l =>
    let resident := s.gangs.any (fun g => g.ticket == ticket) || s.swapped.any (fun x => x.2.2 == ticket)
    let far := field (lpCtl l.packet) 9 7 == 4
    if let some status := l.closing then .next (s.endLaunch l status)
    else if (s.rootOf l.slot l.ctx).isNone && !resident then .next (s.endLaunch l 4)
    else if decide (l.next < l.n) || resident || l.nodeGangs != 0 || l.nodes.any (fun x => x.pending != 0) || !l.waits.isEmpty
        || (far && s.peerReqs.any (fun r => r.posted
          && (match r.who, r.engine with
            | some w, _ => w.ctx == l.ctx && (s.findStrand w).isNone
            | none, some (c, _, _) => l.acks.contains c
            | none, none => false))) then .next s
    else .next (s.endLaunch l l.status)

/-! ### The launch queue registers (R390) -/

/-- LQCTLn write (R390). A write that clears EN is complete once the entry in hand is released; while the agents read the ring at a peer it leaves CTX
as it was (log entry 61). -/
def execLqctlWrite (n : BitVec 6) (v : Word) (s : State) : Host.Outcome State Fault Refusal :=
  let r := s.reg (.lqctl n)
  let same := field v 25 14 == field r 25 14 && v.getLsbD 28 == r.getLsbD 28 && v.getLsbD 0 == r.getLsbD 0
  let enable := v.getLsbD 0 && !r.getLsbD 0
  let refused := v.getLsbD 26 || field v 13 1 != 0 || (r.getLsbD 0 && v.getLsbD 0 && !same)
    || (enable && (s.slotOf (BitVec.ofNat 12 (field v 25 14))).isNone)
  if s.pendingWrites.contains (.lqctl n) then .next s
  else if refused then .next (s.setRegField (.lqctl n) 31 31 1)
  else
    let busy := s.agentBusy (.launchQueue n)
    let keep := fun (b : Nat) => if v.getLsbD b then 0 else field r b b
    let hdrf := if v.getLsbD 27 || v.getLsbD 30 then 0 else field r 27 27
    let s1 := s.setReg (.lqctl n) (BitVec.ofNat 64 (keep 31 * 2 ^ 31 + keep 30 * 2 ^ 30 + keep 29 * 2 ^ 29 + field v 28 28 * 2 ^ 28
      + hdrf * 2 ^ 27 + field (if busy then r else v.setWidth 64) 25 14 * 2 ^ 14 + field v 0 0))
    let cleared := r.getLsbD 0 && !v.getLsbD 0
    let s2 := if cleared || v.getLsbD 30 then s1.disarm (AgentKey.who (s.lqCtx n) (.launchQueue n)) else s1
    let s3 : State := if cleared && !busy then (match s2.lqWait n with | some w => s2.lqResume n w | none => s2) else s2
    .next (({ s3 with pendingWrites := if cleared && s3.lqBusy n then s3.pendingWrites ++ [.lqctl n] else s3.pendingWrites } : State).exhaust n)

end Sys2Proof.Machine
end

