-- ==== Sys2Proof/Machine/Emit.lean ====
section
/-! DEFINITION. `emit`, lane opcode for work-graph records (R287, R399 to R401). -/

namespace Sys2Proof.Machine

open Sys2Proof

/-- The launch whose nodes a strand's `emit` appends to. -/
def State.graphOf (s : State) (st : Strand) : Option Launch := (s.gangOf st).bind (fun g => s.launches.find? (fun l => l.ticket == g.ticket))

/-- The record fault of a lane (R399). -/
def recordFault : AFault := ⟨8, 0x22, 0, 0⟩

/-- The node that an output slot names; none for a slot that breaks R399. -/
def slotNode (nodes : Nat) (bs : List Byte) : Option Nat :=
  let x := BitVec.ofNat 64 (leNat bs)
  if !x.getLsbD 31 || field x 63 32 != 0 || field x 30 12 != 0 || decide (nodes ≤ field x 11 0) then none else some (field x 11 0)

/-- What the slot of a lane leads to: a fault, or the node. -/
inductive EmitLane where
  | bad (f : AFault) (a : W64)
  | node (k : Nat) (a : W64)
  deriving DecidableEq, Repr

/-- The addresses and checks of the lanes' slots (R226, R265): a slot out of range reads as zero. -/
def emitPlaces (st : Strand) (fm : LaneForm) : List Nat → State → State × List (Nat × LaneRes)
  | [], s => (s, [])
  | l :: ls, s =>
    let (s1, r) := match indexOf fm.record (fm.index l) fm.off with
      | .out => (s, LaneRes.out)
      | .fault a => (s, LaneRes.bad ⟨0, 0x13, 1, 0⟩ a)
      | .at a =>
        if [0, 1, 4].contains (field a 63 60) || decide (5 ≤ field a 63 60) then s.checkAddr st fm a else (s, LaneRes.bad pathFault a)
    let (s2, rs) := emitPlaces st fm ls s1
    (s2, (l, r) :: rs)

/-- The slots of the lanes read at their homes, one after another; none while a peer's answer is awaited, or with the fault of a peer that
cannot be reached. -/
def emitSlots (i : Instr) (w : Who) (nodes : Nat) : List (Nat × LaneRes) → State → State × Option (List (Nat × EmitLane))
  | [], s => (s, some [])
  | (l, r) :: rs, s =>
    let one := match r with
      | .bad f a => (s, some (EmitLane.bad f a))
      | .out => (s, some (EmitLane.bad recordFault 0))
      | .ok p a =>
        (match (match p.addr with | some x => s.drainAt w x 8 | none => s).seriesAt i w a p (.read 8) 8 with
        | (s1, .ok bs) => (s1, some (match slotNode nodes bs with | some k => EmitLane.node k a | none => .bad recordFault a))
        | (s1, .bad f) => (s1, some (.bad f a))
        | (s1, .wait) => (s1, none))
    match one with
    | (s1, none) => (s1, none)
    | (s1, some x) =>
      match emitSlots i w nodes rs s1 with
      | (s2, some xs) => (s2, some ((l, x) :: xs))
      | (s2, none) => (s2, none)

/-- What the appends of the lanes come to. -/
structure Appends where
  outs : List (Nat × LaneRes)
  /-- The lane that found its buffer full. -/
  full : Option Nat

/-- Records appended in ascending lane order (R287, R400), until a buffer is full; the core's lines of them are treated as by a store (R94). -/
def appendLanes (st : Strand) (ticket : W64) (r : Nat) : List (Nat × EmitLane) → State → State × Appends
  | [], s => (s, ⟨[], none⟩)
  | (l, .bad f a) :: ls, s =>
    let x := appendLanes st ticket r ls s
    (x.1, { x.2 with outs := (l, .bad f a) :: x.2.outs })
  | (l, .node k _) :: ls, s =>
    match (s.launches.find? (fun y => y.ticket == ticket)).bind (fun y => y.nodes[k]?) with
    | none => (s, ⟨[], none⟩)
    | some x =>
      if x.cap ≤ x.pending then (s.modNode ticket k (fun y => { y with due := true }), ⟨[], some l⟩)
      else
        let a := x.recordAt x.appended
        let words := (List.range x.kernel.nodeWords).map (fun j => (st.lane (r + j) l).toNat)
        match s.placeUniform st a 4 .write with
        | (s1, .bad f) =>
          let z := appendLanes st ticket r ls s1
          (z.1, { z.2 with outs := (l, .bad f a) :: z.2.outs })
        | (s1, .ok (p, _)) =>
          match p.addr with
          | none =>
            let z := appendLanes st ticket r ls s1
            (z.1, { z.2 with outs := (l, .bad targetFault a) :: z.2.outs })
          | some y =>
            let bs := bytesOfWords words
            let rq : Req := ⟨0, st.who, st.core, st.who.ctx, y, bs.length, .write bs, none, vlineOf (field a 56 0), BitVec.ofNat 4 (field a 63 60)⟩
            let s2 := ((s1.homeWrite y bs).l1Effect rq).modNode ticket k (fun (n : Node) => { n with
              appended := n.appended + 1
              firstAt := if n.pending == 0 then s1.cycle else n.firstAt })
            let z := appendLanes st ticket r ls s2
            (z.1, { z.2 with outs := (l, .out) :: z.2.outs })

/-- `emit` (R287). A register of the record whose bit is clear holds the strand before any lane appends (R124). -/
def emitBody (i : Instr) (r : Nat) (b f : BitVec 4) : Body := fun k s =>
  match s.strands[s.cur]? with
  | none => (s, .done)
  | some st =>
    let act := st.active i.px
    let fs := fieldsAt i k
    let fm : LaneForm := { record := st.brec b.toNat, off := f.toNat, index := srcA i.px fs st, align := 8, kind := .read, near := false
                           access := fun _ => .read 8, size := 8, dest := [] }
    if act == 0 then (s, .done)
    else if recordBad fm.record then (s, .trap (recordTrap fm act))
    else
      let nodes := match s.graphOf st with | some l => l.nodes | none => []
      let ticket := match s.graphOf st with | some l => l.ticket | none => 0
      let (s1, places) := emitPlaces st fm (lanesOf act) s
      match emitSlots i st.who nodes.length places s1 with
      | (s2, none) => (s2, .again)
      | (s2, some lanes) =>
        let wide := lanes.any (fun x => match x.2 with
          | .node j _ => (match nodes[j]? with | some n => decide (st.allotment < r + n.kernel.nodeWords) | none => false)
          | .bad .. => false)
        let group := (lanes.map (fun x => match x.2 with
          | .node j _ => (match nodes[j]? with | some n => n.kernel.nodeWords | none => 0)
          | .bad .. => 0)).foldl max 1
        if wide then (s2.endSeries, .trap Trap.illegal)
        else if (List.range group).any (fun j => st.emptyV.contains (r + j)) then (s2.endSeries.modCur (fun x => x.hold .register), .again)
        else
          let oob := (places.filter (fun o => o.2 == .out)).length
          let (s3, res) := appendLanes st ticket r lanes (s2.endSeries.drain st.who)
          let done := buildMask (fun l => res.outs.any (fun o => o.1 == l && o.2.complete))
          match res.full with
          | some _ =>
            let s4 := s3.modCur (fun x => { x with
              reissue := true
              sr := { x.sr with donemask := (if x.reissue then x.sr.donemask else 0) ||| done } })
            (s4.park s4.cur .emit i, .again)
          | none =>
            let s4 := s3.modCur (fun x => { x with sr := { x.sr with
              oobcount := BitVec.ofNat 32 (min (2 ^ 32 - 1) (x.sr.oobcount.toNat + oob)) } })
            match laneTrap res.outs with
            | some t => (s4, .trap t)
            | none => (s4, .done)

/-- `emit`. -/
def execEmit (px : Pfx) (s x : BitVec 8) (b f : BitVec 4) (st : State) : Host.Outcome State Fault Refusal :=
  issue (.emit px s x b f) (emitBody (.emit px s x b f) s.toNat b f) st

end Sys2Proof.Machine
end

