-- ==== Sys2Proof/Machine/Sched.lean ====
section
/-! DEFINITION. Scheduling by footprint (R404 to R412): epochs, admission, forced rotation, and the drops from a core's active set. -/

namespace Sys2Proof.Machine

open Sys2Proof

/-- The budget of a core (R406). -/
def State.budgetOf (s : State) (c : CoreId) : Nat := coreGet s.budgets 2048 c

/-- The indices of a core's user strands in its active set. -/
def State.runningUsers (s : State) (c : CoreId) : List Nat :=
  s.strandsWhere (fun st => st.core == c && st.inActiveSet && !st.isFirmware)

/-- The Active user strand of a core that was admitted last (R410, R411). -/
def State.latestActive (s : State) (c : CoreId) : Option Nat :=
  let order := fun (i : Nat) => match s.strands[i]? with | some st => st.order | none => 0
  (s.strandsWhere (fun st => st.core == c && st.state == .active && !st.isFirmware)).foldl (fun (b : Option Nat) i =>
    match b with | some j => if order j < order i then some i else b | none => some i) none

/-- Active user strands dropped, latest admission first, while the active set exceeds the budget and holds more than one (R411). -/
def State.shed (c : CoreId) : Nat → State → State
  | 0, s => s
  | k + 1, s =>
    if s.activeLines c ≤ s.budgetOf c || (s.runningUsers c).length ≤ 1 then s
    else
      match s.latestActive c with
      | some i => State.shed c k (s.dropStrand i .drop)
      | none => s

/-- A measured strand takes its peak at the end of an epoch in which it was in the active set, and the next epoch begins (R405). -/
def Strand.epoch (st : Strand) (meas : Nat) : Strand :=
  let seen := st.leaseSeen || st.inActiveSet
  { st with
    leaseLines := if seen && !st.leaseDecl then min (max st.leasePeak (if st.inActiveSet then meas else 0)) 2048 else st.leaseLines
    leasePeak := if st.inActiveSet then meas else 0
    leaseSeen := st.inActiveSet }

/-- The budget after an epoch with `l` losses that counted, at threshold `t` (R406). -/
def nextBudget (b l t : Nat) : Nat := if t < l then max (b - b / 4) 256 else if l ≤ t / 4 then min (b + 128) 2048 else b

/-- The epoch of a core ends (R405, R406, R411, R412, R417), at the next multiple of 4,096 cycles. -/
def State.endEpoch (s : State) (core : CoreId) : State :=
  let now := max s.cycle ((coreGet s.epochs 0 core + 1) * 4096)
  let s0 : State := { s with
    cycle := now
    epochs := coreSet s.epochs core (now / 4096)
    strands := s.strands.map (fun (st : Strand) => if st.core == core && !st.isFirmware then st.epoch (s.measured st) else st) }
  let l := coreGet s.losses 0 core
  let t := (coreGet s.thresholds 256 core).toNat
  let b := s0.budgetOf core
  let s1 : State := { s0 with budgets := coreSet s0.budgets core (nextBudget b l t), losses := coreSet s0.losses core 0 }
  let s2 := if t < l then s1.countSched core .lower 1 else s1
  let s3 := State.shed core s2.strands.length (s2.countSched core .lease (s2.activeLines core))
  { s3 with strands := s3.strands.map (fun (st : Strand) =>
    if st.core == core then { st with leaseSeen := st.inActiveSet, leasePeak := if st.inActiveSet then st.leasePeak else 0 } else st) }

/-- Epoch end (R405, R406). -/
def execEpochEnd (core : CoreId) (s : State) : Host.Outcome State Fault Refusal := .next (s.endEpoch core)

/-! ### Admission (R408, R410) -/

/-- STAGGER holds back the first issue of the strand's gang (R396). -/
def State.staggered (s : State) (st : Strand) : Bool := match s.gangOf st with | some g => decide (s.cycle < g.firstAt) | none => false

/-- The waiting strands of a core that neither its queue's budget (R403) nor STAGGER holds. -/
def State.candidates (s : State) (c : CoreId) : List Nat :=
  s.strandsWhere (fun st => st.core == c && st.state == .waiting && !s.budgetHeld st && !s.staggered st)

/-- Of two waiting strands, the first goes before the second: the older wait, and then the lower slot (R410). -/
def Strand.before_ (a b : Strand) : Bool := decide (a.waitSince < b.waitSince) || (a.waitSince == b.waitSince && decide (a.slot < b.slot))

/-- The oldest of some strands. -/
def State.oldest (s : State) (l : List Nat) : Option Nat :=
  l.foldl (fun (b : Option Nat) i =>
    match b with
    | none => some i
    | some j => (match s.strands[i]?, s.strands[j]? with | some x, some y => if x.before_ y then some i else b | _, _ => b)) none

/-- The strand fits the active set of its core (R408). -/
def State.fitsActive (s : State) (st : Strand) : Bool :=
  st.isFirmware || decide (s.activeLines st.core + st.leaseLines ≤ s.budgetOf st.core) || (s.runningUsers st.core).isEmpty

/-- The strand at an index admitted (R407, R408, R415). -/
def State.admitStrand (s : State) (i : Nat) : State :=
  match s.strands[i]? with
  | none => s
  | some st =>
    let s1 : State := { s with admissions := s.admissions + 1, nextId := s.nextId + 1 }
    (((s1.modStrand i (fun x => { x with
        state := .active
        admission := x.admission + 1
        order := s1.admissions
        spell := s.nextId
        issueSince := s1.cycle
        leaseSeen := true
        leasePeak := max x.leasePeak (s1.measured x) })).demote st.who false).countSched st.core .adm 1)

/-- The index admitted next on a core: the oldest that fits, unless the oldest of all is reserved (R410). -/
def State.nextAdmission (s : State) (c : CoreId) : Option Nat :=
  let all := s.candidates c
  match s.oldest all with
  | none => none
  | some i =>
    match s.strands[i]? with
    | none => none
    | some st =>
      if st.waitSince + 16384 ≤ s.cycle then (if s.fitsActive st then some i else none)
      else s.oldest (all.filter (fun j => match s.strands[j]? with | some x => s.fitsActive x | none => false))

/-- Strand admission (R408, R410): one strand of the core. -/
def execStrandAdmission (core : CoreId) (s : State) : Host.Outcome State Fault Refusal :=
  match s.nextAdmission core with
  | some i => .next (s.admitStrand i)
  | none => .next s

/-- Active user strands dropped, latest admission first, until the reserved strand fits (R410). -/
def State.rotate (c : CoreId) (st : Strand) : Nat → State → State
  | 0, s => s
  | k + 1, s =>
    if s.fitsActive st then s
    else
      match s.latestActive c with
      | some i => State.rotate c st k (s.dropStrand i .rot)
      | none => s

/-- Forced rotation (R410): the oldest waiting strand has waited 32,768 cycles and does not fit. A Held strand that has become Active
since is dropped by a further one. -/
def execForcedRotation (core : CoreId) (s : State) : Host.Outcome State Fault Refusal :=
  match s.oldest (s.candidates core) with
  | none => .next s
  | some i =>
    match s.strands[i]? with
    | none => .next s
    | some st =>
      if s.fitsActive st then .next s
      else .next (State.rotate core st s.strands.length { s with cycle := max s.cycle (st.waitSince + 32768) })

end Sys2Proof.Machine
end

