-- ==== Sys2Proof/Machine/Context.lean ====
section
/-! DEFINITION. Pre-emption and context switch (R386, R438 to R443): the gang image and the context save area, freezing and resuming gangs,
swapping them out and in, saving and restoring a context, and the discard of a context's work (R444). -/

namespace Sys2Proof.Machine

open Sys2Proof

/-! ### Layout -/

/-- Bytes filled up with zeros. -/
def padTo (n : Nat) (bs : List Byte) : List Byte := bs ++ List.replicate (n - bs.length) 0

/-- The next multiple of 128. -/
def up128 (n : Nat) : Nat := (n + 127) / 128 * 128

/-- A strand as HOLDER and a request record name it (R419, R440): lane, strand, workgroup and gang. -/
def holderWord (w : Who) (lane : Nat) : Nat := waiterCode w * 32 + lane

/-- The strand and lane of such a word. -/
def holderOf (ctx : BitVec 12) (x : Nat) : Who × Nat :=
  (⟨ctx, BitVec.ofNat 24 (x / 2 ^ 16), BitVec.ofNat 2 (x / 2 ^ 14), BitVec.ofNat 9 (x / 32)⟩, x % 32)

/-- The strand that a WAITER names (R77). -/
def waiterOf (ctx : BitVec 12) (x : Nat) : Who := ⟨ctx, BitVec.ofNat 24 (x / 2 ^ 11), BitVec.ofNat 2 (x / 2 ^ 9), BitVec.ofNat 9 x⟩

/-- The park kind of a strand record (R442, STATE [6:3]). -/
def Strand.parkCode (st : Strand) : Nat :=
  match st.park with
  | some (.waitc _) => 1
  | some (.rearm ..) => 1
  | some .osenter => 2
  | some .osenterAny => 3
  | some (.bar ..) => 4
  | _ => 0

/-- The STATE word of a strand record (R442). -/
def Strand.stateWord (st : Strand) (now : Nat) : Nat :=
  if st.state == .ended then 7
  else
    (match st.before with | .parked => 2 + st.parkCode * 8 | .waiting => 1 | _ => 0) + st.quadCoherent.toNat * 256
      + min 65535 (now - st.waitSince) * 65536

/-- A batch entry's word (R442). -/
def BatchEntry.word (e : BatchEntry) : Nat := 2 ^ 63 + e.die.toNat * 2 ^ 54 + e.queue.toNat * 2 ^ 48 + e.index.toNat

/-- The 16 entry words of a batch. -/
def batchWords (es : List BatchEntry) : List Byte :=
  padTo 128 (es.foldr (fun e l => leBytes 8 e.word ++ l) [])

/-- BATCHDIR (R442). -/
def Strand.batchDir (st : Strand) : List Byte :=
  padTo 8 (leBytes 1 st.openBatch.entries.length
    ++ (List.range 4).foldr (fun n l =>
      (match st.sealedBatches.getD n none with
        | some b => leBytes 1 (128 + (if b.failed then 64 else 0) + b.entries.length)
        | none => [0]) ++ l) [])

/-- The fixed part of a strand record (R442, Table 7). -/
def State.strandHead (s : State) (st : Strand) : List Byte :=
  let w := fun (x : Word) => leBytes 4 x.toNat
  let d := fun (x : W64) => leBytes 8 x.toNat
  let full := (List.range 256).foldl (fun n r => if st.emptyV.contains r then n else n + 2 ^ r) 0
  let fullW := (List.range 64).foldl (fun n r => if st.emptyW.contains r then n else n + 2 ^ r) 0
  let tmo := match st.timeout with | some t => max 1 (t - s.cycle) | none => 0
  let sealedWords := (List.range 4).foldr (fun n l =>
    batchWords (match st.sealedBatches.getD n none with | some b => b.entries | none => []) ++ l) []
  let tickets := (List.range 8).foldr (fun n l =>
    padTo 144 (match st.tickets.getD n none with
      | some t => padTo 128 t.descriptor ++ d t.header ++ [1]
      | none => []) ++ l) []
  d st.pc ++ d st.sr.epc ++ d st.sr.faddr ++ d st.sr.rfault ++ d st.sr.handler ++ d st.sr.hscratch0 ++ d st.sr.hscratch1
    ++ w (st.status (s.statusReq st.who) (s.statusSec st.who)) ++ w st.sr.cause ++ w st.sr.emask ++ w st.sr.donemask ++ w st.sr.rptstate
    ++ w st.sr.fpmode ++ w st.sr.fpflags ++ w st.sr.rsvflags ++ leBytes 4 (s.leaseReg st) ++ w st.sr.oobcount
    ++ (List.range 8).foldr (fun n l => w (st.mask n) ++ l) [] ++ w st.live ++ leBytes 4 (st.stateWord s.cycle) ++ leBytes 4 tmo
    ++ w st.mfail ++ leBytes 32 full ++ leBytes 8 fullW
    ++ leBytes 8 (match st.claim with | some x => 2 ^ 63 + x.toNat | none => 0)
    ++ st.batchDir ++ d st.sr.walkent ++ d st.sr.sysmap ++ List.replicate 40 0
    ++ batchWords st.openBatch.entries ++ sealedWords ++ tickets

/-- The rows of a strand record (R442). -/
def Strand.rowBytes (st : Strand) : List Byte :=
  st.v.foldr (fun r l => (List.range 32).foldr (fun i m => leBytes 4 (laneOf r i).toNat ++ m) [] ++ l) []
    ++ (List.range 64).foldr (fun n l => leBytes 4 (st.wreg n).toNat ++ l) []
    ++ (List.range 16).foldr (fun n l => leBytes 16 (st.brec n).toNat ++ l) []

/-- Bytes that the spec leaves unspecified (log entry 3). -/
def State.freeBytes (s : State) (n : Nat) : State × List Byte :=
  ({ s with fresh := s.fresh + n }, (List.range n).map (fun i => Config.freeByte (s.fresh + i)))

/-- A strand record (R442); the rows of one that has ended are unspecified. -/
def State.strandRecord (s : State) (st : Strand) : State × List Byte :=
  if st.state == .ended then
    let (s1, bs) := s.freeBytes st.rowBytes.length
    (s1, s.strandHead st ++ bs)
  else (s, s.strandHead st ++ st.rowBytes)

/-- The strands of a gang in order of WG and then WIDX. -/
def State.gangStrands (s : State) (g : Gang) : List Strand :=
  (List.range g.kernel.wgs).flatMap (fun wg => (List.range g.kernel.strands).filterMap (fun k =>
    s.strands.find? (fun st => st.who == ⟨g.ctx, g.gang, BitVec.ofNat 2 wg, BitVec.ofNat 9 k⟩)))

/-- The strand records of a gang. -/
def strandRecords : List Strand → State → State × List Byte
  | [], s => (s, [])
  | st :: l, s =>
    let (s1, a) := s.strandRecord st
    let (s2, b) := strandRecords l s1
    (s2, a ++ b)

/-- The names of a gang that map a tile. -/
def Gang.mapped (g : Gang) : List Nat := (List.range 8).filter (fun n => (g.tileOf n).isSome)

/-- The base and size of a gang's vault run. -/
def State.vaultOfGang (s : State) (g : Gang) : Nat :=
  match g.vat with | some n => Config.vaultAddr g.die g.quad (field (s.reg (.vat g.die g.quad n)) 7 0 * 65536) | none => 0

/-- The 16 bytes of barrier counters (R441). -/
def barBytes (bar : BarCounter) (re : Nat) : List Byte := padTo 16 (leBytes 4 bar.registered ++ leBytes 4 bar.inst ++ leBytes 4 re)

/-- A gang image (R441, Table 6). -/
def State.gangImage (s : State) (g : Gang) : State × List Byte :=
  let (s1, recs) := strandRecords (s.gangStrands g) s
  let tiles := g.mapped
  let frz := ((s.mxTable g.die g.quad).filter (fun e => e.ctx == g.ctx && e.gang == g.gang)).foldr (fun e l => s.entryRecords e ++ l) []
  let vaultOff := 128 + recs.length
  let tileOff := vaultOff + g.kernel.vault * 65536
  let frzOff := tileOff + tiles.length * 65536
  let barOff := up128 (frzOff + frz.length)
  let head := leBytes 4 g.gang.toNat ++ leBytes 4 g.index ++ leBytes 8 0 ++ leBytes 8 g.ticket.toNat ++ leBytes 8 g.kernel.header.toNat
    ++ leBytes 4 (tiles.foldl (fun n k => n + 2 ^ k) 0) ++ leBytes 4 (frz.length / 32)
    ++ leBytes 8 128 ++ leBytes 8 vaultOff ++ leBytes 8 tileOff ++ leBytes 8 frzOff ++ leBytes 8 barOff ++ leBytes 12 g.kernel.shape.toNat
  let bars := (List.range g.kernel.wgs).foldr (fun k l =>
      barBytes (g.wgBars.getD k ⟨0, 0, 0⟩) (g.regroups.getD k ⟨0, 0, 0⟩).inst ++ l) [] ++ barBytes g.gangBar 0
  let (s2, vault) := s1.homeRead (s.vaultOfGang g) (g.kernel.vault * 65536)
  (s2, padTo 128 head ++ recs ++ vault
    ++ tiles.foldr (fun n l => s.mem.read (Config.tileAddr g.die g.quad ((g.tileOf n).getD 0)) 65536 ++ l) []
    ++ padTo (barOff - frzOff) frz ++ bars)

/-! ### Accesses of a command (R439) -/

/-- What part of a command comes to. -/
inductive CtxRes (α : Type) where
  | ok (x : α)
  | fail
  /-- It waits for something else of the machine. -/
  | waits
  /-- It awaits a peer's answer. -/
  | hold
  | fault (f : AFault) (a : W64)

/-- What is done so far is carried on. -/
def ctxThen {α β : Type} (r : State × CtxRes α) (k : α → State → State × CtxRes β) : State × CtxRes β :=
  match r with
  | (s, .ok x) => k x s
  | (s, .fail) => (s, .fail)
  | (s, .waits) => (s, .waits)
  | (s, .hold) => (s, .hold)
  | (s, .fault f a) => (s, .fault f a)

/-- The places of a run of bytes of the context, granule by granule, with the bytes in each. -/
def areaPlaces (q : Xreq) : Nat → W64 → Nat → State → State × CtxRes (List (Nat × Nat))
  | 0, _, _, s => (s, .ok [])
  | k + 1, a, n, s =>
    if n == 0 then (s, .ok [])
    else
      let m := min n (granuleLeft a)
      match s.engineAddr q none a 1 with
      | (s1, .bad f) => (s1, if f.posts then .fault f a else .fail)
      | (s1, .ok x) => ctxThen (areaPlaces q k (a + BitVec.ofNat 64 m) (n - m) s1) (fun l s2 => (s2, .ok ((x, m) :: l)))

/-- The places of an area, which has a granule more than its length fills. -/
def areaOf (q : Xreq) (a : W64) (n : Nat) (s : State) : State × CtxRes (List (Nat × Nat)) := areaPlaces q (n / 65536 + 2) a n s

/-- Bytes written at the places of an area. -/
def writeArea : List (Nat × Nat) → List Byte → State → State
  | [], _, s => s
  | (x, m) :: l, bs, s => writeArea l (bs.drop m) (s.homeWrite x (bs.take m))

/-- Bytes read at the places of an area. -/
def readPlaces : List (Nat × Nat) → State → State × List Byte
  | [], s => (s, [])
  | (x, m) :: l, s =>
    let r := s.homeRead x m
    let (s2, b) := readPlaces l r.1
    (s2, r.2 ++ b)

/-- Bytes of an area read. -/
def readArea (q : Xreq) (a : W64) (n : Nat) (s : State) : State × CtxRes (List Byte) :=
  ctxThen (areaOf q a n s) (fun l s1 => let r := readPlaces l s1; (r.1, .ok r.2))

/-! ### Freeze and thaw (R386, R439) -/

/-- The gangs that a command names. -/
def State.namedGangs (s : State) (ctx : BitVec 12) (gang : BitVec 24) : List (BitVec 12 × BitVec 24) :=
  if gang == 0xFFFFFF then (s.gangs.filter (fun g => g.ctx == ctx)).map (fun g => (g.ctx, g.gang)) else s.freezeSet ctx gang

/-- Every strand of the gangs is frozen or has ended. -/
def State.allFrozen (s : State) (l : List (BitVec 12 × BitVec 24)) : Bool :=
  s.strands.all (fun st => !l.contains (st.who.ctx, st.who.gang) || st.state == .frozen || st.state == .ended)

/-- The gangs of a list resume: monitors and grants kept for them are sent, a wake with the word as it is then (DESIGN CHOICE, log entry 48); their
matrix entries thaw, their Twill operations start again, and a core whose active set has grown beyond its budget sheds (R81, R312, R360, R411, R428). -/
def State.thawGangs (s : State) (l : List (BitVec 12 × BitVec 24)) : State :=
  let mine := fun (w : Who) => l.contains (w.ctx, w.gang)
  let s1 : State := { s with
    gangs := s.gangs.map (fun (g : Gang) => if l.contains (g.ctx, g.gang) then { g with frozen := false } else g)
    strands := s.strands.map (fun (st : Strand) => if mine st.who then st.resume s.nextId else st)
    nextId := s.nextId + 1 }
  let fired := s1.monitors.filter (fun m => m.fired && m.pkg.toNat == s.package && mine m.who)
  let s2 := fired.foldl (fun (s : State) m =>
    let r := ({ s with monitors := s.monitors.filter (· != m) } : State).homeNat m.addr m.size
    r.1.sendWake m r.2 false) s1
  let grants := s2.keys.filterMap (fun e =>
    match e.holder with | some (w, lane) => if e.fired && mine w then some (⟨w, lane, e.key, e.next⟩ : Grant) else none | none => none)
  let s3 : State := { s2 with
    keyGrants := s2.keyGrants ++ grants
    keys := s2.keys.map (fun (e : KeyEntry) =>
      if e.fired && (match e.holder with | some (w, _) => mine w | none => false) then { e with fired := false } else e) }
  let s4 := (s3.thawEntries l).restartTwills l
  let cores := (s4.strands.filter (fun st => mine st.who && st.inActiveSet)).map (fun (st : Strand) => st.core)
  cores.foldl (fun (s : State) c => State.shed c s.strands.length s) s4

/-! ### Swap out (R439, R441) -/

/-- The claims of a gang's parked `cqput` and `halox` completed before the save, where the ring has room (R125). -/
def State.finishClaims (s : State) (g : Gang) : State :=
  (s.strandsWhere (fun st => st.who.ctx == g.ctx && st.who.gang == g.gang && st.state == .frozen && st.claim.isSome)).foldl (fun (s : State) i =>
    match s.strands[i]? with
    | none => s
    | some st =>
      match st.waiting with
      | some j =>
        let s1 : State := { s.modStrand i (fun x => { x with state := .active, park := none, waiting := none }) with cur := i }
        let r := match j with
          | .cqput px d a ro => execCqput px d a ro s1
          | .halox px d a ro => execHalox px d a ro s1
          | _ => .next s
        (match r with | .next s2 => { s2.modStrand i Strand.freeze with cur := s.cur } | _ => s)
      | none => s) s

/-- The deferred results and accesses of a gang's strands brought in (R125, R376). -/
def State.settleGang (s : State) (g : Gang) : State := (s.gangStrands g).foldl (fun (s : State) st => s.settle st.who) s

/-- A copy segment on its way from a peer is to be written in the gang's vault (R115). -/
def State.inVaultOf (s : State) (g : Gang) (x : CopySeg) : Bool :=
  match x.dest with
  | some (.mem a) => decide (s.vaultOfGang g ≤ a) && decide (a < s.vaultOfGang g + g.kernel.vault * 65536)
  | _ => false

/-- Nothing of the gang is under way that a save waits for (R115, R125, R335, R376, R435). -/
def State.gangQuiet (s : State) (g : Gang) : Bool :=
  let mine := fun (w : Who) => w.ctx == g.ctx && w.gang == g.gang
  s.allFrozen [(g.ctx, g.gang)] && !s.rayOps.any (fun r => mine r.who) && !s.results.any (fun r => mine r.who)
    && !s.cancels.any mine && !s.keyMsgs.any (fun m => mine m.who) && !s.keyGrants.any (fun x => mine x.who)
    && !s.reqs.any (fun r => mine r.who) && !s.channels.any (fun c => c.segs.any (fun x => x.state == .remote && s.inVaultOf g x))
    && (s.gangStrands g).all (fun st =>
      st.state == .ended || (st.posted == 0 && st.claim.isNone
        && (match st.park with | some .remote | some .posted | some .round | some .tbar => false | _ => true)))

/-- The gang leaves the quad: its frozen entries, Twill operations and resources go (R312, R360, R439). -/
def State.takeAway (s : State) (g : Gang) : State :=
  let s1 : State := { s with mxEntries := s.mxEntries.filter (fun e => !(e.ctx == g.ctx && e.gang == g.gang)) }
  (s1.dropTwills (fun o => o.ctx == g.ctx && o.who.gang == g.gang)).freeGang g

/-- The save address (R438). -/
def State.saveAddr (s : State) : W64 := BitVec.ofNat 64 (field (s.reg .ctxsave) 56 7 * 128)

/-- One frozen gang written at the save address, and its resources freed. -/
def State.swapOut (s0 : State) (ctx : BitVec 12) (slot : Slot) (gang : BitVec 24) : State × CtxRes Unit :=
  match s0.findGang ctx gang with
  | none => (s0, .fail)
  | some g =>
    if !g.frozen then (s0, .fail)
    else
      let s := (s0.finishClaims g).settleGang g
      if !s.gangQuiet g then (s, .waits)
      else
        let (s1, bs) := s.gangImage g
        ctxThen (areaOf (engineReq ctx slot g.die g.quad .write).system s.saveAddr bs.length s1) (fun l s2 =>
          let s3 := (writeArea l bs s2).takeAway g
          ({ s3 with swapped := s3.swapped ++ [(ctx, gang, g.ticket)] }, .ok ()))

/-! ### Swap in (R439, R441 to R443) -/

/-- The little-endian number at an offset of a list of bytes. -/
def num (bs : List Byte) (off n : Nat) : Nat := bytesAt bs off n

/-- The reserved bytes of a record are zero (R4): from, and bytes. -/
def clear (bs : List Byte) (l : List (Nat × Nat)) : Bool := l.all (fun x => num bs x.1 x.2 == 0)

/-- The reserved fields of a strand record are zero (R4, R442, Table 7). -/
def strandClear (r : List Byte) : Bool :=
  clear r [(197, 3), (216, 40)] && num r 132 1 / 128 == 0
    && (List.range 4).all (fun b => num r (193 + b) 1 / 32 % 2 == 0)
    && (List.range 80).all (fun k => num r (256 + 8 * k) 8 / 2 ^ 56 % 128 == 0)
    && (List.range 8).all (fun n => num r (896 + 144 * n + 136) 1 < 2 && num r (896 + 144 * n + 137) 7 == 0)

/-- The reserved fields of a gang image's header are zero (R4, R441, Table 6). -/
def imageClear (h : List Byte) : Bool := clear h [(3, 1), (8, 8), (33, 3), (92, 36)]

/-- The reserved fields of a save header are zero (R4, R440, Table 5). -/
def saveClear (h : List Byte) : Bool := clear h [(12, 4), (96, 32)] && num h 8 4 < 4096

/-- The reserved fields of the context-level records are zero (R4, R440). -/
def regionClear (r : List Byte) : Bool := clear r [(17, 15)]
def monitorClear (r : List Byte) : Bool :=
  clear r [(21, 1), (24, 8)] && num r 0 8 / 2 ^ 57 == 0 && num r 0 8 / 2 ^ 51 % 2 == 0 && num r 16 5 < 2 ^ 35 && num r 22 2 < 512
def keyClear (r : List Byte) : Bool := clear r [(13, 3), (21, 11)] && num r 8 4 < 2 ^ 31 && num r 12 1 < 2
def requestClear (r : List Byte) : Bool := clear r [(12, 4), (21, 11)]
def launchClear (r : List Byte) : Bool := clear r [(100, 28)] && num r 96 4 < 64

/-- An entry of a saved batch: complete once its queue has released it (R283, R442). -/
def State.batchEntry (s : State) (x : Nat) : BatchEntry × Bool :=
  let die : Die := BitVec.ofNat 2 (x / 2 ^ 54)
  let q : BitVec 6 := BitVec.ofNat 6 (x / 2 ^ 48)
  let index := x % 2 ^ 48
  let e : BatchEntry := ⟨die, q, BitVec.ofNat 48 x, false⟩
  match s.engineRead (s.cqReq die q .read) none (s.cqHeader die q) 64 64 with
  | (_, .ok h) =>
    let released := decide (index < num h 16 8) || s.channels.any (fun c => c.die == die && c.queue == q && c.index.toNat == index && c.complete)
    ({ e with done := released }, released && num h 44 4 != 0 && num h 48 8 == index)
  | (_, .bad _) => ({ e with done := true }, false)

/-- The entries of a saved batch, and whether one of them has failed. -/
def State.batchEntries (s : State) (bs : List Byte) (n : Nat) : List BatchEntry × Bool :=
  (List.range n).foldr (fun k r =>
    let x := s.batchEntry (num bs (8 * k) 8)
    (x.1 :: r.1, r.2 || x.2)) ([], false)

/-- The instruction at an address of the context, as a parked strand's record needs it. -/
def instrAt (q : Xreq) (a : W64) (s : State) : State × CtxRes Instr :=
  ctxThen (readArea q a (4 * maxWords) s) (fun bs s1 =>
    match decodeSeq (wordsFrom maxWords bs) with
    | .ok (i, _) => (s1, .ok i)
    | .error _ => (s1, .fail))

/-- The lanes of a restored `osenter`, as the key table knows them (R279, R428). -/
def State.restoredLanes (s : State) (st : Strand) (i : Instr) : List SectionLane :=
  (sectionLanes i st).map (fun x =>
    let stored := s.keyReqs.any (fun r => r.who == st.who && r.lane == x.1 && r.key == x.2.1)
    let held := s.holds st.who x.1 x.2.1 (seqOf x.2.2)
    let fired := match s.keyEntry st.who.ctx x.2.1 with | some e => e.fired | none => false
    let sent := s.keyRetries.any (fun r => r.who == st.who && r.lane == x.1 && r.key == x.2.1)
    (⟨x.1, x.2.1, seqOf x.2.2,
      if stored then .waiting else if held then (if fired then .waiting else .granted) else if sent then .sent else .idle⟩ : SectionLane))

/-- A strand rebuilt from its record (R442), over the start state that its slot was given; frozen until its gang resumes. One that has ended stays ended:
its record keeps its place (R386).
`again`: a wait at a peer is to be armed again, since the context's save cancelled it. -/
def State.strandOf (s : State) (again : Bool) (q : Xreq) (start : Strand) (r : List Byte) : State × CtxRes Strand :=
  let w := fun (off : Nat) => BitVec.ofNat 32 (num r off 4)
  let d := fun (off : Nat) => BitVec.ofNat 64 (num r off 8)
  let state := w 132
  if !strandClear r then (s, .fail)
  else if field state 2 0 == 7 then (s, .ok { start with state := .ended })
  else
    let status := w 56
    let lease := w 88
    let hnd := status.getLsbD 4
    let rpts := w 72
    let a := start.allotment
    let rows := r.drop 2048
    let sr : SysRegs := { start.sr with
      hnd := hnd, rpt := status.getLsbD 5
      mode := match field status 1 0 with | 0 => .user | 1 => .supervisor | _ => .firmware
      cause := w 60, epc := d 8, emask := w 64, donemask := w 68, faddr := d 16, rptstate := rpts, fpmode := w 76, fpflags := w 80
      rsvflags := w 84, handler := d 32, rfault := d 24, oobcount := w 92, hscratch0 := d 40, hscratch1 := d 48, sysmap := d 208
      walkent := d 200 }
    let dir := (r.drop 192).take 8
    let opened := s.batchEntries (r.drop 256) (min 16 (num dir 0 1))
    let sealedAt := fun (n : Nat) =>
      let x := num dir (1 + n) 1
      if x / 128 == 1 then
        let es := s.batchEntries (r.drop (256 + 128 * (n + 1))) (min 16 (x % 32))
        some (⟨es.1, true, x / 64 % 2 == 1 || es.2⟩ : Batch)
      else none
    let ticket := fun (n : Nat) =>
      let t := (r.drop (896 + 144 * n)).take 144
      if num t 136 1 % 2 == 1 then some (⟨t.take 128, BitVec.ofNat 64 (num t 128 8), false, false⟩ : Ticket) else none
    let claim := d 184
    let st : Strand := { start with
      state := .frozen
      before := match field state 2 0 with | 0 => .active | 2 => .parked | _ => .waiting
      pc := d 0
      rptAt := if !hnd && rpts.getLsbD 31 then field rpts 7 0 else 0
      reissue := !hnd
      v := (List.range a).map (fun k => wordsFrom 32 (rows.drop (128 * k)))
      w := wordsFrom 64 (rows.drop (128 * a))
      m := wordsFrom 8 (r.drop 96)
      b := (List.range 16).map (fun k => BitVec.ofNat 128 (num rows (128 * a + 256 + 16 * k) 16))
      emptyV := (List.range a).filter (fun k => num r (144 + k / 8) 1 / 2 ^ (k % 8) % 2 == 0)
      emptyW := (List.range 64).filter (fun k => num r (176 + k / 8) 1 / 2 ^ (k % 8) % 2 == 0)
      live := w 128
      sr := sr
      quadCoherent := BitVec.ofNat 8 (field state 15 8)
      leaseDecl := lease.getLsbD 31
      leaseLines := field lease 11 0
      order := s.admissions + 1
      waitSince := s.cycle - field state 31 16
      issueSince := s.cycle
      mfail := w 140
      claim := if claim.getLsbD 63 then some (claim.setWidth 63) else none
      openBatch := ⟨opened.1, false, opened.2⟩
      sealedBatches := (List.range 4).map sealedAt
      tickets := (List.range 8).map ticket }
    if field state 2 0 != 2 then (s, .ok st)
    else
      let tmo := num r 136 4
      ctxThen (instrAt q st.pc s) (fun i s1 =>
        let until_ := if tmo == 0 then none else some (s.cycle + tmo)
        match field state 6 3, i with
        | 1, .waitc .. =>
          let armed := s.monitors.any (fun m => m.who == st.who) || s.wakes.any (fun y => y.who == st.who)
            || (!again && s.peerArms.any (fun y => y.who == st.who))
          (s1, .ok ({ st with waiting := some i, park := some (if armed then .waitc until_ else .rearm s.cycle until_) }))
        | 2, .osenter .. => (s1, .ok ({ st with waiting := some i, park := some .osenter, entering := s.restoredLanes st i }))
        | 3, .osenterAny .. => (s1, .ok ({ st with waiting := some i, park := some .osenterAny, entering := s.restoredLanes st i }))
        | 4, .bar _ n l => (s1, .ok ({ st with waiting := some i, park := some (.bar l.toNat (n == 1)) }))
        | _, _ => (s1, .fail))

/-- The strands of an image rebuilt in order. -/
def strandsOf (again : Bool) (q : Xreq) (size : Nat) : List Strand → List Byte → State → State × CtxRes (List Strand)
  | [], _, s => (s, .ok [])
  | st :: l, bs, s =>
    ctxThen (s.strandOf again q st (bs.take size)) (fun x s1 =>
      ctxThen (strandsOf again q size l (bs.drop size) s1) (fun ys s2 => (s2, .ok (x :: ys))))

/-- The gang of an image: its launch, and the kernel it runs; none when no launch holds its ticket. -/
def State.imageLaunch (s : State) (ctx : BitVec 12) (h : List Byte) : Option (Launch × Kernel × List W64 × Bool) :=
  match s.launches.find? (fun l => l.ctx == ctx && l.ticket == BitVec.ofNat 64 (num h 16 8)) with
  | none => none
  | some l =>
    let number := num h 0 4 % 2 ^ 24
    let root := number == (l.base + num h 4 4) % gangMod && decide (num h 4 4 < field (lpGangs l.packet) 23 0)
    let khdr := BitVec.ofNat 64 (num h 24 8)
    if root || l.nodes.isEmpty then (if l.kernel.header == khdr then some (l, l.kernel, l.roles, false) else none)
    else (l.nodes.find? (fun x => x.kernel.header == khdr)).map (fun x => (l, x.kernel, x.roles, true))

/-- Free physical tiles of a quad. -/
def State.freeTiles (s : State) (d : Die) (q : Quad) : List Nat := (List.range 8).filter (s.tileFree d q)

/-- Where a gang of an image fits: a quad of R378 with tiles and table entries free for it. -/
def State.imagePlace (s : State) (slot : Slot) (ctx : BitVec 12) (k : Kernel) (tiles entries : Nat) :
    Option (Die × Quad × List (BitVec 2) × Option (BitVec 5 × Nat)) :=
  (s.validDies.flatMap (fun d => (List.range 16).map (fun q => (d, BitVec.ofNat 4 q)))).findSome? (fun x =>
    if (s.freeTiles x.1 x.2).length < tiles || decide (32 < (s.mxTable x.1 x.2).length + entries) then none
    else ({ s with ctxHeld := [] } : State).fits slot ctx x.1 x.2 k |>.map (fun f => (x.1, x.2, f.1, f.2)))

/-- The barrier counters of an image. -/
def barOf (bs : List Byte) : BarCounter := ⟨num bs 0 4, 0, num bs 4 4⟩

/-- The address of the descriptor of a strand's ticket (R356): the package keeps it past the saved record, which has no place for it, so that a
restart gives the same records (R361); of a context saved by another package it is left open (log entry 3). -/
def State.ticketAddr (s : State) (w : Who) (n : Nat) : W64 × State :=
  match s.twillAddrs.find? (fun x => x.1 == w && x.2.1 == n) with
  | some x => (x.2.2, s)
  | none =>
    let (lo, s1) := s.freeWord
    let (hi, s2) := s1.freeWord
    (pair lo hi, s2)

/-- The Twill operations that a restored strand's tickets name, which run again (R360). -/
def State.rerunTickets (s : State) (st : Strand) : State :=
  (List.range 8).foldl (fun (s : State) n =>
    match st.tickets.getD n none with
    | none => s
    | some t =>
      let (a, s1) := s.ticketAddr st.who n
      { s1 with
        nextId := s1.nextId + 1
        twills := s1.twills ++ [⟨s1.nextId, st.core.die, st.core.quad, st.who, n, st.who.ctx, st.ctxSlot, a, t.descriptor, t.header, false,
          0, none, [], false⟩] }) s

/-- The instances of a launch's gangs that are still swapped out. -/
def State.someOut (s : State) (ticket : W64) : Bool := s.swapped.any (fun x => x.2.2 == ticket)

/-- A gang image at an address placed again, frozen. -/
def State.swapInAt (s : State) (again : Bool) (ctx : BitVec 12) (slot : Slot) (a : W64) : State × CtxRes Gang :=
  let q0 := (s.agentReq ctx slot .read).system
  ctxThen (readArea q0 a 128 s) (fun h s1 =>
    match (if imageClear h then s1.imageLaunch ctx h else none) with
    | none => (s1, .fail)
    | some (l, k0, roles, node) =>
      let number := num h 0 4 % 2 ^ 24
      let size := 2048 + rowsFor k0.vregs * 128
      let strandOff := num h 40 8
      let count := (num h 48 8 - strandOff) / size
      let k : Kernel := { k0 with strands := count / k0.wgs }
      let tiles := (List.range 8).filter (fun n => num h 32 4 / 2 ^ n % 2 == 1)
      let nfrz := num h 36 4
      if (s1.findGang ctx (BitVec.ofNat 24 number)).isSome || count == 0 || decide (288 < nfrz) then (s1, .fail)
      else
        match s1.imagePlace slot ctx k tiles.length nfrz with
        | none => (s1, .fail)
        | some (d, q, cs, v) =>
          let at_ := fun (off : Nat) => a + BitVec.ofNat 64 off
          ctxThen (readArea q0 (at_ strandOff) (size * count) s1) (fun recs s2 =>
          ctxThen (readArea q0 (at_ (num h 48 8)) (k.vault * 65536) s2) (fun vault s3 =>
          ctxThen (readArea q0 (at_ (num h 56 8)) (tiles.length * 65536) s3) (fun words s4 =>
          ctxThen (readArea q0 (at_ (num h 64 8)) (nfrz * 32) s4) (fun frz s5 =>
          ctxThen (readArea q0 (at_ (num h 72 8)) (16 * (k.wgs + 1)) s5) (fun bars s6 =>
            let g0 := newGang l number (num h 4 4) node k roles d q cs v
            let free := s6.freeTiles d q
            let g : Gang := { g0 with
              accMap := (List.range 8).map (fun n => (tiles.findIdx? (· == n)).bind (fun i => free[i]?))
              wgBars := (List.range k.wgs).map (fun i => barOf (bars.drop (16 * i)))
              regroups := (List.range k.wgs).map (fun i =>
                let b := barOf (bars.drop (16 * i)); ⟨b.registered, 0, num bars (16 * i + 8) 4⟩)
              gangBar := barOf (bars.drop (16 * k.wgs))
              frozen := true }
            let starts := ((List.range g.cores.length).zip g.cores).foldr (fun x l => s6.newStrands g x.1 ⟨d, q, x.2⟩ ++ l) []
            ctxThen (strandsOf again { q0 with die := d, quad := q } size starts recs s6) (fun sts s7 =>
              let s8 := s7.takeVault ctx d q k.vault v
              let s9 : State := { s8 with
                gangs := s8.gangs ++ [g]
                strands := s8.strands ++ sts
                swapped := s8.swapped.filter (fun x => !(x.1 == ctx && x.2.1 == g.gang))
                admissions := s8.admissions + 1
                mem := (tiles.zip free).foldl (fun (m : Memory × List Byte) x =>
                    (m.1.put (Config.tileAddr d q x.2) (m.2.take 65536), m.2.drop 65536))
                  ((if k.vault == 0 then s8.mem else s8.mem.put (s8.vaultOfGang g) vault), words) |>.1 }
              let s10 := sts.foldl State.rerunTickets s9
              let s11 := g.cores.foldl (fun (s : State) c =>
                let core : CoreId := ⟨d, q, c⟩
                let s1 := (s.l1InvalidateCtx core ctx).icDrop (fun e r x _ => e == d && r == q && x == ctx)
                if (s1.rayTable core ctx).isNone then (s1.paidBy ctx g.gang d).loadRayTable core ctx slot else s1) s10
              let s12 := if node then s11.modLaunch l.ticket (fun x => { x with
                nodeGangs := (s11.gangs.filter (fun y => y.ticket == l.ticket && y.isNode)).length
                  + (s11.swapped.filter (fun y => y.2.2 == l.ticket)).length }) else s11
              match s12.entriesOfRecords d q nfrz frz with
              | none => (s12, .fail)
              | some es => (s12.enterAll es, .ok g))))))))

/-- The gang resumes; a co-resident launch's gangs resume together once all are in (R385, R439). -/
def State.resumeImage (s : State) (g : Gang) : State :=
  if s.coresident g then (if s.someOut g.ticket then s else s.thawGangs (s.freezeSet g.ctx g.gang)) else s.thawGangs [(g.ctx, g.gang)]

/-! ### Context save (R439, R440) -/

/-- ADDR of a saved monitor entry (R77, R440): bit 48 for host memory, and the byte address. -/
def monitorAddr (a : Nat) : Nat := if isHost a then 2 ^ 48 + (a - Config.hostBase) else a

/-- The address in `Memory` of such a field. -/
def monitorPlace (x : Nat) : Nat := if x / 2 ^ 48 % 2 == 1 then Config.hostBase + x % 2 ^ 48 else x % 2 ^ 39

/-- A monitor entry of the save area (R440). -/
def monitorRecord (addr : Nat) (wide : Bool) (cond : BitVec 4) (fired : Bool) (val : W64) (w : Who) (pkg : Nat) : List Byte :=
  padTo 32 (leBytes 8 (addr % 2 ^ 50 + (if wide then 2 ^ 50 else 0) + cond.toNat * 2 ^ 52 + (if fired then 2 ^ 56 else 0))
    ++ leBytes 8 val.toNat ++ leBytes 6 (waiterCode w) ++ leBytes 2 pkg)

/-- The payload of a cancel (R452): that of the arm with VAL zero. -/
def cancelPayload (w : Who) (wide : Bool) (cond : BitVec 4) : List Byte :=
  leBytes 8 0 ++ [BitVec.ofNat 8 (cond.toNat + if wide then 16 else 0)] ++ armTail w

/-- The waits of a context's strands that stand at a peer: the package, the address there, the payload of a cancel, and the record (R440). -/
def State.peerMonitors (s : State) (ctx : BitVec 12) : List (BitVec 9 × Nat × List Byte × List Byte) :=
  s.peerArms.filterMap (fun y =>
    match (s.strands.find? (fun st => st.who == y.who && y.who.ctx == ctx)).bind (fun st => st.waiting.map (fun i => (st, i))) with
    | some (st, .waitc _ _ _ b x c) =>
      some (y.pkg, y.dpa, cancelPayload y.who (x == 1) c, monitorRecord y.dpa (x == 1) c false (waitcVal st b x) st.who y.pkg.toNat)
    | _ => none)

/-- The entries that a context's strands hold at peers are cancelled, and the answers to its accesses concern nobody (R81, R444). -/
def State.cancelArms (s : State) (ctx : BitVec 12) : State :=
  let s1 := (s.peerMonitors ctx).foldl (fun (s : State) x => s.send { ctx := ctx, kind := 12, dst := x.1, addr := x.2.1 } x.2.2.1) s
  let mine := fun (w : Option Who) => match w with | some w => w.ctx == ctx | none => false
  { s1 with
    peerArms := s1.peerArms.filter (fun y => y.who.ctx != ctx)
    peerReqs := s1.peerReqs.map (fun (r : PeerReq) => if mine r.who then { r with who := none, reply := none, script := false } else r) }

/-- The records of a context (R440): regions, monitors, key entries, requests and launches. -/
def State.regionRecords (s : State) (ctx : BitVec 12) : List (List Byte) :=
  (s.regions.filter (fun r => r.ctx == ctx)).map (fun r => padTo 32 (leBytes 8 r.obj.toNat ++ leBytes 8 r.base.toNat ++ leBytes 1 r.k))

def State.monitorRecords (s : State) (ctx : BitVec 12) : List (List Byte) :=
  (s.monitors.filter (fun m => m.ctx == ctx && m.pkg.toNat == s.package && m.who.gang != firmwareGang)).map (fun m =>
    monitorRecord (monitorAddr m.addr) m.wide m.cond m.fired m.val m.who m.pkg.toNat)
    ++ (s.peerMonitors ctx).map (fun x => x.2.2.2)

def State.keyRecords (s : State) (ctx : BitVec 12) : List (List Byte) :=
  (s.keys.filter (fun e => e.ctx == ctx)).map (fun e =>
    padTo 32 (leBytes 8 e.key.toNat ++ leBytes 4 e.next.toNat ++ leBytes 4 (if e.holder.isSome then 1 else 0)
      ++ leBytes 5 (match e.holder with | some (w, l) => holderWord w l | none => 0)))

/-- A grant kept for a frozen strand is a request with FIRED (R428, R440). -/
def State.reqRecords (s : State) (ctx : BitVec 12) : List (List Byte) :=
  let record := fun (key : W64) (seq : BitVec 31) (fired : Bool) (w : Who) (lane : Nat) =>
    padTo 32 (leBytes 8 key.toNat ++ leBytes 4 (seq.toNat + if fired then 2 ^ 31 else 0) ++ leBytes 4 0 ++ leBytes 5 (holderWord w lane))
  (s.keyReqs.filter (fun r => r.ctx == ctx)).map (fun r => record r.key r.seq false r.who r.lane)
    ++ s.keys.filterMap (fun e =>
      match e.holder with
      | some (w, l) => if e.ctx == ctx && e.fired then some (record e.key e.next true w l) else none
      | none => none)

def State.launchRecords (s : State) (ctx : BitVec 12) : List (List Byte) :=
  (s.launches.filter (fun l => l.ctx == ctx)).map (fun l =>
    let bar := match s.lbars.find? (fun e => e.1 == l.ticket) with | some e => e.2 | none => ⟨0, 0, 0⟩
    padTo 128 (padTo 64 l.packet ++ leBytes 8 l.ticket.toNat ++ leBytes 4 l.next ++ leBytes 4 l.base ++ leBytes 4 l.retired
      ++ leBytes 4 bar.registered ++ leBytes 4 bar.arrived ++ leBytes 4 bar.inst ++ leBytes 4 l.queue.toNat))

/-- A section of records, filled up to a multiple of 128 bytes. -/
def sectionOf (rs : List (List Byte)) : List Byte :=
  let bs := rs.foldr (· ++ ·) []
  padTo (up128 bs.length) bs

/-- The images of gangs. -/
def gangImages : List Gang → State → State × List (List Byte)
  | [], s => (s, [])
  | g :: l, s =>
    let (s1, a) := s.gangImage g
    let (s2, b) := gangImages l s1
    (s2, padTo (up128 a.length) a :: b)

/-- The offsets of pieces laid out one after another. -/
def offsets : Nat → List (List Byte) → List Nat
  | _, [] => []
  | o, x :: xs => o :: offsets (o + x.length) xs

/-- A context save area (R440, Table 5). -/
def State.saveArea (s : State) (ctx : BitVec 12) (gs : List Gang) : State × List Byte :=
  let (s1, images) := gangImages gs s
  let regs := s.regionRecords ctx
  let mons := s.monitorRecords ctx
  let keys := s.keyRecords ctx
  let reqs := s.reqRecords ctx
  let lps := s.launchRecords ctx
  let dirLen := up128 (8 * gs.length)
  let regOff := 128 + dirLen
  let monOff := regOff + (sectionOf regs).length
  let keyOff := monOff + (sectionOf mons).length
  let reqOff := keyOff + (sectionOf keys).length
  let launchOff := reqOff + (sectionOf reqs).length
  let imageOff := launchOff + (sectionOf lps).length
  let dir := padTo dirLen ((offsets imageOff images).foldr (fun o l => leBytes 8 o ++ l) [])
  let body := dir ++ sectionOf regs ++ sectionOf mons ++ sectionOf keys ++ sectionOf reqs ++ sectionOf lps ++ images.foldr (· ++ ·) []
  let head := leBytes 4 0x56415343 ++ leBytes 4 1 ++ leBytes 4 ctx.toNat ++ leBytes 4 0 ++ leBytes 4 gs.length ++ leBytes 4 regs.length
    ++ leBytes 4 mons.length ++ leBytes 4 keys.length ++ leBytes 4 reqs.length ++ leBytes 4 lps.length ++ leBytes 8 128 ++ leBytes 8 regOff
    ++ leBytes 8 monOff ++ leBytes 8 keyOff ++ leBytes 8 reqOff ++ leBytes 8 launchOff ++ leBytes 8 (128 + body.length)
  (s1, padTo 128 head ++ body)

/-- The queues of a context: enabled, or with entries held. -/
def State.queuesBusy (s : State) (ctx : BitVec 12) : Bool :=
  let ofCtx := fun (r : W64) => r.getLsbD 0 && field r 25 14 == ctx.toNat
  (List.range 64).any (fun k => ofCtx (s.reg (.lqctl (BitVec.ofNat 6 k)))
    || [(0 : Die), 1, 2, 3].any (fun d => ofCtx (s.reg (.cqctl d (BitVec.ofNat 6 k)))))
    || s.channels.any (fun c => c.ctx == ctx) || s.taken.any (fun t => t.ctx == ctx)

/-- The context-level state of a context taken out of the package (R81, R428); a launch whose signal is on its way stays until that is over. -/
def State.forgetContext (s : State) (ctx : BitVec 12) : State :=
  let going := s.launches.filter (fun l => l.ctx == ctx && l.closing.isNone)
  let tickets := (s.launches.filter (fun l => l.ctx == ctx)).map (fun l => l.ticket)
  ({ s with
    regions := s.regions.filter (fun r => r.ctx != ctx)
    monitors := s.monitors.filter (fun m => !(m.ctx == ctx && m.pkg.toNat == s.package))
    keys := s.keys.filter (fun e => e.ctx != ctx)
    keyReqs := s.keyReqs.filter (fun r => r.ctx != ctx)
    keyMsgs := s.keyMsgs.filter (fun m => m.ctx != ctx)
    keyGrants := s.keyGrants.filter (fun g => g.who.ctx != ctx)
    keyRetries := s.keyRetries.filter (fun m => m.ctx != ctx)
    launches := s.launches.filter (fun l => !going.any (fun x => x.ticket == l.ticket))
    lbars := s.lbars.filter (fun e => !tickets.contains e.1)
    ctxHeld := s.ctxHeld.filter (· != ctx)
    wakes := s.wakes.filter (fun w => w.who.ctx != ctx)
    rayTables := s.rayTables.filter (fun t => t.ctx != ctx) } : State).countKeys ctx

/-- The launches of a context kept for its restore (R134): their records hold less than the agents read when they accepted them, and the words they
read then are not read again (DESIGN CHOICE, log entry 61). -/
def State.keepLaunches (s : State) (ctx : BitVec 12) : State :=
  let mine := s.launches.filter (fun l => l.ctx == ctx)
  { s with keptLaunches := s.keptLaunches.filter (fun k => !mine.any (fun l => l.ticket == k.ticket)) ++ mine }

/-- Save context: the gangs are frozen, the unbacked pages given frames, and then everything is written in one step. -/
def State.saveContext (s0 : State) (ctx : BitVec 12) (slot : Slot) : State × CtxRes Unit :=
  if s0.queuesBusy ctx then (s0, .fail)
  else
    let sent := s0.wakes.filter (fun w => w.who.ctx == ctx)
    let s1 := sent.foldl (fun (s : State) w => s.deliverTo w.who w.value)
      (({ s0 with wakes := s0.wakes.filter (fun w => w.who.ctx != ctx) } : State).freezeGangs (s0.namedGangs ctx 0xFFFFFF))
    let gs := s1.gangs.filter (fun g => g.ctx == ctx)
    let s2 := gs.foldl (fun (s : State) g => (s.finishClaims g).settleGang g) s1
    if !gs.all s2.gangQuiet then (s2, .waits)
    else
      let pages := s2.slots.filter (fun p => p.ctx == ctx)
      if !pages.isEmpty then
        let fresh := pages.filter (fun p => !s2.moves.any (fun m => m.die == p.die && m.ctx == p.ctx && m.vpn == p.vpn))
        ({ s2 with moves := s2.moves ++ fresh.map (fun p => ⟨p.die, p.ctx, p.vpn, p.die, false⟩) }, .waits)
      else
        let (s3, bs) := s2.saveArea ctx gs
        ctxThen (areaOf (s3.agentReq ctx slot .write).system s3.saveAddr bs.length s3) (fun l s4 =>
          if s4.slots.any (fun p => p.ctx == ctx) then (s4, .waits)
          else
            let s5 := s4.cancelArms ctx
            let s6 := gs.foldl State.takeAway (writeArea l bs s5)
            ((s6.keepLaunches ctx).forgetContext ctx |>.setRegField (.trbase slot) 63 63 0, .ok ()))

/-! ### Context restore (R439, R440) -/

/-- Records of a section. -/
def recordsOf (bs : List Byte) (size n : Nat) : List (List Byte) := (List.range n).map (fun i => (bs.drop (size * i)).take size)

/-- Key entries allocated again (R421, R428): the restore waits while a set is full. -/
def State.restoreKeys (ctx : BitVec 12) : List (List Byte) → State → State × CtxRes Unit
  | [], s => (s, .ok ())
  | r :: l, s =>
    match s.keyRoom ctx (BitVec.ofNat 64 (num r 0 8)) with
    | none => (s, .waits)
    | some s1 =>
      let holder := if num r 12 1 % 2 == 1 then some (holderOf ctx (num r 16 5)) else none
      let key := BitVec.ofNat 64 (num r 0 8)
      let s2 : State := { s1 with keys := s1.keys.map (fun (e : KeyEntry) =>
        if e.ctx == ctx && e.key == key then { e with next := BitVec.ofNat 31 (num r 8 4), holder := holder, idleAt := s1.cycle } else e) }
      State.restoreKeys ctx l s2

/-- A request record stored again; one with FIRED marks the grant that its entry keeps. -/
def State.restoreReq (s : State) (ctx : BitVec 12) (r : List Byte) : State :=
  let key := BitVec.ofNat 64 (num r 0 8)
  let (w, lane) := holderOf ctx (num r 16 5)
  if num r 8 4 / 2 ^ 31 == 1 then
    { s with keys := s.keys.map (fun (e : KeyEntry) => if e.ctx == ctx && e.key == key then { e with fired := true } else e) }
  else { s with keyReqs := s.keyReqs ++ [⟨(keySlot ctx key).1, ctx, key, BitVec.ofNat 31 (num r 8 4), w, lane⟩] }

/-- A monitor armed again (R78, R439): at a peer by a request; here with FIRED set when the condition holds. One that finds its set full is armed
again by its strand. -/
def State.restoreMonitor (s : State) (ctx : BitVec 12) (r : List Byte) : State :=
  let x := num r 0 8
  let wide := x / 2 ^ 50 % 2 == 1
  let cond : BitVec 4 := BitVec.ofNat 4 (x / 2 ^ 52)
  let val := BitVec.ofNat 64 (num r 8 8)
  let w := waiterOf ctx (num r 16 5)
  let pkg : BitVec 9 := BitVec.ofNat 9 (num r 22 2)
  let a := monitorPlace (x % 2 ^ 50)
  if pkg.toNat != s.package then s
  else
    let fired := x / 2 ^ 56 % 2 == 1
    let (s1, v) := s.homeNat a (if wide then 8 else 4)
    let (slice, set0) := s1.homeSlot a
    match s1.monitorWay slice (set0 % 1024) with
    | some way =>
      { s1 with monitors := s1.monitors ++ [⟨slice, set0 % 1024, way, a, wide, cond, val, ctx, pkg, w, fired || monHolds wide cond val v⟩] }
    | none => { s1 with records := { s1.records with monovf := bumpRec s1.records.monovf } }

/-- A strand whose monitor found its set full at the restore arms again after 1,024 cycles (R80). -/
def Strand.refused (st : Strand) (l : List Who) : Strand :=
  match st.park with
  | some (.rearm t u) => if l.contains st.who then { st with park := some (.rearm (t + 1024) u) } else st
  | _ => st

/-- A launch put back in the table (R393, R440), with what the agents read when they accepted it; the structures of one that this package has not saved
are read again. -/
def State.restoreLaunch (s : State) (ctx : BitVec 12) (slot : Slot) (r : List Byte) : State × CtxRes Unit :=
  let p := r.take 64
  let ticket := BitVec.ofNat 64 (num r 64 8)
  let kept := s.keptLaunches.find? (fun l => l.ctx == ctx && l.ticket == ticket && l.packet == p)
  match (match kept with
    | some l => (s, Structures.ok l.kernel l.roles l.nodes)
    | none => launchStructures (.launch ticket) (s.agentReq ctx slot .read) p s) with
  | (s0, .hold) => (s0, .hold)
  | (s0, .wait f a _) => (s0, .fault f a)
  | (s0, .refused _) => (s0, .fail)
  | (s0, .ok k roles nodes) =>
    let s1 := s0.endScript (.launch ticket)
    if (k.lbar && decide (64 ≤ s1.lbars.length)) || decide (256 ≤ s1.launches.length) then (s1, .waits)
    else
      ({ s1 with
        launches := insertLaunch {
          ticket := ticket, queue := BitVec.ofNat 6 (num r 96 4), ctx := ctx, slot := slot, packet := p, kernel := k, roles := roles
          n := (kept.map (·.n)).getD (field (lpGangs p) 23 0), next := num r 72 4, base := num r 76 4, retired := num r 80 4
          nodeGangs := (kept.map (·.nodeGangs)).getD 0, status := (kept.map (·.status)).getD 0, lastOn := [], deferred := none, room := 0
          waits := (kept.map (·.waits)).getD [], acks := (kept.map (·.acks)).getD [], nodes := nodes, post := none, closing := none } s1.launches
        lbars := if k.lbar then s1.lbars ++ [(ticket, ⟨num r 84 4, num r 88 4, num r 92 4⟩)] else s1.lbars }, .ok ())

/-- The structures of the launches of a save area read ahead of the restore, which changes nothing while an answer of a peer is awaited. -/
def readLaunches (ctx : BitVec 12) (slot : Slot) : List (List Byte) → State → State × CtxRes Unit
  | [], s => (s, .ok ())
  | r :: l, s =>
    let ticket := BitVec.ofNat 64 (num r 64 8)
    if s.keptLaunches.any (fun x => x.ctx == ctx && x.ticket == ticket && x.packet == r.take 64) then readLaunches ctx slot l s
    else
      match launchStructures (.launch ticket) (s.agentReq ctx slot .read) (r.take 64) s with
      | (s1, .hold) => (s1, .hold)
      | (s1, _) => readLaunches ctx slot l s1

/-- The launches of a save area. -/
def restoreLaunches (ctx : BitVec 12) (slot : Slot) : List (List Byte) → State → State × CtxRes Unit
  | [], s => (s, .ok ())
  | r :: l, s => ctxThen (s.restoreLaunch ctx slot r) (fun _ s1 => restoreLaunches ctx slot l s1)

/-- The gangs of a save area swapped in. -/
def restoreGangs (ctx : BitVec 12) (slot : Slot) (a : W64) : List Nat → State → State × CtxRes (List Gang)
  | [], s => (s, .ok [])
  | o :: l, s =>
    ctxThen (s.swapInAt true ctx slot (a + BitVec.ofNat 64 o)) (fun g s1 =>
      ctxThen (restoreGangs ctx slot a l s1) (fun gs s2 => (s2, .ok (g :: gs))))

/-- Restore context. -/
def State.restoreContext (s : State) (ctx : BitVec 12) (slot : Slot) : State × CtxRes Unit :=
  let a := s.saveAddr
  let q := (s.agentReq ctx slot .read).system
  ctxThen (readArea q a 128 s) (fun h s1 =>
    if !saveClear h || num h 0 4 != 0x56415343 || num h 4 4 != 1 || num h 8 4 != ctx.toNat then (s1, .fail)
    else
      let part := fun (off size n : Nat) (s : State) =>
        ctxThen (readArea q (a + BitVec.ofNat 64 (num h off 8)) (size * n) s) (fun bs s => (s, CtxRes.ok (recordsOf bs size n)))
      ctxThen (part 48 32 (num h 20 4) s1) (fun regs s2 =>
      ctxThen (part 56 32 (num h 24 4) s2) (fun mons s3 =>
      ctxThen (part 64 32 (num h 28 4) s3) (fun keys s4 =>
      ctxThen (part 72 32 (num h 32 4) s4) (fun reqs s5 =>
      ctxThen (part 80 128 (num h 36 4) s5) (fun lps s6 =>
      ctxThen (if regs.all regionClear && mons.all monitorClear && keys.all keyClear && reqs.all requestClear && lps.all launchClear then
          part 40 8 (num h 16 4) s6 else (s6, .fail)) (fun dir s7 =>
      ctxThen (ctxThen (readLaunches ctx slot lps s7) (fun _ => State.restoreKeys ctx keys)) (fun _ s8 =>
      ctxThen (restoreLaunches ctx slot lps s8) (fun _ s9 =>
        let s10 : State := { s9 with regions := s9.regions ++ regs.map (fun r =>
          ⟨ctx, BitVec.ofNat 57 (num r 0 8), BitVec.ofNat 57 (num r 8 8), num r 16 1⟩) }
        let s11 := reqs.foldl (fun (s : State) r => s.restoreReq ctx r) s10
        let s12 := mons.foldl (fun (s : State) r => s.restoreMonitor ctx r) s11
        let refused := (mons.filter (fun r => num r 22 2 == s12.package)).map (fun r => waiterOf ctx (num r 16 5)) |>.filter (fun w =>
          !s12.monitors.any (fun m => m.who == w && m.pkg.toNat == s12.package))
        ctxThen (restoreGangs ctx slot a (dir.map leNat) s12) (fun gs s13 =>
          let s14 : State := { s13 with strands := s13.strands.map (fun (st : Strand) => st.refused refused) }
          (gs.foldl State.resumeImage s14, .ok ())))))))))))

/-! ### Discard (R444) -/

/-- The entries of some copy channels released, where their rings can be reached in the package. -/
def releaseDropped : Nat → List Channel → State → State
  | 0, _, s => s
  | k + 1, l, s =>
    match l.findSome? (fun c =>
      match s.engineAddr (c.xreq .write) none (c.header + 16) 8 with
      | (s1, .ok x) => (let r := s1.homeNat x 8; if r.2 == c.index.toNat then some (r.1, x, c) else none)
      | (_, .bad _) => none) with
    | some (s1, x, c) => releaseDropped k (l.filter (fun y => y.id != c.id)) (s1.homePut x 8 (c.index.toNat + 1))
    | none => s

/-- The packets of some copy channels discarded: their entries are released without notification, in index order, and nothing awaits an answer for them
(R118, R444). -/
def State.dropChannels (s : State) (p : Channel → Bool) : State :=
  let mine := s.channels.filter p
  let s1 := mine.foldl (fun (s : State) c =>
    let s1 := ((s.dropScript c.key).dropScript c.haltKey).disarm (c.key.who c.ctx)
    (c.posts ++ c.post.toList).foldl State.dropPost s1) s
  let s2 := releaseDropped mine.length mine s1
  { s2 with
    channels := s2.channels.filter (fun c => !p c)
    peerReqs := s2.peerReqs.map (fun (r : PeerReq) =>
      if mine.any (fun c => match r.engine with | some (i, _, _) => i == c.id | none => false) then { r with engine := none } else r) }

/-- The traversals and walks of a context abandoned (R335). -/
def State.dropRays (s : State) (ctx : BitVec 12) : State :=
  let ps := (s.rayOps.filter (fun r => r.ctx == ctx)).flatMap (fun r => r.lanes.filterMap (fun l => l.post))
  let s1 : State := { s with
    rayOps := s.rayOps.filter (fun r => r.ctx != ctx)
    rayTables := s.rayTables.filter (fun t => t.ctx != ctx) }
  (ps ++ (s1.posts.filter (fun p => p.ctx == ctx && p.source == 5)).map (fun p => p.id)).foldl State.dropPost s1

/-- EN cleared in the queues of a context, and what they wait for let go; an entry in hand stays in its ring (R444). -/
def State.disableQueues (s : State) (ctx : BitVec 12) : State :=
  let mine := fun (s : State) (r : CReg) => field (s.reg r) 25 14 == ctx.toNat
  let regs := (List.range 64).flatMap (fun k =>
    let n : BitVec 6 := BitVec.ofNat 6 k
    (CReg.lqctl n, AgentKey.launchQueue n) :: [(0 : Die), 1, 2, 3].map (fun d => (CReg.cqctl d n, AgentKey.copyQueue d n)))
  let s1 := (regs.filter (fun x => mine s x.1)).foldl (fun (s : State) x =>
    let s1 := (s.dropScript x.2).disarm (x.2.who ctx)
    { (if (s1.reg x.1).getLsbD 0 then s1.setRegField x.1 0 0 0 else s1) with pendingWrites := s1.pendingWrites.filter (· != x.1) }) s
  let waits := s1.queueWaits.filter (fun w => mine s1 (match w.die with | some d => .cqctl d w.queue | none => .lqctl w.queue))
  let posts := waits.map (fun w => w.post) ++ (s1.taken.filter (fun t => t.ctx == ctx)).filterMap (fun t => t.post)
  let s2 := posts.foldl State.dropPost s1
  { s2 with
    queueWaits := s2.queueWaits.filter (fun w => !waits.contains w)
    taken := s2.taken.filter (fun t => t.ctx != ctx) }

/-- The strands that a context's work holds in this package are gone, and nothing waits for them. -/
def State.dropWaits (s : State) (ctx : BitVec 12) : State :=
  { s with
    reqs := s.reqs.filter (fun r => r.ctx != ctx)
    results := s.results.filter (fun r => r.who.ctx != ctx)
    wakes := s.wakes.filter (fun w => w.who.ctx != ctx)
    cancels := s.cancels.filter (fun w => w.ctx != ctx)
    vaultWaits := s.vaultWaits.filter (fun w => w.who.ctx != ctx)
    swapped := s.swapped.filter (fun x => x.1 != ctx) }

/-- The work of a context discarded (R444), its launches signalling a status. -/
def State.discard (s : State) (ctx : BitVec 12) (status : Nat) : State :=
  let gs := s.gangs.filter (fun g => g.ctx == ctx)
  let s1 := (((((s.cancelArms ctx).dropWaits ctx).cancelEntries ctx).dropTwills (fun o => o.ctx == ctx)).dropRays ctx).dropChannels (fun c => c.ctx == ctx)
  let s2 := gs.foldl (fun (s : State) g => (s.freeGang g).gangLines g) s1
  let s3 := (s2.launches.filter (fun l => l.ctx == ctx)).foldl (fun (s : State) l => s.endLaunch l status) s2
  let s4 := s3.disableQueues ctx
  let keep := s4.regions
  { s4.forgetContext ctx with regions := keep, twillAddrs := s4.twillAddrs.filter (fun x => x.1.ctx != ctx) }

/-- The discard of a context on an uncorrectable error (R444), recorded in CTXSTATs with KIND 2. -/
def State.discardError (s : State) (ctx : BitVec 12) : State :=
  match s.slotOf ctx with
  | some k => (s.discard ctx 5).recordCtx k 2 0 0 0
  | none => s.discard ctx 5

/-- Kill context (R439): the discard with status 4 and KIND 3, the unbacked slots freed without a write, and TRBASEs.EN cleared. -/
def State.kill (s : State) (ctx : BitVec 12) (slot : Slot) : State :=
  let s1 := (s.discard ctx 4).recordCtx slot 3 0 0 0
  let s2 := (s1.slots.filter (fun p => p.ctx == ctx)).foldl State.freeSlot s1
  ({ s2 with moves := s2.moves.filter (fun m => m.ctx != ctx) } : State).setRegField (.trbase slot) 63 63 0

/-! ### The commands (R438, R439) -/

/-- The command's OP, SLOT and GANG (R438). -/
def State.ctxOp (s : State) : Nat := field (s.reg .ctxcmd) 59 56
def State.ctxSlotField (s : State) : Slot := BitVec.ofNat 4 (field (s.reg .ctxcmd) 55 52)
def State.ctxGang (s : State) : BitVec 24 := BitVec.ofNat 24 (field (s.reg .ctxcmd) 51 28)

/-- The outcome of the command under way. -/
def State.ctxEnds (s : State) (good : Bool) : State :=
  { s with ctxRun := s.ctxRun.map (fun r => { r with outcome := some good, post := none }) }

/-- A part of a command in a state: kept when it succeeds; a fault is posted; otherwise nothing has changed. -/
def State.ctxApply {α : Type} (s : State) (r : State × CtxRes α) : State :=
  match r with
  | (s1, .ok _) => s1.ctxEnds true
  | (_, .fail) => s.ctxEnds false
  | (_, .waits) => s
  | (s1, .hold) => s1
  | (_, .fault f a) =>
    let q := s.agentReq ((s.ctxOf s.ctxSlotField).getD 0) s.ctxSlotField .read
    let (s1, id) := s.postFault q.die q.quad 6 0 q.ctx q.slot f a
    { s1 with ctxRun := s1.ctxRun.map (fun x => { x with post := some id }) }

/-- The command of a number is under way, with no outcome yet and no posted fault that is not answered: its context and slot. An unfixable answer
fails the command (R439). -/
def State.ctxCommand (s : State) (op : Nat) (k : BitVec 12 → Slot → State → State) : State :=
  match s.ctxRun with
  | none => s
  | some r =>
    if r.outcome.isSome || s.ctxOp != op then s
    else
      match s.ctxOf s.ctxSlotField with
      | none => s.ctxEnds false
      | some ctx =>
        match r.post with
        | none => k ctx s.ctxSlotField s
        | some p =>
          if !s.answered p then s
          else if s.postState p == .fixed then
            k ctx s.ctxSlotField { s.dropPost p with ctxRun := some { r with post := none } }
          else (s.dropPost p).ctxEnds false

/-- Freeze (OP 1): complete when every strand is frozen. -/
def execCtxFreeze (s : State) : Host.Outcome State Fault Refusal :=
  .next (s.ctxCommand 1 (fun ctx _ s =>
    let l := s.namedGangs ctx s.ctxGang
    let every := s.ctxGang == 0xFFFFFF
    if l.isEmpty && !every then s.ctxEnds false
    else
      let s1 := s.freezeGangs l
      let s2 : State := if every && !s1.ctxHeld.contains ctx then { s1 with ctxHeld := ctx :: s1.ctxHeld } else s1
      if s2.allFrozen l then s2.ctxEnds true else s2))

/-- Thaw (OP 2). -/
def execCtxThaw (s : State) : Host.Outcome State Fault Refusal :=
  .next (s.ctxCommand 2 (fun ctx _ s =>
    let l := (s.namedGangs ctx s.ctxGang).filter (fun x =>
      match s.findGang x.1 x.2 with | some g => g.frozen && !(s.coresident g && s.someOut g.ticket) | none => false)
    if l.isEmpty && s.ctxGang != 0xFFFFFF then s.ctxEnds false
    else ((({ s with ctxHeld := s.ctxHeld.filter (· != ctx) } : State)).thawGangs l).ctxEnds true))

/-- Swap out (OP 3). -/
def execCtxSwapOut (s : State) : Host.Outcome State Fault Refusal :=
  .next (s.ctxCommand 3 (fun ctx slot s =>
    match s.swapOut ctx slot s.ctxGang with
    | (s1, .waits) => s1
    | r => s.ctxApply r))

/-- Swap in (OP 4): a placement that cannot be made fails the command with no change. -/
def execCtxSwapIn (s : State) : Host.Outcome State Fault Refusal :=
  .next (s.ctxCommand 4 (fun ctx slot s =>
    s.ctxApply (ctxThen (s.swapInAt false ctx slot s.saveAddr) (fun g s1 => (s1.resumeImage g, CtxRes.ok ())))))

/-- Save context (OP 5). -/
def execCtxSave (s : State) : Host.Outcome State Fault Refusal :=
  .next (s.ctxCommand 5 (fun ctx slot s =>
    match s.saveContext ctx slot with
    | (s1, .waits) | (s1, .hold) => s1
    | (s1, .ok _) => s1.ctxEnds true
    | (s1, .fault f a) => (s.freezeGangs (s.namedGangs ctx 0xFFFFFF)).ctxApply (α := Unit) (s1, .fault f a)
    | (_, .fail) => s.ctxEnds false))

/-- Restore context (OP 6). -/
def execCtxRestore (s : State) : Host.Outcome State Fault Refusal :=
  .next (s.ctxCommand 6 (fun ctx slot s => s.ctxApply (s.restoreContext ctx slot)))

/-- Kill context (OP 7). -/
def execCtxKill (s : State) : Host.Outcome State Fault Refusal :=
  .next (s.ctxCommand 7 (fun ctx slot s => (s.kill ctx slot).ctxEnds true))

/-- Context command done (R438): BUSY clears, and CTXSTATs of the slot records KIND 4 or 6; a kill has recorded its own KIND 3. -/
def execCtxCommandDone (s : State) : Host.Outcome State Fault Refusal :=
  match s.ctxRun with
  | none => .next s
  | some r =>
    match r.outcome with
    | none => .next s
    | some good =>
      let op := s.ctxOp
      let gang := if 1 ≤ op ∧ op ≤ 3 then s.ctxGang.toNat else 0
      let s1 : State := { s.setRegField .ctxcmd 63 63 0 with ctxRun := none }
      if op == 7 && good then .next s1
      else .next (s1.recordCtx s.ctxSlotField (if good then 4 else 6) 0 0 gang)

end Sys2Proof.Machine
end

