-- ==== Sys2Proof/Machine/MemErrors.lean ====
section
/-! DEFINITION. Errors on the paths of memory, the links and the vaults (R12, R22 to R25, R93), the format windows (R28, R29), and the vault
allocation tables (R90). -/

namespace Sys2Proof.Machine

open Sys2Proof

/-! ### Uncorrectable memory errors (R24, R25) -/

/-- The field records with a change. -/
def State.count (s : State) (f : FieldRecords → FieldRecords) : State := { s with records := f s.records }

/-- An uncorrectable memory error recorded in MEMERR of a die (R25, Table 2), and counted (R469). -/
def State.recordMemErr (s : State) (d : Die) (kind off : Nat) (ctx : BitVec 12) : State :=
  let s1 := s.count (fun r => { r with memunc := bumpRec r.memunc })
  let m := s1.reg (.memerr d)
  if m.getLsbD 63 then s1.setReg (.memerr d) (setField m 47 40 (min 255 (field m 47 40 + 1)))
  else s1.setReg (.memerr d) (BitVec.ofNat 64 (2 ^ 63 + kind * 2 ^ 60 + ctx.toNat * 2 ^ 48 + off / 32 * 32))

/-- An uncorrectable memory error (R24): recorded, and the work of the context whose access met it discarded (R444). -/
def State.memoryError (s : State) (d : Die) (kind off : Nat) (ctx : BitVec 12) : State :=
  let s1 := s.recordMemErr d kind off ctx
  if ctx == 0xFFF then s1 else s1.discardError ctx

/-- The accesses of the event at hand that met a die whose warm reset failed are uncorrectable errors (R24, R466), of which the cause that
MEMERR names is left open (log entry 3); those that met an uncorrectable vault word are errors of the context that owns it (R93). -/
def State.settleLost (s : State) : State :=
  let s1 := s.lost.foldl (fun (s : State) x =>
    let (k, s1) := s.freeNat
    s1.memoryError x.1 (k % 4) x.2.1 x.2.2) { s with lost := [] }
  s1.lostVault.foldl (fun (s : State) ctx => if ctx == 0xFFF then s else s.discardError ctx) { s1 with lostVault := [] }

/-! ### GDDR7 accesses (R22, R23) -/

/-- The key of a sector's attempts. -/
def tryKey (a : Nat) (write : Bool) : Nat := 2 * a + if write then 1 else 0

/-- An attempt failed its CRC: the number of attempts so far (R23). -/
def State.crcFails (s : State) (a : Nat) (write : Bool) : Nat := s.memTries.get 0 (tryKey a write) + 1

/-- The retries of a sector are over. -/
def State.endTries (s : State) (a : Nat) (write : Bool) : State :=
  { s with memTries := s.memTries.filter (fun e => e.1 != tryKey a write) }

/-- The sector lies in populated memory of a valid die, at the start of a sector. -/
def State.sectorAt (s : State) (d : Die) (off : BitVec 37) : Bool :=
  s.dieValid d && decide (off.toNat < Config.populated) && off.toNat % 32 == 0

/-- A sector filled into the L2, if its line finds a way (R73). -/
def State.fillSector (s : State) (a : Nat) : State := (s.l2Access (lineOf a) a 32 false).getD s

/-- The L2 holds a valid, or a dirty, copy of a sector. -/
def State.sectorHeld (s : State) (a : Nat) (dirty : Bool) : Bool :=
  match s.l2Line (lineOf a) with
  | some l => (if dirty then l.dirty else l.valid).getLsbD (a % 128 / 32)
  | none => false

/-- A sector's attempts are over with its data good: corrected bits, or a retry that succeeded, count (R22, R23, R469). -/
def State.goodTry (s : State) (a : Nat) (write corrected : Bool) : State :=
  if corrected || s.memTries.get 0 (tryKey a write) != 0 then
    (s.endTries a write).count (fun r => { r with memcorr := bumpRec r.memcorr })
  else s.endTries a write

/-- A fetch for an access of no context has failed for good (R24): its data reaches no requester. A load of a firmware slot that waits for it gets no
answer; otherwise the next access of the host or a peer that needs the sector is answered in error. -/
def State.failFetch (s : State) (a : Nat) : State :=
  let mine := fun (r : Req) => r.ctx == firmwareCtx && (match r.access with | .read _ => true | _ => false) && overlaps r.addr r.size a 32
  if s.reqs.any mine then { s with reqs := s.reqs.filter (fun r => !mine r) }
  else { s with memFails := a :: s.memFails.filter (· != a) }

/-- An access of no context needs a sector whose fetch has failed. -/
def State.fetchFailed (s : State) (a n : Nat) : Bool :=
  s.memFails.any (fun x => overlaps x 32 a n && !s.sectorHeld x false)

/-- That access has had its answer: a later one fetches the sectors again (R24). -/
def State.answerFail (s : State) (a n : Nat) : State := { s with memFails := s.memFails.filter (fun x => !overlaps x 32 a n) }

/-- An uncorrectable error of a read: recorded, the context's work discarded, or the access of no context failed (R24). -/
def State.readError (s : State) (d : Die) (kind off : Nat) (ctx : BitVec 12) : State :=
  let s1 := s.memoryError d kind off ctx
  if ctx == 0xFFF then s1.failFetch (Config.devAddr d off) else s1

/-- A GDDR7 read attempt completes (R22, R23, R72): a sector that the L2 does not hold is filled, read again, or lost. -/
def execGddr7ReadComplete (die : Die) (off : BitVec 37) (out : MemOutcome) (ctx : BitVec 12) (s : State) : Host.Outcome State Fault Refusal :=
  let a := Config.devAddr die off.toNat
  if !s.sectorAt die off || s.sectorHeld a false then .next s
  else
    let s1 := s.endTries a false
    match out with
    | .ok => .next ((s.goodTry a false false).fillSector a)
    | .corrected => .next ((s.goodTry a false true).fillSector a)
    | .crcFail =>
      let n := s.crcFails a false
      if 9 ≤ n then .next (s1.readError die 0 off.toNat ctx)
      else .next { s with memTries := s.memTries.set (tryKey a false) n }
    | .eccUncorrectable => .next (s1.readError die 2 off.toNat ctx)
    | .codeUncorrectable => .next (s1.readError die 3 off.toNat ctx)

/-- The sectors of a line with one bit cleared. -/
def L2Line.clean (l : L2Line) (i : Nat) : L2Line := { l with dirty := l.dirty &&& ~~~((1 : BitVec 4) <<< i) }

/-- A sector whose write-back failed (R24): the device's bytes are left open (log entry 3), and the L2 holds it no more. -/
def State.spoilSector (s0 : State) (a : Nat) : State :=
  let (s, bs) := s0.freeBytes 32
  { s with
    mem := s.mem.put a bs
    l2 := s.l2.map (fun (l : L2Line) =>
      if l.line == lineOf a then { l.clean (a % 128 / 32) with valid := l.valid &&& ~~~((1 : BitVec 4) <<< (a % 128 / 32)) } else l) }

/-- A GDDR7 write attempt completes (R22, R23, R72): a dirty sector is clean, sent again, or lost. -/
def execGddr7WriteComplete (die : Die) (off : BitVec 37) (out : MemOutcome) (ctx : BitVec 12) (s : State) : Host.Outcome State Fault Refusal :=
  let a := Config.devAddr die off.toNat
  if !s.sectorAt die off || !s.sectorHeld a true then .next s
  else
    let s1 := s.endTries a true
    let done := fun (s : State) =>
      ({ s with l2 := s.l2.map (fun (l : L2Line) => if l.line == lineOf a then l.clean (a % 128 / 32) else l) } : State)
    match out with
    | .ok => .next (done (s.goodTry a true false))
    | .corrected => .next (done (s.goodTry a true true))
    | .crcFail =>
      let n := s.crcFails a true
      if 9 ≤ n then .next ((s1.spoilSector a).memoryError die 1 off.toNat ctx)
      else .next { s with memTries := s.memTries.set (tryKey a true) n }
    | .eccUncorrectable => .next ((s1.spoilSector a).memoryError die 2 off.toNat ctx)
    | .codeUncorrectable => .next ((s1.spoilSector a).memoryError die 3 off.toNat ctx)

/-- MEMERR write (R25, Table 2): VALID is cleared by writing one, and MORE with it; a reserved bit makes the write void (R4). -/
def execMemerrWrite (die : Die) (v : W64) (s : State) : Host.Outcome State Fault Refusal :=
  if field v 39 37 != 0 || field v 4 0 != 0 || !v.getLsbD 63 then .next s
  else .next (s.setReg (.memerr die) (setField (setField (s.reg (.memerr die)) 63 63 0) 47 40 0))

/-! ### UCIe links (R12) -/

/-- A flit of a UCIe link fails its CRC (R12): it is replayed; `again` when the flit before it failed too. The sixteenth failure in a row is an
uncorrectable error of the context whose flit it is. -/
def execUcieFlitCrcFail (link : BitVec 4) (again : Bool) (ctx : BitVec 12) (s : State) : Host.Outcome State Fault Refusal :=
  let n := if again then s.linkFails.get 0 link.toNat + 1 else 1
  let s1 : State := { s.count (fun r => { r with ucreplay := bumpRec r.ucreplay }) with linkFails := s.linkFails.set link.toNat (n % 16) }
  if n < 16 || ctx == 0xFFF then .next s1 else .next (s1.discardError ctx)

/-! ### Vaults (R88, R93) -/

/-- A vault access is performed at its bank, with its code checked (R88, R93): the waits on the object that it touched are tested (R276), and an
uncorrectable word discards the context's work. -/
def execVaultAccess (id : Nat) (out : VaultOutcome) (s : State) : Host.Outcome State Fault Refusal :=
  match s.reqs.find? (fun r => r.id == id) with
  | none => .next s
  | some r =>
    if !isVault r.addr || r.access.special || blocked s.reqs r then .next s
    else
      let done := fun (s : State) => (s.perform r).testVaultWaits (r.addr / 16 * 16)
      match out with
      | .ok => .next (done s)
      | .corrected => .next (done (s.count (fun x => { x with vaultcorr := bumpRec x.vaultcorr })))
      | .uncorrectable => .next (({ s with reqs := s.reqs.filter (fun x => x.id != id) } : State).discardError r.ctx)

/-- A write of a vault allocation table entry (R90): a refused write changes no entry, and the quad's Bureau agent has the error; a new allocation
reads as zero. -/
def execVaultAllocationWrite (die : Die) (q : Quad) (n : BitVec 5) (v : BitVec 32) (s : State) : Host.Outcome State Fault Refusal :=
  let size := field v 16 8
  let base := field v 7 0
  let clash := ((List.range 32).map (BitVec.ofNat 5)).any (fun k =>
    let e := s.reg (.vat die q k)
    k != n && e.getLsbD 31 && overlaps base size (field e 7 0) (field e 16 8))
  let bad := field v 30 29 != 0 || decide (256 < base + size) || (v.getLsbD 31 && (size == 0 || clash))
  if bad then .next { s with vatErrors := (die, q, n) :: s.vatErrors }
  else
    let s1 := s.setReg (.vat die q n) (v.setWidth 64)
    .next (if v.getLsbD 31 && !(s.reg (.vat die q n)).getLsbD 31 then s1.zeroVault die q base size else s1)

/-! ### Format windows (R28, R29) -/

/-- The data range and the scale region of a window: first offset and length of each. -/
def State.windowRanges (s : State) (d : Die) (n : BitVec 4) : (Nat × Nat) × (Nat × Nat) :=
  let lo := field (s.reg (.fwbase d n)) 36 16
  let len := (field (s.reg (.fwlimit d n)) 36 16 + 1 - lo) * 65536
  ((lo * 65536, len), (field (s.reg (.fwscale d n)) 36 10 * 1024, len / 64))

/-- The range lies in populated memory. -/
def rangePopulated (r : Nat × Nat) : Bool := decide (r.1 + r.2 ≤ Config.populated)

/-- A window that may be enabled with a format (R29). -/
def State.windowOk (s : State) (d : Die) (n : BitVec 4) (fmt : Nat) : Bool :=
  let (x, y) := s.windowRanges d n
  let meets := fun (a b : Nat × Nat) => overlaps a.1 a.2 b.1 b.2
  let others := ((List.range 16).map (BitVec.ofNat 4)).filter (fun k => k != n && (s.reg (.fwctl d k)).getLsbD 4)
  decide (1 ≤ fmt) && decide (fmt ≤ 3)
    && decide (field (s.reg (.fwbase d n)) 36 16 ≤ field (s.reg (.fwlimit d n)) 36 16)
    && rangePopulated x && rangePopulated y && !meets x y
    && others.all (fun k =>
      let (a, b) := s.windowRanges d k
      !(meets x a || meets x b || meets y a || meets y b))

/-- FWCTL write (R29): one that changes EN is complete once the sideband of the window's lines is dropped. Until then another write of the window's
registers has no effect and sets no ERR (DESIGN CHOICE, log entry 61). -/
def execFwctlWrite (die : Die) (n : BitVec 4) (v : BitVec 32) (s : State) : Host.Outcome State Fault Refusal :=
  let old := s.reg (.fwctl die n)
  if s.pendingWrites.contains (.fwctl die n) then .next s
  else
    let bad := field v 30 5 != 0
      || (old.getLsbD 4 && v.getLsbD 4 && field v 3 0 != field old 3 0)
      || (!old.getLsbD 4 && v.getLsbD 4 && !s.windowOk die n (field v 3 0))
    if bad then .next (s.setReg (.fwctl die n) (setField old 31 31 1))
    else
      let err := if v.getLsbD 31 then 0 else field old 31 31
      let s1 := s.setReg (.fwctl die n) (setField (v.setWidth 64) 31 31 err)
      .next (if old.getLsbD 4 != v.getLsbD 4 then { s1 with pendingWrites := .fwctl die n :: s1.pendingWrites } else s1)

/-- FWCTL enable complete (R29): the sideband of every resident line of the window's data range is dropped, that of a pinned line at its
unpin (R33). -/
def execFwctlEnableComplete (die : Die) (n : BitVec 4) (s : State) : Host.Outcome State Fault Refusal :=
  if !s.pendingWrites.contains (.fwctl die n) then .next s
  else
    let ((lo, len), _) := s.windowRanges die n
    .next ({ s with pendingWrites := s.pendingWrites.filter (· != CReg.fwctl die n) }.dropSideband die lo (lo + len))

/-- The bound register of a window. -/
def boundReg (r : FwBound) (d : Die) (n : BitVec 4) : CReg :=
  match r with | .base => .fwbase d n | .limit => .fwlimit d n | .scale => .fwscale d n

/-- A write of a window's bounds (R29): refused while the window is enabled; without effect while a change of EN has not completed (DESIGN CHOICE,
log entry 61). -/
def execFwBoundsWrite (r : FwBound) (die : Die) (n : BitVec 4) (v : W64) (s : State) : Host.Outcome State Fault Refusal :=
  if s.pendingWrites.contains (.fwctl die n) then .next s
  else
    let low := match r with | .scale => field v 9 0 | _ => field v 15 0
    if (s.reg (.fwctl die n)).getLsbD 4 || field v 63 37 != 0 || low != 0 then .next (s.setRegField (.fwctl die n) 31 31 1)
    else .next (s.setReg (boundReg r die n) v)

end Sys2Proof.Machine
end

