-- ==== Sys2Proof/Machine/Fabric.lean ====
section
/-! DEFINITION. The Zotan fabric (R445 to R455): packets received, requests served at this package's homes, answers to its own requests,
ports and routes, down declarations and pod-wide rounds. -/

namespace Sys2Proof.Machine

open Sys2Proof

/-! ### Packets received (R446, R447) -/

/-- Fields of a received header (R446, Table 1). -/
def hdrDst (h : BitVec 256) : BitVec 9 := BitVec.ofNat 9 (field h 8 0)
def hdrSrc (h : BitVec 256) : BitVec 9 := BitVec.ofNat 9 (field h 17 9)
def hdrKind (h : BitVec 256) : Nat := field h 21 18
def hdrTag (h : BitVec 256) : BitVec 16 := BitVec.ofNat 16 (field h 37 22)
/-- The bytes that LEN gives. -/
def hdrLen (h : BitVec 256) : Nat := field h 44 38 + 1
def hdrAddr (h : BitVec 256) : Nat := field h 83 45
def hdrOp (h : BitVec 256) : Nat := field h 91 84
def hdrClass (h : BitVec 256) : BitVec 8 := BitVec.ofNat 8 (field h 99 92)
def hdrCtx (h : BitVec 256) : BitVec 12 := BitVec.ofNat 12 (field h 111 100)
def hdrEsize (h : BitVec 256) : Nat := field h 115 112
def hdrFtype (h : BitVec 256) : Nat := field h 119 116

/-- The payload is the one that the header announces: LEN bytes, or none. A read's LEN is what it asks for. -/
def payloadFits (h : BitVec 256) (payload : List Byte) : Bool :=
  if hdrKind h == 0 then payload.isEmpty else payload.length == hdrLen h || (payload.isEmpty && hdrLen h == 1)

/-- A posted reduction's element: bytes, tag, and whether it is a compensated pair (R447, Table 8). -/
def redRow (op esize ftype : Nat) : Option (Nat × RedTag × Bool) :=
  let float := fun (o : Nat) (ftz : Bool) =>
    if ftype ≤ 3 ∧ esize == (if ftype == 3 then 3 else 2) then
      some (2 ^ esize, RedTag.float (BitVec.ofNat 2 ftype) (BitVec.ofNat 2 o) ftz, false)
    else none
  if op ≤ 9 then
    if op != 8 && (esize == 2 || esize == 3) && ftype == 0 then some (2 ^ esize, .int (esize == 3) (BitVec.ofNat 4 op), false) else none
  else if 0x20 ≤ op ∧ op ≤ 0x22 then float (op - 0x20) false
  else if 0x28 ≤ op ∧ op ≤ 0x2A then float (op - 0x28) true
  else if op == 0x30 && ((ftype == 2 && esize == 3) || (ftype == 3 && esize == 4)) then some (2 ^ (esize - 1), .float (BitVec.ofNat 2 ftype) 0 false, true)
  else none

/-- A remote atomic's operation: an integer operation of an element of 4 or 8 bytes, or a compare-and-swap (R447, Table 8). -/
def atomRow (op esize ftype : Nat) : Option (Nat × Bool) :=
  if ftype != 0 then none
  else if op ≤ 9 then (if esize == 2 || esize == 3 then some (2 ^ esize, false) else none)
  else if op == 0x10 && decide (2 ≤ esize) && decide (esize ≤ 4) then some (2 ^ esize, true)
  else none

/-- The packet breaks R446: a reserved KIND, a non-zero reserved field, a field that its KIND leaves zero, or an operation that is no row of
Table 8. -/
def packetBad (h : BitVec 256) (payload : List Byte) : Bool :=
  let k := hdrKind h
  let ops := k == 2 || k == 3
  field h 255 120 != 0 || decide (13 ≤ k) || (k != 6 && hdrClass h != 0)
    || (!ops && (hdrFtype h != 0 || hdrEsize h != 0 || hdrOp h != 0))
    || (k == 2 && (match redRow (hdrOp h) (hdrEsize h) (hdrFtype h) with | some (n, _) => payload.length != n | none => true))
    || (k == 3 && (match atomRow (hdrOp h) (hdrEsize h) (hdrFtype h) with
      | some (n, cas) => payload.length != (if cas then 2 * n else n)
      | none => true))

/-- A bit of the ZDOWN registers (R454, Table 4). -/
def State.isDown (s : State) (d : BitVec 9) : Bool := (s.reg (.zdown (BitVec.ofNat 3 (d.toNat / 64)))).getLsbD (d.toNat % 64)

/-- A packet of a KIND received (R446, R454): dropped and counted when it breaks R446, dropped when it comes from a package declared down.
A packet that is not of the KIND, or not for this package, is no such event. -/
def State.receive (s0 : State) (kind : Nat) (h : BitVec 256) (payload : List Byte) (f : State → State) : State :=
  let s : State := { s0 with payer := none }
  if hdrKind h != kind || (hdrDst h).toNat != s.package || !payloadFits h payload then s0
  else if s.isDown (hdrSrc h) then s
  else if packetBad h payload then s.count (fun r => { r with zdrop := bumpRec r.zdrop })
  else f s

/-! ### Requests served (R450 to R452) -/

/-- A fault reply (R446, R453). -/
def State.faultReply (s : State) (h : BitVec 256) (cls : Nat) : State :=
  s.send { ctx := hdrCtx h, cls := cls, tag := hdrTag h, kind := 6, dst := hdrSrc h } []

/-- A reply with data (R446). -/
def State.dataReply (s : State) (h : BitVec 256) (bs : List Byte) : State :=
  s.send { ctx := hdrCtx h, tag := hdrTag h, kind := 4, dst := hdrSrc h } bs

/-- An acknowledgement (R450, R452). -/
def State.ackReply (s : State) (h : BitVec 256) (x : Byte) : State :=
  s.send { ctx := hdrCtx h, tag := hdrTag h, kind := 5, dst := hdrSrc h } [x]

/-- Every byte of the range is populated memory of a valid die (R26, R450). -/
def State.dpaValid (s : State) (a n : Nat) : Bool :=
  decide (a < 2 ^ 39) && s.dieValid (dieOf a) && decide (offOf a + n ≤ Config.populated)

/-- A request performed at this package's home after the checks of R450; one that finds no way in the L2, or a stopped die, waits. The cause that
MEMERR names for a die whose warm reset failed is left open (log entry 3). -/
def State.serve (s : State) (h : BitVec 256) (n : Nat) (f : State → State) : State :=
  let a := hdrAddr h
  if !(s.reg (.zroute (hdrSrc h))).getLsbD 30 then s.faultReply h 0x16
  else if !s.dpaValid a n then s.faultReply h 0x14
  else if s.deadDies.contains (dieOf a) && (s.l2Miss a n).isSome then
    let (k, s1) := s.freeNat
    (s1.recordMemErr (dieOf a) (k % 4) (offOf ((s.l2Miss a n).getD a)) 0xFFF).faultReply h 0x1E
  else if s.fetchFailed a n then (s.answerFail a n).faultReply h 0x1E
  else if !s.l2Ready a n then s
  else f s

/-- A read request (R450). -/
def execZotanReadRequest (h : BitVec 256) (payload : List Byte) (s : State) : Host.Outcome State Fault Refusal :=
  .next (s.receive 0 h payload (fun s => s.serve h (hdrLen h) (fun s =>
    let r := s.homeRead (hdrAddr h) (hdrLen h)
    r.1.dataReply h r.2)))

/-- A posted write (R450). -/
def execZotanPostedWrite (h : BitVec 256) (payload : List Byte) (s : State) : Host.Outcome State Fault Refusal :=
  .next (s.receive 1 h payload (fun s => s.serve h payload.length (fun s => (s.homeWrite (hdrAddr h) payload).ackReply h 0)))

/-- A posted reduction (R447, R450). -/
def execZotanPostedReduction (h : BitVec 256) (payload : List Byte) (s : State) : Host.Outcome State Fault Refusal :=
  .next (s.receive 2 h payload (fun s =>
    match redRow (hdrOp h) (hdrEsize h) (hdrFtype h) with
    | none => s
    | some (n, t, paired) =>
      let x : W64 := BitVec.ofNat 64 (leNat payload)
      let a := hdrAddr h
      s.serve h (if paired then 2 * n else n) (fun s =>
        (if paired then s.homePair a (n == 8) x else s.homeReduce (dieOf a) a t x).ackReply h 0)))

/-- A remote atomic (R447, R450). -/
def execZotanAtomic (h : BitVec 256) (payload : List Byte) (s : State) : Host.Outcome State Fault Refusal :=
  .next (s.receive 3 h payload (fun s =>
    match atomRow (hdrOp h) (hdrEsize h) (hdrFtype h) with
    | none => s
    | some (n, cas) =>
      s.serve h n (fun s =>
        let r :=
          if cas then s.homeCas (hdrAddr h) n (leNat (payload.take n)) (leNat (payload.drop n))
          else s.homeUpdate (hdrAddr h) n (fun w =>
            (intOp (n == 8) (BitVec.ofNat 4 (hdrOp h)) (BitVec.ofNat 64 w) (BitVec.ofNat 64 (leNat payload))).toNat)
        r.1.dataReply h (leBytes n r.2))))

/-- The fields of an arm's or a cancel's payload (R452): VAL, COND, SIZE and WAITER. -/
def armVal (p : List Byte) : W64 := BitVec.ofNat 64 (bytesAt p 0 8)
def armCond (p : List Byte) : BitVec 4 := BitVec.ofNat 4 (bytesAt p 8 1)
def armWide (p : List Byte) : Bool := bytesAt p 8 1 / 16 % 2 == 1
def armWho (ctx : BitVec 12) (p : List Byte) : Who := waiterOf ctx (bytesAt p 9 5 % 2 ^ 35)

/-- A monitor arm of a peer (R452). -/
def execZotanMonitorArm (h : BitVec 256) (payload : List Byte) (s : State) : Host.Outcome State Fault Refusal :=
  .next (s.receive 10 h payload (fun s =>
    let w := armWho (hdrCtx h) payload
    let m : Monitor := ⟨0, 0, 0, hdrAddr h, armWide payload, armCond payload, armVal payload, hdrCtx h, hdrSrc h, w, false⟩
    s.serve h m.size (fun s =>
      match s.armMonitor m.addr m.wide m.cond m.val m.ctx m.pkg w with
      | (s1, .holds v) => s1.sendWake m v false
      | (s1, .armed) => s1.ackReply h 0
      | (s1, .full) => s1.ackReply h 1)))

/-- A monitor cancel of a peer (R81, R452): the entry is freed and its waiter woken; one that has fired has been answered already. -/
def execZotanMonitorCancel (h : BitVec 256) (payload : List Byte) (s : State) : Host.Outcome State Fault Refusal :=
  .next (s.receive 12 h payload (fun s =>
    let w := armWho (hdrCtx h) payload
    match s.monitors.find? (fun m => m.pkg == hdrSrc h && m.ctx == hdrCtx h && m.who == w && m.addr == hdrAddr h) with
    | none => s
    | some m =>
      let r := ({ s with monitors := s.monitors.filter (· != m) } : State).homeNat m.addr m.size
      r.1.sendWake m r.2 true))

/-! ### Answers to this package's requests (R228, R374, R450, R453) -/

/-- A package's ports may be recomputed (R449): nothing is outstanding to it. -/
def State.settled (s : State) (d : BitVec 9) : Bool := !s.peerReqs.any (fun r => r.dst == d)

/-- The strands that wait for acknowledgements, or to send to a package, look again. -/
def State.wakePosted (s : State) : State :=
  { s with strands := s.strands.map (fun (st : Strand) => st.wakeIf .posted s.cycle) }

/-- A posted request of a strand is answered (R374). -/
def State.postedAnswer (s : State) (r : PeerReq) (f : Strand → Strand) : State :=
  match r.who with
  | none => s
  | some w => s.modWho w (fun st => let x := f st; ({ x with posted := x.posted - 1 } : Strand).wakeIf .posted s.cycle)

/-- A wait of a strand no longer stands at a peer. -/
def State.dropArm (s : State) (w : Who) : State := { s with peerArms := s.peerArms.filter (fun y => y.who != w) }

/-- A wait that stood at a peer is none of a strand: the engine or agent looks again at its word. -/
def State.dropAgentArm (s : State) (w : Who) : State := { s.dropArm w with armed := s.armed.filter (fun e => e.who != w) }

/-- The answer of a peer, none for a fault, to an access of an agent. A completion signal whose launch has left the table in the meantime is awaited by
nobody, and recorded if it faults (R398). -/
def State.agentReply (s : State) (key : AgentKey) (r : PeerReq) (bs : Option (List Byte)) : State :=
  let gone := match key with | .launch t => !s.launches.any (fun l => l.ticket == t) | _ => false
  if !gone then s.agentAnswer key r bs
  else if bs.isNone && r.kind == 3 then s.count (fun x => { x with sigfault := bumpRec x.sigfault })
  else s

/-- A strand that holds for the answer of one access of a series issues its instruction again with the answer in hand. -/
def Strand.scriptAnswer (st : Strand) (key : List Nat) (bs : List Byte) (now : Nat) : Strand :=
  { st.reissueWait now with script := st.script ++ key.map (fun k => (k, bs)) }

/-- An answer brought to the request it answers, which is no longer outstanding (R228, R232, R450). -/
def State.answerReq (s0 : State) (r : PeerReq) (bs : List Byte) : State :=
  let s : State := { s0 with peerReqs := s0.peerReqs.filter (· != r) }
  match r.agent, r.engine with
  | some key, _ => s.agentReply key r (some bs)
  | none, some (id, seg, off) => s.engineReply id seg off (some bs) (r.kind == 0)
  | none, none =>
    let s1 := if r.posted then s.postedAnswer r (fun st => st) else s
    match r.who with
    | none => s1
    | some w =>
      if r.script then
        s1.modWho w (fun st => st.scriptAnswer (answerKeys r) bs s1.cycle)
      else
        match r.reply, s1.findStrand w with
        | some p, some i => (s1.answer 0 (some p) bs).finishRemote i
        | _, _ => s1

/-- A request that has faulted with a class (R453): a posted one sets sr.rfault; an arm, a load or an atomic takes the remote-load fault. -/
def State.failReq (s0 : State) (r : PeerReq) (cls : BitVec 8) : State :=
  let s : State := { s0 with peerReqs := s0.peerReqs.filter (· != r) }
  let trap : Trap := ⟨0x19, cls.setWidth 16, none, 0, r.va, 0⟩
  match r.agent, r.engine with
  | some key, _ => s.agentReply key r none
  | none, some (id, seg, off) => s.engineReply id seg off none (r.kind == 0)
  | none, none =>
    match r.who with
    | none => s
    | some w =>
      let s1 := if r.posted then s.postedAnswer r (fun st => st.noteRfault r.dst cls.toNat r.va) else s
      match s1.findStrand w with
      | none => if r.kind == 10 then s1.dropAgentArm w else s1.dropArm w
      | some i =>
        match s1.strands[i]? with
        | none => s1
        | some st =>
          if r.posted then (if r.script then s1.modStrand i (fun st => st.scriptAnswer (answerKeys r) [] s1.cycle) else s1)
          else if r.kind == 10 then
            let s2 := s1.dropArm w
            if st.awaitsWake then s2.takeTrap i trap st.pc 0 else s2
          else if r.script then
            (match st.waiting with
            | some j => finish j i st.rptAt st (s1.modStrand i (fun x => x.reissueWait s1.cycle)) (.trap trap)
            | none => s1)
          else
            match r.reply with
            | some p =>
              (s1.modStrand i (fun x => { x with remote := x.remote.map (fun y =>
                { y with faults := y.faults ++ [(p.lane.getD 0, cls, r.va)] }) })).finishRemote i
            | none => s1

/-- The request that a reply's TAG and SRC name. -/
def State.requestOf (s : State) (h : BitVec 256) : Option PeerReq := s.peerReqs.find? (fun r => r.tag == hdrTag h && r.dst == hdrSrc h)

/-- A read or atomic reply (R447, R450). -/
def execZotanReadReply (h : BitVec 256) (payload : List Byte) (s : State) : Host.Outcome State Fault Refusal :=
  .next (s.receive 4 h payload (fun s =>
    match s.requestOf h with
    | some r => if r.posted || r.kind == 10 then s else s.answerReq r payload
    | none => s))

/-- The arm of a strand, or of an engine or agent, is answered (R452): an entry stands at the peer, or it arms again after 1,024 cycles (R80); one
whose timeout has passed arms again only to be cancelled. -/
def State.armAnswer (s : State) (r : PeerReq) (full : Bool) : State :=
  match r.who with
  | none => s
  | some w =>
    if !full then s
    else
      let late := s.peerArms.any (fun y => y.who == w && y.cancelled)
      let s1 := s.dropArm w
      ({ s1 with armed := s1.armed.map (fun e => if e.who == w then { e with again := some (s.cycle + 1024) } else e) } : State).modWho w (fun st =>
        if !st.awaitsWake then st
        else if late then { st with park := some (.rearm (s.cycle + 1024) (some s.cycle)) }
        else st.refuseArm s.cycle)

/-- A write or arm acknowledgement (R450, R452). -/
def execZotanWriteAck (h : BitVec 256) (payload : List Byte) (s : State) : Host.Outcome State Fault Refusal :=
  .next (s.receive 5 h payload (fun s =>
    match s.requestOf h with
    | some r =>
      if r.kind == 10 then
        ({ s with peerReqs := s.peerReqs.filter (· != r) } : State).armAnswer r (bytesAt payload 0 1 % 2 == 1)
      else if r.posted then s.answerReq r []
      else s
    | none => s))

/-- A fault reply (R453). -/
def execZotanFaultReply (h : BitVec 256) (payload : List Byte) (s : State) : Host.Outcome State Fault Refusal :=
  .next (s.receive 6 h payload (fun s =>
    match s.requestOf h with
    | some r => s.failReq r (hdrClass h)
    | none => s))

/-- A monitor wake of a peer (R452): routed by CTX and WAITER to the strand whose arm it answers. -/
def execZotanMonitorWake (h : BitVec 256) (payload : List Byte) (s : State) : Host.Outcome State Fault Refusal :=
  .next (s.receive 11 h payload (fun s =>
    let w := waiterOf (hdrCtx h) (bytesAt payload 8 5 % 2 ^ 35)
    if !s.peerArms.any (fun y => y.who == w && y.pkg == hdrSrc h) then s
    else
      let s1 := s.dropArm w
      { s1 with
        wakes := s1.wakes ++ [⟨w, BitVec.ofNat 64 (bytesAt payload 0 8)⟩]
        peerReqs := s1.peerReqs.filter (fun r => !(r.kind == 10 && r.who == some w && r.dst == hdrSrc h)) }))

/-! ### Pod-wide rounds (R455) -/

/-- An invalidation round of a peer (R455): it runs at `.pkg`, queued behind those received before it (R49). -/
def execZotanInvalidationRound (h : BitVec 256) (payload : List Byte) (s : State) : Host.Outcome State Fault Refusal :=
  .next (s.receive 7 h payload (fun s =>
    let x := leNat payload
    s.startRound (.peer (hdrSrc h) (hdrTag h)) (BitVec.ofNat 2 x) (BitVec.ofNat 12 (x / 4)) (BitVec.ofNat 41 (x / 2 ^ 14)) (x / 2 ^ 55 % 2 ^ 21) false))

/-- A peer has acknowledged a round, or counts as having done so (R48, R454). -/
def State.roundPeer (s : State) (id : Nat) (d : BitVec 9) : State :=
  (s.modRound id (fun r => { r with peers := r.peers.filter (fun p => p.1 != d) })).checkRound id

/-- A round acknowledgement of a peer (R455). -/
def execZotanRoundAck (h : BitVec 256) (payload : List Byte) (s : State) : Host.Outcome State Fault Refusal :=
  .next (s.receive 8 h payload (fun s =>
    match s.rounds.find? (fun r => r.peers.contains (hdrSrc h, hdrTag h)) with
    | some r => s.roundPeer r.id (hdrSrc h)
    | none => s))

/-! ### Down declaration (R454) -/

/-- The address of the word that a strand waits on. -/
def Strand.waitcAddr (st : Strand) : W64 := match st.waiting with | some (.waitc _ _ a _ _ _) => st.wpair a.toNat | _ => 0

/-- A package declared down, in one step (R454). -/
def State.declareDown (s0 : State) (d : BitVec 9) : State :=
  if s0.isDown d || d.toNat == s0.package then s0
  else
    let s := (s0.livePeers.filter (· != d)).foldl (fun (s : State) p =>
      s.send { ctx := 0xFFF, kind := 9, dst := p } (leBytes 2 d.toNat)) s0
    let k : BitVec 3 := BitVec.ofNat 3 (d.toNat / 64)
    let s1 := (s.setReg (.zdown k) (s.reg (.zdown k) ||| BitVec.ofNat 64 (2 ^ (d.toNat % 64)))).setRegField (.zroute d) 31 31 0
    let s2 := (s1.peerReqs.filter (fun r => r.dst == d)).foldl (fun (s : State) r => s.failReq r 0x1F) s1
    let s3 := (s2.peerArms.filter (fun y => y.pkg == d)).foldl (fun (s : State) y =>
      match s.findStrand y.who with
      | none => s.dropAgentArm y.who
      | some i =>
        match s.strands[i]? with
        | some st =>
          if st.awaitsWake then (s.dropArm y.who).takeTrap i ⟨0x19, 0x1F, none, 0, st.waitcAddr, 0⟩ st.pc 0 else s.dropArm y.who
        | none => s) s2
    let s4 := (s3.rounds.map (fun r => r.id)).foldl (fun (s : State) id => s.roundPeer id d) s3
    ({ s4 with
      monitors := s4.monitors.filter (fun m => m.pkg != d)
      routeStale := s4.routeStale.filter (· != d) } : State).wakePosted

/-- A down declaration of a peer (R454): bytes [1:0] of its payload name the package. -/
def execZotanDownDeclaration (h : BitVec 256) (payload : List Byte) (s : State) : Host.Outcome State Fault Refusal :=
  .next (s.receive 9 h payload (fun s => s.declareDown (BitVec.ofNat 9 (bytesAt payload 0 2))))

/-- A packet whose KIND is reserved (R446). -/
def execZotanReservedPacket (h : BitVec 256) (payload : List Byte) (s : State) : Host.Outcome State Fault Refusal :=
  if hdrKind h < 13 then .next s else .next (s.receive (hdrKind h) h payload (fun s => s))

/-- Core cycles in a number of microseconds; at a stopped clock time is kept at the nominal rate. -/
def State.microCycles (s : State) (us : Nat) : Nat := us * 1000 * (if s.clock == 0 then 20 else s.clock) / 20

/-- A request has had no answer for ZTMO.TIME (R454). -/
def execZotanRequestTimeout (tag : BitVec 16) (s : State) : Host.Outcome State Fault Refusal :=
  match s.peerReqs.find? (fun r => r.tag == tag) with
  | none => .next s
  | some r =>
    let t := max 1 (field (s.reg .ztmo) 19 0)
    .next (({ s with cycle := max s.cycle (r.sent + s.microCycles t), payer := none } : State).declareDown r.dst)

/-! ### Ports and routes (R445, R448, R449) -/

/-- The packages that a port leads to and that have requests outstanding: their ports are recomputed once those are answered (R449). -/
def State.staleAt (s : State) (port : Nat) : State :=
  let hit := (s.peerReqs.map (fun r => r.dst)).filter (fun d =>
    field (s.reg (.zroute d)) 15 0 / 2 ^ port % 2 == 1 && !s.routeStale.contains d)
  { s with routeStale := s.routeStale ++ hit.eraseDups }

/-- A port goes down (R445): packages of which every port is down are declared down (R454). -/
def State.portDown (s : State) (port : BitVec 4) : State :=
  let s1 := ({ s with portsUp := s.portsUp &&& ~~~((1 : BitVec 16) <<< port.toNat) } : State).staleAt port.toNat
  (s1.livePeers.filter (fun d => (s1.portsTo d).isEmpty)).foldl State.declareDown s1

/-- A Zotan port goes down (R445). -/
def execZotanPortDown (port : BitVec 4) (s : State) : Host.Outcome State Fault Refusal :=
  if s.portsUp.getLsbD port.toNat then .next (({ s with payer := none } : State).portDown port) else .next s

/-- A Zotan port comes up (R449), unless its optical die failed authentication (R461). -/
def execZotanPortUp (port : BitVec 4) (s : State) : Host.Outcome State Fault Refusal :=
  if s.portsUp.getLsbD port.toNat || s.boot.opticalFailed.getLsbD (port.toNat / 4) then .next s
  else
    .next (({ s with portsUp := s.portsUp ||| ((1 : BitVec 16) <<< port.toNat), portFails := s.portFails.set port.toNat 0 } : State).staleAt port.toNat)

/-- A flit of a Zotan port fails its CRC (R445): it is replayed; `again` when the flit before it failed too. The sixteenth in a row takes the port
down. -/
def execZotanFlitCrcFail (port : BitVec 4) (again : Bool) (s : State) : Host.Outcome State Fault Refusal :=
  if !s.portsUp.getLsbD port.toNat then .next s
  else
    let n := if again then s.portFails.get 0 port.toNat + 1 else 1
    let s1 : State := { s.count (fun r => { r with zreplay := bumpRec r.zreplay }) with portFails := s.portFails.set port.toNat n, payer := none }
    .next (if n < 16 then s1 else s1.portDown port)

/-- The ports of a package are recomputed (R449): every request outstanding to it has been answered. -/
def execRouteRecompute (dst : BitVec 9) (s : State) : Host.Outcome State Fault Refusal :=
  if s.routeStale.contains dst && s.settled dst then
    .next ({ s with routeStale := s.routeStale.filter (· != dst) } : State).wakePosted
  else .next s

/-- ZPKG write (R448): refused while a context slot is enabled. -/
def execZpkgWrite (v : BitVec 32) (s : State) : Host.Outcome State Fault Refusal :=
  let old := s.reg .zpkg
  let busy := ((List.range 16).map (BitVec.ofNat 4)).any (fun k => (s.reg (.trbase k)).getLsbD 63)
  if field v 30 9 != 0 || busy then .next (s.setReg .zpkg (setField old 31 31 1))
  else .next (s.setReg .zpkg (setField (v.setWidth 64) 31 31 (if v.getLsbD 31 then 0 else field old 31 31)))

end Sys2Proof.Machine
end

