-- ==== Sys2Proof/Machine/Umayth.lean ====
section
/-! DEFINITION. The Umayth host link (R457 to R460): host accesses to device memory and to the host's own memory, rounds that the host
starts, and the host interrupt. -/

namespace Sys2Proof.Machine

open Sys2Proof

/-! ### Device memory (R457) -/

/-- The link's answer to the host. -/
def State.tellHost (s : State) (bs : List Byte) (err : Bool) : State := { s with hostOut := s.hostOut ++ [(bs, err)] }

/-- A host access to device memory: one whose address is not populated is answered in error and counted, and touches nothing; one that meets a die
whose warm reset failed, or a sector whose fetch has failed, is an uncorrectable error, answered in error (R24); one whose line finds no way, or that
waits for a stopped die, is not performed yet. -/
def State.hostAccess (s0 : State) (dpa n : Nat) (bad : List Byte) (f : State → State) : State :=
  let s : State := { s0 with payer := none }
  if !s.dpaValid dpa n then (s.count (fun r => { r with hosterr := bumpRec r.hosterr })).tellHost bad true
  else if s.deadDies.contains (dieOf dpa) && (s.l2Miss dpa n).isSome then
    ({ s.loseSector dpa n with stalled := s.stalled } : State).settleLost.tellHost bad true
  else if s.fetchFailed dpa n then (s.answerFail dpa n).tellHost bad true
  else if !s.l2Ready dpa n then s0
  else f s

/-- Host read (R457): an error completion carries all ones. -/
def execHostRead (dpa : W64) (n : Nat) (s : State) : Host.Outcome State Fault Refusal :=
  .next (s.hostAccess dpa.toNat n (List.replicate n 0xFF) (fun s =>
    let r := s.homeRead dpa.toNat n
    r.1.tellHost r.2 false))

/-- Host write (R457). -/
def execHostWrite (dpa : W64) (data : List Byte) (s : State) : Host.Outcome State Fault Refusal :=
  .next (s.hostAccess dpa.toNat data.length [] (fun s => (s.homeWrite dpa.toNat data).tellHost [] false))

/-- Host atomic (R457), with an operation of R232: performed at the home through the update port (R85); the old element is the answer. -/
def execHostAtomic (dpa : W64) (wide : Bool) (op : BitVec 4) (x : W64) (s : State) : Host.Outcome State Fault Refusal :=
  let n := if wide then 8 else 4
  if 9 < op.toNat then .next s
  else
    .next (s.hostAccess dpa.toNat n [] (fun s =>
      let r := s.homeUpdate dpa.toNat n (fun w => (intOp wide op (BitVec.ofNat 64 w) x).toNat)
      r.1.tellHost (leBytes n r.2) false))

/-! ### Host memory (R458) -/

/-- A line of host memory recalled from the L2: its dirty sectors are written back. A pinned line stays, since a pass that reads it has its
bytes of the pin (R75). -/
def State.recall (s : State) (line : Nat) : State :=
  match s.l2Line line with
  | some l => if l.pins == 0 then s.l2Evict l else s
  | none => s

/-- The host writes its own memory: lines that the L2 holds are recalled first, and the entries that wait on the bytes are evaluated (R79). -/
def State.hostStore (s : State) (addr : Nat) (data : List Byte) : State :=
  if 2 ^ 48 < addr + data.length then s
  else
    let a := Config.hostBase + addr
    let s1 := (linesOf a data.length).foldl State.recall s
    ({ s1 with mem := s1.mem.put a data }).evalMonitors a data.length

/-- The host reads its own memory: it obtains the dirty sectors of a line that the L2 holds. -/
def State.hostLoad (s : State) (addr n : Nat) : State :=
  if 2 ^ 48 < addr + n then s else s.tellHost (s.mem.read (Config.hostBase + addr) n) false

/-! ### Rounds of the host (R459) -/

/-- UINVA write (R459): GO starts a round with the COUNT of UINVB. -/
def execUinvaWrite (v : W64) (s0 : State) : Host.Outcome State Fault Refusal :=
  let s : State := { s0 with payer := none }
  let old := s.reg .uinva
  let go := v.getLsbD 63
  let kind := field v 61 60
  let count := field (s.reg .uinvb) 20 0
  let bad := old.getLsbD 63 || field v 45 41 != 0 || (go && (kind == 3 || (kind == 0 && (count == 0 || decide (2 ^ 20 < count)))))
  if bad then .next (s.setReg .uinva (setField old 62 62 1))
  else
    let err := if v.getLsbD 62 then 0 else field old 62 62
    let done := if v.getLsbD 46 || go then 0 else field old 46 46
    let s1 := s.setReg .uinva (setField (setField v 62 62 err) 46 46 done)
    if go then
      .next (s1.startRound .host (BitVec.ofNat 2 kind) (BitVec.ofNat 12 (field v 58 47)) (BitVec.ofNat 41 (field v 40 0)) count (v.getLsbD 59))
    else .next s1

/-! ### The host interrupt (R460) -/

/-- UINTSTAT: each bit reads the OR of its sources (R460, Table 7). -/
def State.uintstat (s : State) : Word :=
  let dies : List Die := [0, 1, 2, 3]
  let slots := (List.range 16).map (BitVec.ofNat 4)
  let b := fun (n : Nat) (x : Bool) => if x then 2 ^ n else 0
  BitVec.ofNat 32 (b 0 (dies.any (fun d => (s.reg (.memerr d)).getLsbD 63))
    + b 1 (dies.any (fun d => (s.reg (.swctl d)).getLsbD 63))
    + b 2 (slots.any (fun k => (s.reg (.ctxstat k)).getLsbD 63))
    + b 3 (slots.any (fun k => (s.reg (.osctl k)).getLsbD 63))
    + b 4 ((List.range 8).any (fun k => s.reg (.zdown (BitVec.ofNat 3 k)) != 0))
    + b 5 (s.portsUp != 0xFFFF)
    + b 6 (!s.stopped.isEmpty)
    + b 7 ((s.reg .uinva).getLsbD 46))

/-- The host interrupt is asserted (R460). -/
def State.hostInterrupt (s : State) : Bool := s.uintstat.toNat &&& (s.reg .uinten).toNat != 0

end Sys2Proof.Machine
end

