-- ==== Sys2Proof/Machine/Boot.lean ====
section
/-! DEFINITION. Boot, the firmware image, attestation, the binding of dies, the warm reset of a die, power states and field records
(R8, R9, R461 to R469). -/

namespace Sys2Proof.Machine

open Sys2Proof

/-! ### Module reset and loss of power (R461, R469) -/

/-- The machine after module reset: what lies outside the package stands, the host's memory and the flash copy of the field records, which is read
back. -/
def State.moduleReset (s : State) (records : FieldRecords) : State :=
  { State.reset with
    mem := s.mem.filter (fun c => isHost c.1)
    agenda := s.agenda
    hostOut := s.hostOut
    records := records
    flash := s.flash
    stepNo := s.stepNo
    fresh := s.fresh }

/-- Module reset (R461): the boot controller begins stage 1. -/
def execModuleReset (s : State) : Host.Outcome State Fault Refusal :=
  .next ((s.moduleReset s.flash).setReg .bootst 1)

/-- The module loses power (R469): the package holds no state, and only the flash copy of the field records outlives it. -/
def execModulePowerLoss (s : State) : Host.Outcome State Fault Refusal := .next (s.moduleReset FieldRecords.zero)

/-! ### The boot stages (R461, R464) -/

/-- The stage that the boot runs; none once it has stopped. -/
def State.bootStage (s : State) : Option Nat :=
  let r := s.reg .bootst
  if r.getLsbD 30 then none else some (field r 7 0)

/-- The boot goes on with a stage. -/
def State.enterStage (s : State) (n : Nat) : State := s.setRegField .bootst 7 0 n

/-- The boot stops at the stage at hand with a code (R461, Table 2). -/
def State.bootFail (s : State) (code : Nat) : State := (s.setRegField .bootst 15 8 code).setRegField .bootst 30 30 1

/-- Compute positions that are excluded for a reason, unless an earlier stage has excluded them. -/
def State.exclude (s : State) (ps : BitVec 4) (why : BitVec 2) : State :=
  { s with boot := { s.boot with why := (List.range 4).map (fun p =>
      let w := s.boot.why.getD p 0
      if w == 0 && ps.getLsbD p then why else w) } }

/-- The compute position is present. -/
def State.present (s : State) (p : Nat) : Bool := s.boot.why.getD p 0 == 0

/-- The UCIe modules of a link (R11, Table 3): links 0 to 3 join the compute dies of positions 0 to 3 to the cache die, 4 to 7 the ring's
neighbours from positions 0 to 3 clockwise, and 8 to 11 the optical dies to the cache die. -/
def linkModules (k : Nat) : Nat := if k < 4 then 8 else 4

/-- The modules of a link that training has disabled, of those listed. -/
def disabledOf (off : List Nat) (k : Nat) : Nat := min (linkModules k) (off.getD k 0)

/-- The links of a list have trained with some of their modules disabled (R13): the modules disabled now stand for CAP, and those of this training
are added to the field records. -/
def State.trained (s : State) (links off : List Nat) : State :=
  let now := (List.range 12).map (fun k => if links.contains k then disabledOf off k else s.boot.linkOff.getD k 0)
  let new := links.foldl (fun n k => n + disabledOf off k) 0
  ({ s with boot := { s.boot with linkOff := now, ucOff := BitVec.ofNat 7 now.sum } } : State).count (fun r =>
    { r with ucoff := BitVec.ofNat 64 (min (2 ^ 64 - 1) (r.ucoff.toNat + new)) })

/-- The compute positions that have lost every module of their link to the cache die (R13). -/
def linksLost (off : List Nat) : BitVec 4 := BitVec.ofNat 4 ((List.range 4).foldl (fun n p => if disabledOf off p = 8 then n + 2 ^ p else n) 0)

/-- The modules disabled by link, from those of the compute dies' links to the cache die and those of the other eight. -/
def linksOff (near far : List Nat) : List Nat := (List.range 12).map (fun k => if k < 4 then near.getD k 0 else far.getD (k - 4) 0)

/-- UCIe training is over (R13, stage 1): the modules disabled on each link are counted, and positions whose link to the cache die has none left are
excluded. `near` lists those of the links of compute positions 0 to 3 to the cache die, `far` those of the other links. -/
def execUcieTrainingDone (near far : List Nat) (s : State) : Host.Outcome State Fault Refusal :=
  let off := linksOff near far
  if s.bootStage != some 1 then .next s
  else .next (((s.exclude (linksLost off) 3).trained (List.range 12) off).enterStage 2)

/-- Die authentication is over (R463, stage 2): a compute die that failed is excluded, and the ports of an optical die that failed stay down. -/
def execDieAuthenticationDone (failC failO : BitVec 4) (failCache : Bool) (s : State) : Host.Outcome State Fault Refusal :=
  if s.bootStage != some 2 then .next s
  else if failCache then .next (s.bootFail 1)
  else
    let s1 := s.exclude failC 1
    .next (({ s1 with
      boot := { s1.boot with opticalFailed := failO }
      portsUp := BitVec.ofNat 16 ((List.range 16).foldl (fun n p => if failO.getLsbD (p / 4) then n else n + s1.portsUp.toNat / 2 ^ p % 2 * 2 ^ p) 0)
      } : State).enterStage 3)

/-- The binding of the compute dies that are present (R464): VALID, EXCL and the positions of virtual dies 0 to 3; none with fewer than three. -/
def bindingOf (present : List Nat) : Option (Nat × Nat × List Nat) :=
  match (List.range 4).filter (fun p => !present.contains p) with
  | [] => some (15, 0, [0, 1, 2, 3])
  | [e] =>
    let a := (e + 1) % 4
    let b := (e + 3) % 4
    some (7, 2 ^ e, [min a b, (e + 2) % 4, max a b, 0])
  | _ => none

/-- VDMAP of a binding (R8, Table 2). -/
def vdmapOf (b : Nat × Nat × List Nat) : Nat :=
  b.2.1 * 2 ^ 12 + b.1 * 2 ^ 8 + (List.range 4).foldl (fun n v => n + b.2.2.getD v 0 * 4 ^ v) 0

/-- CAP (R464, Table 4). -/
def State.capValue (s : State) (valid excl : Nat) : W64 :=
  BitVec.ofNat 64 ((List.range 4).foldl (fun n p => n + (s.boot.why.getD p 0).toNat * 2 ^ (32 + 2 * p)) 0
    + s.boot.ucOff.toNat * 2 ^ 16 + valid * 2 ^ 12 + excl * 2 ^ 8 + 96)

/-- Memory training is over (R21, stage 3): a die with a position that did not train is excluded. Stage 4 follows at once: the boot stops with
fewer than three compute dies, and otherwise VDMAP and CAP are written and the image awaited. -/
def execMemoryTrainingDone (fail : BitVec 4) (s : State) : Host.Outcome State Fault Refusal :=
  if s.bootStage != some 3 then .next s
  else
    let s1 := (s.exclude fail 2).enterStage 4
    match bindingOf ((List.range 4).filter s1.present) with
    | none => .next (s1.bootFail 2)
    | some b => .next (((s1.setReg .vdmap (BitVec.ofNat 64 (vdmapOf b))).setReg .cap (s1.capValue b.1 b.2.1)).enterStage 5)

/-- BOOTGO (R461, Table 2): it starts stage 6 from stage 5, and is ignored in others. -/
def execBootgoWrite (s : State) : Host.Outcome State Fault Refusal :=
  if s.bootStage == some 5 then .next (s.enterStage 6) else .next s

/-! ### The firmware image and the report (R462, R465) -/

/-- The address of the image: die offset 0 of virtual die 0. -/
def imageAddr : Nat := Config.devAddr 0 0

/-- The bytes of an image's header, and the most its body may have (R462). -/
def imageHeader : Nat := 192
def imageMost : Nat := 0x1000000

/-- The image that stands at its place is accepted (R462): the digest of its body and its security version, or nothing. -/
def State.acceptImage (s : State) : Option (BitVec 256 × BitVec 32) :=
  let h := s.mem.read imageAddr imageHeader
  let len := bytesAt h 12 4
  let svn := bytesAt h 8 4
  if bytesAt h 0 4 != 0x574D5246 || bytesAt h 4 4 != 1 || bytesAt h 16 16 != 0 || len % 128 != 0 || imageMost < len then none
  else
    let pub := h.drop 128
    let sig := (h.drop 64).take 64
    let digest := Config.sm3 (s.mem.read (imageAddr + imageHeader) len)
    if Config.sm3 pub == Config.rootKeyDigest && Config.signatureValid (h.take 64 ++ sig ++ pub)
        && digest.toNat == bytesAt h 32 32 && Config.minVersion.toNat ≤ svn then some (digest, BitVec.ofNat 32 svn)
    else none

/-- The identity key of a die in the report (R465): zeros for one that is excluded or failed. -/
def State.keyBytes (s : State) (n : Nat) : List Byte :=
  let gone := if n == 0 then false else if n ≤ 4 then !s.present (n - 1) else s.boot.opticalFailed.getLsbD (n - 5)
  if gone then List.replicate 64 0 else leBytes 64 (Config.identityKey n).toNat

/-- Bytes [191:0] of the attestation report (R465, Table 5). -/
def State.reportBody (s : State) : List Byte :=
  leBytes 4 0x41545354 ++ leBytes 4 1 ++ leBytes 4 (s.reg .bootst).toNat ++ leBytes 4 0 ++ leBytes 4 s.boot.svn.toNat
    ++ leBytes 4 (s.reg .vdmap).toNat ++ leBytes 8 (s.reg .cap).toNat ++ List.replicate 64 0 ++ leBytes 32 s.boot.fwDigest.toNat
    ++ leBytes 32 (Config.sm3 ((List.range 9).foldr (fun n l => s.keyBytes n ++ l) [])).toNat ++ s.boot.nonce

/-- The report written and signed (R465). -/
def State.writeReport (s : State) : State :=
  let body := s.reportBody
  { s with boot := { s.boot with report := body ++ leBytes 64 (Config.sm2Sign (Config.sm3 body)).toNat } }

/-- The name of a core's firmware slot. -/
def firmwareWho (c : CoreId) : Who := ⟨firmwareCtx, firmwareGang, 0, BitVec.ofNat 9 (c.die.toNat * 64 + c.quad.toNat * 4 + c.core.toNat)⟩

/-- The core that a firmware slot's name stands for. -/
def firmwareCore (w : Who) : CoreId :=
  ⟨BitVec.ofNat 2 (w.widx.toNat / 64), BitVec.ofNat 4 (w.widx.toNat / 4 % 16), BitVec.ofNat 2 (w.widx.toNat % 4)⟩

/-- A firmware slot at its start, with 64 v registers (R120), at the first byte of the image's body. -/
def firmwareStart (c : CoreId) : Strand :=
  { Strand.start (firmwareWho c) 0 c 512 64 (BitVec.ofNat 64 (imageAddr + imageHeader)) [] (SysRegs.start .firmware 0 0) with state := .active }

/-- The firmware slots of a die. -/
def firmwareOf (d : Die) : List Strand :=
  (List.range 16).flatMap (fun q => (List.range 4).map (fun k => firmwareStart ⟨d, BitVec.ofNat 4 q, BitVec.ofNat 2 k⟩))

/-- Image verification is over (R462, stages 6 and 7): a refused image stops the boot; an accepted one starts every firmware slot, and the report
is written. -/
def execImageVerificationDone (s : State) : Host.Outcome State Fault Refusal :=
  if s.bootStage != some 6 then .next s
  else
    match s.acceptImage with
    | none => .next (s.bootFail 3)
    | some (digest, svn) =>
      let s1 : State := { s with
        boot := { s.boot with fwDigest := digest, svn := svn }
        strands := s.strands ++ s.validDies.flatMap firmwareOf }
      .next (((s1.enterStage 7).setRegField .bootst 31 31 1).writeReport)

/-- NONCE write (R465): the report is written again with it; without an accepted image, the nonce reads back and SIG reads as zero. -/
def execNonceWrite (nonce : List Byte) (s : State) : Host.Outcome State Fault Refusal :=
  if nonce.length != 32 then .next s
  else
    let s1 : State := { s with boot := { s.boot with nonce := nonce } }
    if (s1.reg .bootst).getLsbD 31 then .next (s1.writeReport)
    else .next { s1 with boot := { s1.boot with report := s1.boot.report.take 160 ++ nonce ++ List.replicate 64 0 } }

/-! ### The binding (R8, R9) -/

/-- A value of VDMAP is a well-formed binding (R8). -/
def wellBound (v : Nat) : Bool :=
  let valid := v / 2 ^ 8 % 16
  let excl := v / 2 ^ 12 % 16
  let n := match valid with | 0 => 0 | 1 => 1 | 3 => 2 | 7 => 3 | 15 => 4 | _ => 5
  let pos := fun (k : Nat) => v / 4 ^ k % 4
  let near := fun (a b : Nat) => (pos a + 1) % 4 == pos b || (pos b + 1) % 4 == pos a
  let ps := (List.range n).map pos
  decide (n ≤ 4) && ps.eraseDups.length == n && ps.all (fun p => excl / 2 ^ p % 2 == 0)
    && (n != 4 || (near 0 1 && near 1 2 && near 2 3 && near 3 0))
    && (n != 3 || (near 0 1 && near 1 2))

/-- The virtual die bound to a physical position. -/
def State.virtAt (s : State) (p : Nat) : Option Die := s.validDies.find? (fun d => s.phys d == p)

/-- Where the memory of a position that no virtual die names is kept, outside every store that is addressed. -/
def parkBase (p : Nat) : Nat := 2 ^ 40 + p * 2 ^ 37

/-- The bytes of a range, by offset. -/
def Memory.range (m : Memory) (a n : Nat) : List (Nat × Byte) :=
  (m.filter (fun c => decide (a ≤ c.1) && decide (c.1 < a + n))).map (fun c => (c.1 - a, c.2))

/-- Cells placed at an address. -/
def shiftCells (l : List (Nat × Byte)) (a : Nat) : Memory := l.map (fun c => (a + c.1, c.2))

/-- The device memory of the positions under another binding: each position keeps its bytes (R9, R26). The bytes of the vaults and the registers of a
virtual die (FIXRING, CQCTL, VAT) stay with its number (DESIGN CHOICE, log entry 56). -/
def State.rebindMem (s t : State) : Memory :=
  let at_ := fun (p : Nat) => match s.virtAt p with | some d => s.mem.range (Config.devAddr d 0) (2 ^ 37) | none => s.mem.range (parkBase p) (2 ^ 37)
  ([(0 : Die), 1, 2, 3].flatMap (fun d => if t.dieValid d then shiftCells (at_ (t.phys d)) (Config.devAddr d 0) else []))
    ++ s.mem.filter (fun c => decide (2 ^ 39 ≤ c.1) && decide (c.1 < 2 ^ 40))
    ++ ([0, 1, 2, 3].flatMap (fun p => if (t.virtAt p).isSome then [] else shiftCells (at_ p) (parkBase p)))
    ++ s.mem.filter (fun c => decide (2 ^ 40 + 2 ^ 39 ≤ c.1))

/-- Entries of cores under the cores' new names; those of a core that has none are gone. -/
def renamed {α : Type} (f : CoreId → Option CoreId) (l : List (CoreId × α)) : List (CoreId × α) :=
  l.filterMap (fun x => (f x.1).map (fun c => (c, x.2)))

/-- An entry of the slices' monitor tables put where its line is homed (R77); one that finds its set full arms again as after an overflow (R80). -/
def State.rehome (s : State) (m : Monitor) : State :=
  let (slice, set0) := s.homeSlot m.addr
  match s.monitorWay slice (set0 % 1024) with
  | some w => { s with monitors := s.monitors ++ [{ m with slice := slice, set := set0 % 1024, way := w }] }
  | none => s.armRefused m

/-- What is under way for firmware slots goes by the slots' new names; that of a slot that has none is gone. -/
def State.renameFirmware (s : State) (name : Who → Option Who) : State :=
  let list := fun (w : Who) => (name w).isSome
  let to_ := fun (w : Who) => (name w).getD w
  { s with
    results := (s.results.filter (fun x => list x.who)).map (fun x => { x with who := to_ x.who })
    reqs := (s.reqs.filter (fun x => list x.who)).map (fun x =>
      { x with who := to_ x.who, core := if x.who.gang == firmwareGang then firmwareCore (to_ x.who) else x.core })
    wakes := (s.wakes.filter (fun x => list x.who)).map (fun x => { x with who := to_ x.who })
    monitors := (s.monitors.filter (fun m => m.pkg.toNat != s.package || list m.who)).map (fun m =>
      if m.pkg.toNat == s.package then { m with who := to_ m.who } else m)
    vaultWaits := (s.vaultWaits.filter (fun x => list x.who)).map (fun x => { x with who := to_ x.who })
    cancels := s.cancels.filterMap name
    peerArms := (s.peerArms.filter (fun x => list x.who)).map (fun x => { x with who := to_ x.who })
    peerReqs := s.peerReqs.map (fun r => { r with who := r.who.bind name })
    rounds := s.rounds.map (fun r => match r.by_ with
      | .strand w => { r with by_ := match name w with | some x => .strand x | none => .device }
      | _ => r) }

/-- A binding put in force (R9): the memory, the caches and the firmware slots of each position go by the number that the position now has, with what
is under way for them; so does a die that is stopped, or whose reset has failed (R466). The page slots follow their virtual dies (R68), and a held
MEMERR stays with its virtual die (DESIGN CHOICE, log entry 56). The lines of device memory leave the L2, whose slices are now others' homes (R57,
R71), and every entry of the monitor tables goes to its line's new home (R77). -/
def State.rebind (s0 : State) (v : W64) : State :=
  let s := (s0.l2.filter (fun l => isDevice l.line)).foldl State.l2Evict (s0.partials.foldl State.combineCopy s0)
  let t := s.setReg .vdmap v
  let die := fun (d : Die) => if s.dieValid d then t.virtAt (s.phys d) else none
  let core := fun (c : CoreId) => (die c.die).map (fun d => ({ c with die := d } : CoreId))
  let name := fun (w : Who) =>
    if w.ctx == firmwareCtx && w.gang == firmwareGang && w.wg == 0 then
      let c := firmwareCore w
      (core c).map firmwareWho
    else some w
  let u : State := { t with
    mem := s.rebindMem t
    coreTlb := renamed core t.coreTlb
    quadTlb := t.quadTlb.filterMap (fun x => (die x.1).map (fun d => (d, x.2)))
    walkCache := t.walkCache.filterMap (fun x => (die x.1).map (fun d => (d, x.2)))
    l1 := t.l1.filterMap (fun (l : L1Line) => (core l.core).map (fun c => { l with core := c }))
    icache := t.icache.filterMap (fun (l : ICLine) => (die l.die).map (fun d => { l with die := d }))
    victims := t.victims.filterMap (fun (l : VictimTag) => (core l.core).map (fun c => { l with core := c }))
    strands := t.strands.filterMap (fun (st : Strand) =>
      if st.isFirmware then (core st.core).map (fun c => { st with core := c, who := firmwareWho c }) else some st)
    stopped := t.stopped.filterMap core
    budgets := renamed core t.budgets
    losses := renamed core t.losses
    thresholds := renamed core t.thresholds
    epochs := renamed core t.epochs
    deadDies := t.deadDies.filterMap die
    dieReset := t.dieReset.bind die
    monitors := [] }
  let u1 := t.monitors.foldl State.rehome u
  (if t.dieReset.isSome && u1.dieReset.isNone then u1.setRegField .dierst 31 31 0 else u1).renameFirmware name

/-- VDMAP write (R9): only a well-formed binding, while no gang is resident. -/
def execVdmapWrite (v : BitVec 32) (s : State) : Host.Outcome State Fault Refusal :=
  let old := s.reg .vdmap
  if field v 30 16 != 0 || !wellBound v.toNat || !s.gangs.isEmpty then .next (s.setReg .vdmap (setField old 31 31 1))
  else
    let s1 := s.rebind (setField (v.setWidth 64) 31 31 (if v.getLsbD 31 then 0 else field old 31 31))
    .next ((s1.setRegField .cap 15 12 (field v 11 8)).setRegField .cap 11 8 (field v 15 12))

/-! ### Warm reset of one compute die (R65, R466) -/

/-- The quarter of a die empties (R65): the pages of the contexts discarded are freed, and every other page waits for a frame of the
lowest-numbered other die. -/
def State.emptyQuarter (s : State) (d : Die) (gone : List (BitVec 12)) : State :=
  let s1 := (s.slots.filter (fun p => p.die == d && gone.contains p.ctx)).foldl State.freeSlot s
  let f := (s1.validDies.find? (fun x => x != d)).getD d
  { s1 with moves := s1.moves.filter (fun m => m.die != d)
      ++ (s1.slots.filter (fun p => p.die == d)).map (fun p => ⟨d, p.ctx, p.vpn, f, (s1.moves.find? (fun m =>
        m.die == d && m.ctx == p.ctx && m.vpn == p.vpn)).any (fun m => m.shrink)⟩) }

/-- DIERST write (R466): GO discards every context with a gang on the die, or with a packet in hand of the die's copy engine (R118), and empties its
quarter; the die stops once no page slot is left there. -/
def execDierstWrite (v : BitVec 32) (s0 : State) : Host.Outcome State Fault Refusal :=
  let s : State := { s0 with payer := none }
  let old := s.reg .dierst
  let d : Die := BitVec.ofNat 2 v.toNat
  let go := v.getLsbD 31
  let bad := old.getLsbD 31 || field v 28 2 != 0
    || (go && (!s.dieValid d || s.ctxRun.isSome || (s.reg .pwrctl).getLsbD 31))
  if bad then .next (s.setReg .dierst (setField old 30 30 1))
  else
    let err := if v.getLsbD 30 then 0 else field old 30 30
    let s1 := s.setReg .dierst (setField (setField (v.setWidth 64) 30 30 err) 29 29 (if go then 0 else field old 29 29))
    if !go then .next s1
    else
      let gone := ((s1.gangs.filter (fun g => g.die == d)).map (fun g => g.ctx)
        ++ (s1.channels.filter (fun c => c.die == d)).map (fun c => c.ctx)).eraseDups
      let s2 := gone.foldl State.discardError { s1 with dieReset := some d }
      .next (s2.emptyQuarter d gone)

/-- What a die held in its own caches and firmware slots is gone, with what was under way for those slots. -/
def State.clearDie (s : State) (d : Die) : State :=
  let gone := fun (w : Who) => w.ctx == firmwareCtx && w.gang == firmwareGang && w.wg == 0 && (firmwareCore w).die == d
  { s.renameFirmware (fun w => if gone w then none else some w) with
    coreTlb := s.coreTlb.filter (fun x => x.1.die != d)
    quadTlb := s.quadTlb.filter (fun x => x.1 != d)
    walkCache := s.walkCache.filter (fun x => x.1 != d)
    l1 := s.l1.filter (fun l => l.core.die != d)
    icache := s.icache.filter (fun l => l.die != d)
    victims := s.victims.filter (fun l => l.core.die != d)
    strands := s.strands.filter (fun st => !(st.isFirmware && st.core.die == d))
    stopped := s.stopped.filter (fun c => c.die != d)
    budgets := s.budgets.filter (fun x => x.1.die != d)
    losses := s.losses.filter (fun x => x.1.die != d)
    thresholds := s.thresholds.filter (fun x => x.1.die != d)
    epochs := s.epochs.filter (fun x => x.1.die != d) }

/-- The links of the compute die at a position: to the cache die, and to its two neighbours in the ring. -/
def dieLinks (p : Nat) : List Nat := [p, 4 + p, 4 + (p + 3) % 4]

/-- A stopped die has retrained (R466): the modules disabled on its links are counted (R13); BUSY clears and its firmware slots start, or FAIL is set
and it stays stopped, as when its link to the cache die has no module left. `r` is whether it retrained, and the modules disabled by link. -/
def execDieResetRetrainDone (r : Bool × List Nat) (s : State) : Host.Outcome State Fault Refusal :=
  match s.dieReset with
  | none => .next s
  | some d =>
    if !s.dieStopped d then .next s
    else
      let p := s.phys d
      let s0 : State := { s.clearDie d with dieReset := none, deadDies := s.deadDies.filter (· != d) }
      let s1 := s0.trained (dieLinks p) r.2
      let s2 := (s1.setRegField .cap 22 16 s1.boot.ucOff.toNat).setRegField .dierst 31 31 0
      if r.1 && disabledOf r.2 p != 8 then .next (if (s.reg .bootst).getLsbD 31 then { s2 with strands := s2.strands ++ firmwareOf d } else s2)
      else .next (({ s2 with deadDies := d :: s2.deadDies } : State).setRegField .dierst 29 29 1)

/-! ### Power states and the thermal trip (R467, R468) -/

/-- The clock of a power state, in units of 0.05 GHz (R467, Table 6). -/
def clockOf (st : Nat) : Nat := match st with | 0 => 20 | 1 => 16 | 2 => 12 | 3 => 8 | _ => 0

/-- PWRCTL write (R467, R468): an accepted write waits for the switch of the clock, and clears TRIP. -/
def execPwrctlWrite (v : BitVec 32) (s : State) : Host.Outcome State Fault Refusal :=
  let old := s.reg .pwrctl
  let st := field v 3 0
  let cool := s.validDies.all (fun d => decide (field (s.reg (.therm d)) 8 0 + 20 ≤ field (s.reg (.therm d)) 23 16))
  let bad := field v 28 4 != 0 || decide (5 ≤ st) || (st == 4 && !s.gangs.isEmpty) || old.getLsbD 31 || (old.getLsbD 29 && !cool)
  if bad then .next (s.setReg .pwrctl (setField old 30 30 1))
  else
    let r := setField (setField old 31 31 1) 29 29 0
    .next { s.setReg .pwrctl (if v.getLsbD 30 then setField r 30 30 0 else r) with clockPending := some (BitVec.ofNat 4 st) }

/-- The clock switches (R467). -/
def execClockSwitch (s : State) : Host.Outcome State Fault Refusal :=
  match s.clockPending with
  | none => .next s
  | some st =>
    .next { (s.setRegField .pwrctl 3 0 st.toNat).setRegField .pwrctl 31 31 0 with clockPending := none, clock := clockOf st.toNat }

/-- TEMP of a die reaches its LIMIT (R468): the clock falls to 0.25 GHz, unless it is slower; a pending write ends in error. -/
def State.trip (s : State) (d : Die) : State :=
  let s1 := (s.setRegField (.therm d) 31 31 1).count (fun r => { r with trips := bumpRec r.trips })
  let r := setField (s1.reg .pwrctl) 29 29 1
  { s1.setReg .pwrctl (if s1.clockPending.isSome then setField (setField r 30 30 1) 31 31 0 else r) with
    clockPending := none
    clock := min s1.clock 5 }

/-- The hottest sensor of a die reads a temperature (R467, R468). -/
def State.setTemp (s : State) (d : Die) (temp : BitVec 9) : State :=
  let old := s.reg (.therm d)
  let limit := field old 23 16
  let s1 := s.setRegField (.therm d) 8 0 temp.toNat
  if decide (limit ≤ temp.toNat) && (decide (field old 8 0 < limit) || !(s.reg .pwrctl).getLsbD 29) then s1.trip d else s1

/-- Thermal trip (R468): a die's TEMP reaches its LIMIT. -/
def execThermalTrip (die : Die) (temp : BitVec 9) (s : State) : Host.Outcome State Fault Refusal :=
  if !s.dieValid die || decide (temp.toNat < field (s.reg (.therm die)) 23 16) then .next s
  else .next ((s.setRegField (.therm die) 8 0 temp.toNat).trip die)

/-- ALERT_N is driven low (R468). -/
def State.alert (s : State) : Bool := [(0 : Die), 1, 2, 3].any (fun d => (s.reg (.therm d)).getLsbD 31)

/-! ### Field records (R469) -/

/-- The field records are copied to the module's flash. -/
def execFieldRecordFlashCopy (s : State) : Host.Outcome State Fault Refusal := .next { s with flash := s.records }

/-- A bin of a histogram raised. -/
def bumpBin (l : List W64) (n : Nat) : List W64 := (List.range 16).map (fun i => if i == n then bumpRec (l.getD i 0) else l.getD i 0)

/-- The bin of a temperature in 0.5 °C units: 8 °C each from 40 °C, the outer ones open (R469, Table 7). -/
def tempBin (temp : Nat) : Nat := min 15 ((temp - 80) / 16)

/-- The sample of a second (R469): each die's TEMP in its bin, the core-rail current in its own, and a second of operation. -/
def execFieldRecordSample (temps : List (BitVec 9)) (amps : Nat) (s : State) : Host.Outcome State Fault Refusal :=
  let dies := s.validDies.zip temps
  let s1 := dies.foldl (fun (s : State) x => s.setTemp x.1 x.2) s
  .next (s1.count (fun r =>
    { r with
      temphist := dies.foldl (fun l x => bumpBin l (tempBin x.2.toNat)) r.temphist
      curhist := bumpBin r.curhist (min 15 (amps / 250))
      poweron := if s1.clock == 0 then r.poweron else bumpRec r.poweron }))

end Sys2Proof.Machine
end

