-- ==== Sys2Proof/Machine/ConfigSpace.lean ====
section
/-! DEFINITION. The configuration space (R4, R5): a write of any configuration register, and what a read gives. -/

namespace Sys2Proof.Machine

open Sys2Proof

/-- A write refused, with the ERR bit that stands at `bit` of a register (R4). -/
def State.refuseWrite (s : State) (r : CReg) (bit : Nat) : State := s.setRegField r bit bit 1

/-- The queue register that a header register belongs to is enabled (R108, R390). -/
def State.queueOn (s : State) (r : CReg) : Bool := (s.reg r).getLsbD 0

/-- CQHDRn or LQHDRn written: refused while the queue is enabled. -/
def State.writeHeader (s : State) (r ctl : CReg) (v : W64) : State :=
  if s.queueOn ctl || field v 63 57 != 0 || field v 5 0 != 0 then s.refuseWrite ctl 31 else s.setReg r v

/-- A register written whole unless a reserved bit is set; such a write leaves no record (R4). -/
def State.writePlain (s : State) (r : CReg) (v : W64) (reserved : Bool) : State := if reserved then s else s.setReg r v

/-- A field of a register taken over from the old value, and W1C bits. -/
def keepBits (old v : W64) (hi lo : Nat) : W64 := setField v hi lo (field old hi lo)
def w1c (old v : W64) (b : Nat) : W64 := setField v b b (if v.getLsbD b then 0 else field old b b)

/-- CTXCMD written (R438): an OP starts its command. -/
def State.writeCtxcmd (s : State) (v : W64) : State :=
  let old := s.reg .ctxcmd
  let op := field v 59 56
  let slot : Slot := BitVec.ofNat 4 (field v 55 52)
  let off := op != 6 && !(s.reg (.trbase slot)).getLsbD 63
  if old.getLsbD 63 || field v 61 60 != 0 || field v 27 0 != 0 || decide (8 ≤ op) || off then s.refuseWrite .ctxcmd 62
  else
    let s1 := s.setReg .ctxcmd (setField (w1c old v 62) 63 63 (if op == 0 then 0 else 1))
    if op == 0 then s1 else { s1 with ctxRun := some ⟨none, none, 4⟩ }

/-- A ZROUTE entry written (R448): where the number of ports in use changes while requests are outstanding, the ports are recomputed once they are
answered (R449). -/
def State.writeRoute (s : State) (d : BitVec 9) (v : W64) : State :=
  if field v 29 16 != 0 then s.refuseWrite .zpkg 31
  else
    let s1 := s.setReg (.zroute d) v
    if (s.portsTo d).length != (s1.portsTo d).length && !s1.settled d && !s1.routeStale.contains d then
      { s1 with routeStale := s1.routeStale ++ [d] }
    else s1

/-- THERMd written (R467): LIMIT, and TRIPEV cleared by writing one. -/
def State.writeTherm (s : State) (d : Die) (v : W64) : State :=
  if field v 30 24 != 0 || field v 15 9 != 0 then s
  else s.setReg (.therm d) (keepBits (s.reg (.therm d)) (w1c (s.reg (.therm d)) v 31) 8 0)

/-- FIXRING written (R436, Table 2). -/
def State.writeFixring (s : State) (d : Die) (q : Quad) (v : W64) : State :=
  let old := s.reg (.fixring d q)
  if field v 60 57 != 0 || field v 5 0 != 0 then s.refuseWrite (.fixring d q) 62
  else s.setReg (.fixring d q) (w1c old (w1c old v 62) 61)

/-- Configuration register write (R4, R5): each register by its own rules; 32-bit registers take the low half. -/
def execConfigRegisterWrite (r : CReg) (v : W64) (s0 : State) : Host.Outcome State Fault Refusal :=
  let s : State := { s0 with payer := none }
  let w : Word := v.setWidth 32
  let x : W64 := w.setWidth 64
  match r with
  | .vdmap => execVdmapWrite w s
  | .memerr d => execMemerrWrite d v s
  | .fwctl d n => execFwctlWrite d n w s
  | .fwbase d n => execFwBoundsWrite .base d n v s
  | .fwlimit d n => execFwBoundsWrite .limit d n v s
  | .fwscale d n => execFwBoundsWrite .scale d n v s
  | .trbase k => execTrbaseWrite k v s
  | .ftbase d => .next (if field v 63 37 != 0 || field v 15 0 != 0 then s.refuseWrite (.swctl d) 61 else s.setReg (.ftbase d) v)
  | .rqbase d => execReadyQueueRegisterWrite false d v s
  | .rqptr d => execReadyQueueRegisterWrite true d v s
  | .swctl d => execSwctlWrite d v s
  | .ubpart d => execUbpartWrite d w s
  | .ubrsv d k => execUbrsvWrite d k w s
  | .ubstat d => execUbstatWrite d w s
  | .cqctl d n => execCqctlWrite d n w s
  | .cqhdr d n => .next (s.writeHeader (.cqhdr d n) (.cqctl d n) v)
  | .raytab k => execRaytabWrite k v s
  | .lqctl n => execLqctlWrite n w s
  | .lqhdr n => .next (s.writeHeader (.lqhdr n) (.lqctl n) v)
  | .lqbud n => .next ((s.setReg (.lqbud n) v).exhaust n)
  | .lqref n => .next (s.setReg (.lqref n) v)
  | .head d => .next (s.setReg (.head d) (keepBits (s.reg (.head d)) x 15 0))
  | .hndbase k => .next (s.writePlain (.hndbase k) v (field v 1 0 != 0))
  | .sysmap k => .next (s.writePlain (.sysmap k) v (field v 38 0 != 0))
  | .fixring d q => .next (s.writeFixring d q v)
  | .ctxcmd => .next (s.writeCtxcmd v)
  | .ctxsave =>
    .next (if (s.reg .ctxcmd).getLsbD 63 || field v 63 57 != 0 || field v 6 0 != 0 then s.refuseWrite .ctxcmd 62 else s.setReg .ctxsave v)
  | .ctxstat k => .next (s.setReg (.ctxstat k) (w1c (s.reg (.ctxstat k)) (keepBits (s.reg (.ctxstat k)) v 62 0) 63))
  | .osctl k => execOsctlWrite k v s
  | .zpkg => execZpkgWrite w s
  | .zroute d => .next (s.writeRoute d x)
  | .ztmo => .next (s.writePlain .ztmo x (field x 31 20 != 0))
  | .zdown k => .next (s.setReg (.zdown k) (s.reg (.zdown k) &&& ~~~v))
  | .uinva => execUinvaWrite v s
  | .uinvb => .next (if field v 63 21 != 0 then s.refuseWrite .uinva 62 else s.setReg .uinvb v)
  | .uintstat => .next s
  | .uinten => .next (s.writePlain .uinten x (field x 31 8 != 0))
  | .bootst => if field w 28 16 == 0 && w.getLsbD 29 then execBootgoWrite s else .next s
  | .cap => .next s
  | .dierst => execDierstWrite w s
  | .pwrctl => execPwrctlWrite w s
  | .therm d => .next (s.writeTherm d x)
  | .vat d q n => execVaultAllocationWrite d q n w s
  | .sched c k => .next (s.setReg (.sched c k) v)

/-- What a read of a configuration register gives (R5): UINTSTAT reads its sources (R460). -/
def State.configRead (s : State) (r : CReg) : W64 :=
  match r with
  | .uintstat => s.uintstat.setWidth 64
  | _ => s.reg r

end Sys2Proof.Machine
end

