-- ==== Sys2Proof/Machine/Dispatch.lean ====
section
/-! DEFINITION. The dispatch of every step of the part to its meaning, one arm per row of the table of operations and events. -/

namespace Sys2Proof.Machine

open Sys2Proof

/-- The meaning of an instruction or event. -/
def exec (i : Instr) (s : State) : Host.Outcome State Fault Refusal :=
  match i with
  | .iadd a1 a2 a3 a4 => Sys2Proof.Machine.execIadd a1 a2 a3 a4 s
  | .iaddc a1 a2 a3 a4 => Sys2Proof.Machine.execIaddc a1 a2 a3 a4 s
  | .isub a1 a2 a3 a4 => Sys2Proof.Machine.execIsub a1 a2 a3 a4 s
  | .isubb a1 a2 a3 a4 => Sys2Proof.Machine.execIsubb a1 a2 a3 a4 s
  | .imul a1 a2 a3 a4 => Sys2Proof.Machine.execImul a1 a2 a3 a4 s
  | .imulh a1 a2 a3 a4 => Sys2Proof.Machine.execImulh a1 a2 a3 a4 s
  | .imulhn a1 a2 a3 a4 => Sys2Proof.Machine.execImulhn a1 a2 a3 a4 s
  | .imad a1 a2 a3 a4 => Sys2Proof.Machine.execImad a1 a2 a3 a4 s
  | .iabs a1 a2 a3 => Sys2Proof.Machine.execIabs a1 a2 a3 s
  | .imin a1 a2 a3 a4 => Sys2Proof.Machine.execImin a1 a2 a3 a4 s
  | .imax a1 a2 a3 a4 => Sys2Proof.Machine.execImax a1 a2 a3 a4 s
  | .iminn a1 a2 a3 a4 => Sys2Proof.Machine.execIminn a1 a2 a3 a4 s
  | .imaxn a1 a2 a3 a4 => Sys2Proof.Machine.execImaxn a1 a2 a3 a4 s
  | .icmp a1 a2 a3 a4 a5 => Sys2Proof.Machine.execIcmp a1 a2 a3 a4 a5 s
  | .selL a1 a2 a3 a4 => Sys2Proof.Machine.execSelL a1 a2 a3 a4 s
  | .andL a1 a2 a3 a4 => Sys2Proof.Machine.execAndL a1 a2 a3 a4 s
  | .orL a1 a2 a3 a4 => Sys2Proof.Machine.execOrL a1 a2 a3 a4 s
  | .xorL a1 a2 a3 a4 => Sys2Proof.Machine.execXorL a1 a2 a3 a4 s
  | .andn a1 a2 a3 a4 => Sys2Proof.Machine.execAndn a1 a2 a3 a4 s
  | .notL a1 a2 a3 => Sys2Proof.Machine.execNotL a1 a2 a3 s
  | .shl a1 a2 a3 a4 => Sys2Proof.Machine.execShl a1 a2 a3 a4 s
  | .shr a1 a2 a3 a4 => Sys2Proof.Machine.execShr a1 a2 a3 a4 s
  | .sra a1 a2 a3 a4 => Sys2Proof.Machine.execSra a1 a2 a3 a4 s
  | .rotl a1 a2 a3 a4 => Sys2Proof.Machine.execRotl a1 a2 a3 a4 s
  | .popc a1 a2 a3 => Sys2Proof.Machine.execPopc a1 a2 a3 s
  | .clz a1 a2 a3 => Sys2Proof.Machine.execClz a1 a2 a3 s
  | .ctz a1 a2 a3 => Sys2Proof.Machine.execCtz a1 a2 a3 s
  | .brev a1 a2 a3 => Sys2Proof.Machine.execBrev a1 a2 a3 s
  | .bfe a1 a2 a3 a4 => Sys2Proof.Machine.execBfe a1 a2 a3 a4 s
  | .bfes a1 a2 a3 a4 => Sys2Proof.Machine.execBfes a1 a2 a3 a4 s
  | .bfi a1 a2 a3 a4 => Sys2Proof.Machine.execBfi a1 a2 a3 a4 s
  | .mov a1 a2 a3 => Sys2Proof.Machine.execMov a1 a2 a3 s
  | .movw a1 a2 a3 => Sys2Proof.Machine.execMovw a1 a2 a3 s
  | .movi a1 a2 a3 => Sys2Proof.Machine.execMovi a1 a2 a3 s
  | .lid a1 a2 a3 => Sys2Proof.Machine.execLid a1 a2 a3 s
  | .fadd a1 a2 a3 a4 => Sys2Proof.Machine.execFadd a1 a2 a3 a4 s
  | .fsub a1 a2 a3 a4 => Sys2Proof.Machine.execFsub a1 a2 a3 a4 s
  | .fmul a1 a2 a3 a4 => Sys2Proof.Machine.execFmul a1 a2 a3 a4 s
  | .ffma a1 a2 a3 a4 => Sys2Proof.Machine.execFfma a1 a2 a3 a4 s
  | .fmin a1 a2 a3 a4 => Sys2Proof.Machine.execFmin a1 a2 a3 a4 s
  | .fmax a1 a2 a3 a4 => Sys2Proof.Machine.execFmax a1 a2 a3 a4 s
  | .fcmp a1 a2 a3 a4 a5 => Sys2Proof.Machine.execFcmp a1 a2 a3 a4 a5 s
  | .fdiv a1 a2 a3 a4 => Sys2Proof.Machine.execFdiv a1 a2 a3 a4 s
  | .frcp a1 a2 a3 => Sys2Proof.Machine.execFrcp a1 a2 a3 s
  | .frsq a1 a2 a3 => Sys2Proof.Machine.execFrsq a1 a2 a3 s
  | .fsqrt a1 a2 a3 => Sys2Proof.Machine.execFsqrt a1 a2 a3 s
  | .fexp2 a1 a2 a3 => Sys2Proof.Machine.execFexp2 a1 a2 a3 s
  | .flog2 a1 a2 a3 => Sys2Proof.Machine.execFlog2 a1 a2 a3 s
  | .fsinr a1 a2 a3 => Sys2Proof.Machine.execFsinr a1 a2 a3 s
  | .fcosr a1 a2 a3 => Sys2Proof.Machine.execFcosr a1 a2 a3 s
  | .frnd a1 a2 a3 => Sys2Proof.Machine.execFrnd a1 a2 a3 s
  | .ffrac a1 a2 a3 => Sys2Proof.Machine.execFfrac a1 a2 a3 s
  | .dadd a1 a2 a3 a4 => Sys2Proof.Machine.execDadd a1 a2 a3 a4 s
  | .dmul a1 a2 a3 a4 => Sys2Proof.Machine.execDmul a1 a2 a3 a4 s
  | .dfma a1 a2 a3 a4 => Sys2Proof.Machine.execDfma a1 a2 a3 a4 s
  | .hadd2 a1 a2 a3 a4 => Sys2Proof.Machine.execHadd2 a1 a2 a3 a4 s
  | .hmul2 a1 a2 a3 a4 => Sys2Proof.Machine.execHmul2 a1 a2 a3 a4 s
  | .hfma2 a1 a2 a3 a4 => Sys2Proof.Machine.execHfma2 a1 a2 a3 a4 s
  | .badd2 a1 a2 a3 a4 => Sys2Proof.Machine.execBadd2 a1 a2 a3 a4 s
  | .bmul2 a1 a2 a3 a4 => Sys2Proof.Machine.execBmul2 a1 a2 a3 a4 s
  | .bfma2 a1 a2 a3 a4 => Sys2Proof.Machine.execBfma2 a1 a2 a3 a4 s
  | .fdot2b a1 a2 a3 a4 => Sys2Proof.Machine.execFdot2b a1 a2 a3 a4 s
  | .cvt a1 a2 a3 a4 a5 => Sys2Proof.Machine.execCvt a1 a2 a3 a4 a5 s
  | .ddx a1 a2 a3 => Sys2Proof.Machine.execDdx a1 a2 a3 s
  | .ddy a1 a2 a3 => Sys2Proof.Machine.execDdy a1 a2 a3 s
  | .shfl a1 a2 a3 a4 => Sys2Proof.Machine.execShfl a1 a2 a3 a4 s
  | .shflUp a1 a2 a3 a4 => Sys2Proof.Machine.execShflUp a1 a2 a3 a4 s
  | .shflDown a1 a2 a3 a4 => Sys2Proof.Machine.execShflDown a1 a2 a3 a4 s
  | .shflXor a1 a2 a3 a4 => Sys2Proof.Machine.execShflXor a1 a2 a3 a4 s
  | .bcast a1 a2 a3 a4 => Sys2Proof.Machine.execBcast a1 a2 a3 a4 s
  | .vany a1 a2 a3 => Sys2Proof.Machine.execVany a1 a2 a3 s
  | .vall a1 a2 a3 => Sys2Proof.Machine.execVall a1 a2 a3 s
  | .ballot a1 a2 a3 => Sys2Proof.Machine.execBallot a1 a2 a3 s
  | .redadd a1 a2 a3 => Sys2Proof.Machine.execRedadd a1 a2 a3 s
  | .redfadd a1 a2 a3 => Sys2Proof.Machine.execRedfadd a1 a2 a3 s
  | .redmin a1 a2 a3 => Sys2Proof.Machine.execRedmin a1 a2 a3 s
  | .redmax a1 a2 a3 => Sys2Proof.Machine.execRedmax a1 a2 a3 s
  | .redminIdx a1 a2 a3 a4 => Sys2Proof.Machine.execRedminIdx a1 a2 a3 a4 s
  | .redmaxIdx a1 a2 a3 a4 => Sys2Proof.Machine.execRedmaxIdx a1 a2 a3 a4 s
  | .scanadd a1 a2 a3 => Sys2Proof.Machine.execScanadd a1 a2 a3 s
  | .mcount a1 a2 a3 => Sys2Proof.Machine.execMcount a1 a2 a3 s
  | .regroup a1 a2 a3 a4 => Sys2Proof.Machine.execRegroup a1 a2 a3 a4 s
  | .ldB8 a1 a2 a3 a4 a5 => Sys2Proof.Machine.execLdB8 a1 a2 a3 a4 a5 s
  | .ldB16 a1 a2 a3 a4 a5 => Sys2Proof.Machine.execLdB16 a1 a2 a3 a4 a5 s
  | .ldB32 a1 a2 a3 a4 a5 => Sys2Proof.Machine.execLdB32 a1 a2 a3 a4 a5 s
  | .ldB64 a1 a2 a3 a4 a5 => Sys2Proof.Machine.execLdB64 a1 a2 a3 a4 a5 s
  | .ldB128 a1 a2 a3 a4 a5 => Sys2Proof.Machine.execLdB128 a1 a2 a3 a4 a5 s
  | .stB8 a1 a2 a3 a4 a5 => Sys2Proof.Machine.execStB8 a1 a2 a3 a4 a5 s
  | .stB16 a1 a2 a3 a4 a5 => Sys2Proof.Machine.execStB16 a1 a2 a3 a4 a5 s
  | .stB32 a1 a2 a3 a4 a5 => Sys2Proof.Machine.execStB32 a1 a2 a3 a4 a5 s
  | .stB64 a1 a2 a3 a4 a5 => Sys2Proof.Machine.execStB64 a1 a2 a3 a4 a5 s
  | .stB128 a1 a2 a3 a4 a5 => Sys2Proof.Machine.execStB128 a1 a2 a3 a4 a5 s
  | .pf a1 a2 a3 a4 => Sys2Proof.Machine.execPf a1 a2 a3 a4 s
  | .atomB32 a1 a2 a3 a4 a5 => Sys2Proof.Machine.execAtomB32 a1 a2 a3 a4 a5 s
  | .atomB64 a1 a2 a3 a4 a5 => Sys2Proof.Machine.execAtomB64 a1 a2 a3 a4 a5 s
  | .atomCasB32 a1 a2 a3 a4 a5 => Sys2Proof.Machine.execAtomCasB32 a1 a2 a3 a4 a5 s
  | .atomCasB64 a1 a2 a3 a4 a5 => Sys2Proof.Machine.execAtomCasB64 a1 a2 a3 a4 a5 s
  | .atomCas128 a1 a2 a3 a4 a5 => Sys2Proof.Machine.execAtomCas128 a1 a2 a3 a4 a5 s
  | .redB32 a1 a2 a3 a4 a5 => Sys2Proof.Machine.execRedB32 a1 a2 a3 a4 a5 s
  | .redB64 a1 a2 a3 a4 a5 => Sys2Proof.Machine.execRedB64 a1 a2 a3 a4 a5 s
  | .redF a1 a2 a3 a4 a5 a6 => Sys2Proof.Machine.execRedF a1 a2 a3 a4 a5 a6 s
  | .redFFtz a1 a2 a3 a4 a5 a6 => Sys2Proof.Machine.execRedFFtz a1 a2 a3 a4 a5 a6 s
  | .redFPair a1 a2 a3 a4 a5 => Sys2Proof.Machine.execRedFPair a1 a2 a3 a4 a5 s
  | .rsvinit a1 a2 => Sys2Proof.Machine.execRsvinit a1 a2 s
  | .rsvupd a1 a2 a3 a4 => Sys2Proof.Machine.execRsvupd a1 a2 a3 a4 s
  | .rsvmrg a1 a2 a3 a4 => Sys2Proof.Machine.execRsvmrg a1 a2 a3 a4 s
  | .rsvnrm a1 a2 => Sys2Proof.Machine.execRsvnrm a1 a2 s
  | .rsvld a1 a2 a3 a4 a5 => Sys2Proof.Machine.execRsvld a1 a2 a3 a4 a5 s
  | .rsvst a1 a2 a3 a4 a5 => Sys2Proof.Machine.execRsvst a1 a2 a3 a4 a5 s
  | .trace a1 a2 a3 a4 => Sys2Proof.Machine.execTrace a1 a2 a3 a4 s
  | .traceocc a1 a2 a3 a4 => Sys2Proof.Machine.execTraceocc a1 a2 a3 a4 s
  | .trres a1 a2 a3 a4 => Sys2Proof.Machine.execTrres a1 a2 a3 a4 s
  | .ltwalk a1 a2 a3 a4 => Sys2Proof.Machine.execLtwalk a1 a2 a3 a4 s
  | .rng a1 a2 a3 a4 => Sys2Proof.Machine.execRng a1 a2 a3 a4 s
  | .osenter a1 a2 a3 => Sys2Proof.Machine.execOsenter a1 a2 a3 s
  | .osenterAny a1 a2 a3 a4 => Sys2Proof.Machine.execOsenterAny a1 a2 a3 a4 s
  | .osleave a1 a2 a3 => Sys2Proof.Machine.execOsleave a1 a2 a3 s
  | .emit a1 a2 a3 a4 a5 => Sys2Proof.Machine.execEmit a1 a2 a3 a4 a5 s
  | .sadd a1 a2 a3 a4 a5 => Sys2Proof.Machine.execSadd a1 a2 a3 a4 a5 s
  | .ssub a1 a2 a3 a4 a5 => Sys2Proof.Machine.execSsub a1 a2 a3 a4 a5 s
  | .smul a1 a2 a3 a4 a5 => Sys2Proof.Machine.execSmul a1 a2 a3 a4 a5 s
  | .smulh a1 a2 a3 a4 a5 => Sys2Proof.Machine.execSmulh a1 a2 a3 a4 a5 s
  | .sand a1 a2 a3 a4 a5 => Sys2Proof.Machine.execSand a1 a2 a3 a4 a5 s
  | .sor a1 a2 a3 a4 a5 => Sys2Proof.Machine.execSor a1 a2 a3 a4 a5 s
  | .sxor a1 a2 a3 a4 a5 => Sys2Proof.Machine.execSxor a1 a2 a3 a4 a5 s
  | .sshl a1 a2 a3 a4 a5 => Sys2Proof.Machine.execSshl a1 a2 a3 a4 a5 s
  | .sshr a1 a2 a3 a4 a5 => Sys2Proof.Machine.execSshr a1 a2 a3 a4 a5 s
  | .ssra a1 a2 a3 a4 a5 => Sys2Proof.Machine.execSsra a1 a2 a3 a4 a5 s
  | .smin a1 a2 a3 a4 a5 a6 => Sys2Proof.Machine.execSmin a1 a2 a3 a4 a5 a6 s
  | .smax a1 a2 a3 a4 a5 a6 => Sys2Proof.Machine.execSmax a1 a2 a3 a4 a5 a6 s
  | .scmp a1 a2 a3 a4 a5 a6 => Sys2Proof.Machine.execScmp a1 a2 a3 a4 a5 a6 s
  | .ssel a1 a2 a3 a4 a5 => Sys2Proof.Machine.execSsel a1 a2 a3 a4 a5 s
  | .smov a1 a2 a3 a4 => Sys2Proof.Machine.execSmov a1 a2 a3 a4 s
  | .sli a1 a2 a3 => Sys2Proof.Machine.execSli a1 a2 a3 s
  | .slih a1 a2 a3 => Sys2Proof.Machine.execSlih a1 a2 a3 s
  | .spopc a1 a2 a3 => Sys2Proof.Machine.execSpopc a1 a2 a3 s
  | .sclz a1 a2 a3 => Sys2Proof.Machine.execSclz a1 a2 a3 s
  | .sbfe a1 a2 a3 a4 a5 => Sys2Proof.Machine.execSbfe a1 a2 a3 a4 a5 s
  | .sfadd a1 a2 a3 a4 => Sys2Proof.Machine.execSfadd a1 a2 a3 a4 s
  | .sfmul a1 a2 a3 a4 => Sys2Proof.Machine.execSfmul a1 a2 a3 a4 s
  | .sffma a1 a2 a3 a4 => Sys2Proof.Machine.execSffma a1 a2 a3 a4 s
  | .sfmin a1 a2 a3 a4 => Sys2Proof.Machine.execSfmin a1 a2 a3 a4 s
  | .sfmax a1 a2 a3 a4 => Sys2Proof.Machine.execSfmax a1 a2 a3 a4 s
  | .sfcmp a1 a2 a3 a4 a5 => Sys2Proof.Machine.execSfcmp a1 a2 a3 a4 a5 s
  | .sfrcp a1 a2 a3 => Sys2Proof.Machine.execSfrcp a1 a2 a3 s
  | .sfsqrt a1 a2 a3 => Sys2Proof.Machine.execSfsqrt a1 a2 a3 s
  | .sfcvt a1 a2 a3 a4 a5 => Sys2Proof.Machine.execSfcvt a1 a2 a3 a4 a5 s
  | .sld a1 a2 a3 a4 => Sys2Proof.Machine.execSld a1 a2 a3 a4 s
  | .sst a1 a2 a3 a4 => Sys2Proof.Machine.execSst a1 a2 a3 a4 s
  | .satom a1 a2 a3 a4 => Sys2Proof.Machine.execSatom a1 a2 a3 a4 s
  | .recld a1 a2 a3 => Sys2Proof.Machine.execRecld a1 a2 a3 s
  | .recst a1 a2 a3 => Sys2Proof.Machine.execRecst a1 a2 a3 s
  | .br a1 => Sys2Proof.Machine.execBr a1 s
  | .brw a1 a2 a3 => Sys2Proof.Machine.execBrw a1 a2 a3 s
  | .brany a1 a2 => Sys2Proof.Machine.execBrany a1 a2 s
  | .brall a1 a2 => Sys2Proof.Machine.execBrall a1 a2 s
  | .brnone a1 a2 => Sys2Proof.Machine.execBrnone a1 a2 s
  | .callU a1 => Sys2Proof.Machine.execCallU a1 s
  | .ret a1 a2 => Sys2Proof.Machine.execRet a1 a2 s
  | .jmpw a1 a2 a3 => Sys2Proof.Machine.execJmpw a1 a2 a3 s
  | .loopW a1 a2 => Sys2Proof.Machine.execLoopW a1 a2 s
  | .exitL a1 => Sys2Proof.Machine.execExitL a1 s
  | .yield a1 => Sys2Proof.Machine.execYield a1 s
  | .sleep a1 a2 => Sys2Proof.Machine.execSleep a1 a2 s
  | .nop a1 => Sys2Proof.Machine.execNop a1 s
  | .trapU a1 a2 => Sys2Proof.Machine.execTrapU a1 a2 s
  | .mand a1 a2 a3 a4 => Sys2Proof.Machine.execMand a1 a2 a3 a4 s
  | .mor a1 a2 a3 a4 => Sys2Proof.Machine.execMor a1 a2 a3 a4 s
  | .mxor a1 a2 a3 a4 => Sys2Proof.Machine.execMxor a1 a2 a3 a4 s
  | .mandn a1 a2 a3 a4 => Sys2Proof.Machine.execMandn a1 a2 a3 a4 s
  | .mnot a1 a2 a3 => Sys2Proof.Machine.execMnot a1 a2 a3 s
  | .mmov a1 a2 a3 => Sys2Proof.Machine.execMmov a1 a2 a3 s
  | .mtow a1 a2 a3 => Sys2Proof.Machine.execMtow a1 a2 a3 s
  | .wtom a1 a2 a3 => Sys2Proof.Machine.execWtom a1 a2 a3 s
  | .mpopc a1 a2 a3 => Sys2Proof.Machine.execMpopc a1 a2 a3 s
  | .mffs a1 a2 a3 => Sys2Proof.Machine.execMffs a1 a2 a3 s
  | .srd a1 a2 a3 => Sys2Proof.Machine.execSrd a1 a2 a3 s
  | .swr a1 a2 a3 => Sys2Proof.Machine.execSwr a1 a2 a3 s
  | .rfe a1 => Sys2Proof.Machine.execRfe a1 s
  | .tlbinv a1 a2 a3 a4 a5 => Sys2Proof.Machine.execTlbinv a1 a2 a3 a4 a5 s
  | .frpop a1 a2 a3 => Sys2Proof.Machine.execFrpop a1 a2 a3 s
  | .cflush a1 a2 a3 a4 => Sys2Proof.Machine.execCflush a1 a2 a3 a4 s
  | .ubres a1 a2 a3 a4 => Sys2Proof.Machine.execUbres a1 a2 a3 a4 s
  | .ubdisc a1 a2 a3 a4 a5 => Sys2Proof.Machine.execUbdisc a1 a2 a3 a4 a5 s
  | .ubmig a1 a2 a3 a4 a5 => Sys2Proof.Machine.execUbmig a1 a2 a3 a4 a5 s
  | .roleget a1 a2 a3 => Sys2Proof.Machine.execRoleget a1 a2 a3 s
  | .fence a1 a2 a3 => Sys2Proof.Machine.execFence a1 a2 a3 s
  | .acq a1 a2 a3 a4 => Sys2Proof.Machine.execAcq a1 a2 a3 a4 s
  | .rel a1 a2 a3 a4 a5 => Sys2Proof.Machine.execRel a1 a2 a3 a4 a5 s
  | .bind a1 a2 a3 a4 a5 => Sys2Proof.Machine.execBind a1 a2 a3 a4 a5 s
  | .unbind a1 a2 a3 a4 a5 => Sys2Proof.Machine.execUnbind a1 a2 a3 a4 a5 s
  | .bar a1 a2 a3 => Sys2Proof.Machine.execBar a1 a2 a3 s
  | .tbarArrive a1 a2 a3 a4 a5 => Sys2Proof.Machine.execTbarArrive a1 a2 a3 a4 a5 s
  | .tbarExpect a1 a2 a3 => Sys2Proof.Machine.execTbarExpect a1 a2 a3 s
  | .tbarWait a1 a2 a3 a4 => Sys2Proof.Machine.execTbarWait a1 a2 a3 a4 s
  | .waitc a1 a2 a3 a4 a5 a6 => Sys2Proof.Machine.execWaitc a1 a2 a3 a4 a5 a6 s
  | .leaseW a1 a2 => Sys2Proof.Machine.execLeaseW a1 a2 s
  | .ipf a1 a2 a3 => Sys2Proof.Machine.execIpf a1 a2 a3 s
  | .cqput a1 a2 a3 a4 => Sys2Proof.Machine.execCqput a1 a2 a3 a4 s
  | .cseal a1 a2 => Sys2Proof.Machine.execCseal a1 a2 s
  | .cwait a1 a2 a3 => Sys2Proof.Machine.execCwait a1 a2 a3 s
  | .ringawait a1 a2 a3 => Sys2Proof.Machine.execRingawait a1 a2 a3 s
  | .ringrel a1 a2 a3 => Sys2Proof.Machine.execRingrel a1 a2 a3 s
  | .ringpeek a1 a2 a3 => Sys2Proof.Machine.execRingpeek a1 a2 a3 s
  | .halox a1 a2 a3 a4 => Sys2Proof.Machine.execHalox a1 a2 a3 a4 s
  | .twl a1 a2 a3 => Sys2Proof.Machine.execTwl a1 a2 a3 s
  | .twlwait a1 a2 a3 => Sys2Proof.Machine.execTwlwait a1 a2 a3 s
  | .malloc a1 a2 a3 => Sys2Proof.Machine.execMalloc a1 a2 a3 s
  | .mfree a1 a2 => Sys2Proof.Machine.execMfree a1 a2 s
  | .mz a1 a2 => Sys2Proof.Machine.execMz a1 a2 s
  | .mma a1 a2 a3 a4 => Sys2Proof.Machine.execMma a1 a2 a3 a4 s
  | .mmaGath a1 a2 a3 a4 => Sys2Proof.Machine.execMmaGath a1 a2 a3 a4 s
  | .mmaImg a1 a2 a3 a4 => Sys2Proof.Machine.execMmaImg a1 a2 a3 a4 s
  | .mdrain a1 a2 a3 a4 a5 => Sys2Proof.Machine.execMdrain a1 a2 a3 a4 a5 s
  | .mdrainFrz a1 a2 a3 a4 => Sys2Proof.Machine.execMdrainFrz a1 a2 a3 a4 s
  | .mdrainFrzq a1 a2 a3 a4 => Sys2Proof.Machine.execMdrainFrzq a1 a2 a3 a4 s
  | .mload a1 a2 a3 a4 a5 => Sys2Proof.Machine.execMload a1 a2 a3 a4 a5 s
  | .mloadFrz a1 a2 a3 a4 a5 => Sys2Proof.Machine.execMloadFrz a1 a2 a3 a4 a5 s
  | .mloadFrzq a1 a2 a3 a4 => Sys2Proof.Machine.execMloadFrzq a1 a2 a3 a4 s
  | .msync a1 a2 => Sys2Proof.Machine.execMsync a1 a2 s
  | .moduleReset => Sys2Proof.Machine.execModuleReset s
  | .ucieTrainingDone a1 a2 => Sys2Proof.Machine.execUcieTrainingDone a1 a2 s
  | .dieAuthenticationDone a1 a2 a3 => Sys2Proof.Machine.execDieAuthenticationDone a1 a2 a3 s
  | .memoryTrainingDone a1 => Sys2Proof.Machine.execMemoryTrainingDone a1 s
  | .bootgoWrite => Sys2Proof.Machine.execBootgoWrite s
  | .imageVerificationDone => Sys2Proof.Machine.execImageVerificationDone s
  | .configRegisterWrite a1 a2 => Sys2Proof.Machine.execConfigRegisterWrite a1 a2 s
  | .vdmapWrite a1 => Sys2Proof.Machine.execVdmapWrite a1 s
  | .ucieFlitCrcFail a1 a2 a3 => Sys2Proof.Machine.execUcieFlitCrcFail a1 a2 a3 s
  | .gddr7ReadComplete a1 a2 a3 a4 => Sys2Proof.Machine.execGddr7ReadComplete a1 a2 a3 a4 s
  | .gddr7WriteComplete a1 a2 a3 a4 => Sys2Proof.Machine.execGddr7WriteComplete a1 a2 a3 a4 s
  | .memerrWrite a1 a2 => Sys2Proof.Machine.execMemerrWrite a1 a2 s
  | .fwctlWrite a1 a2 a3 => Sys2Proof.Machine.execFwctlWrite a1 a2 a3 s
  | .fwctlEnableComplete a1 a2 => Sys2Proof.Machine.execFwctlEnableComplete a1 a2 s
  | .fwBoundsWrite a1 a2 a3 a4 => Sys2Proof.Machine.execFwBoundsWrite a1 a2 a3 a4 s
  | .l2FillUnpinResume a1 a2 => Sys2Proof.Machine.execL2FillUnpinResume a1 a2 s
  | .homeRead a1 => Sys2Proof.Machine.execHomeRead a1 s
  | .homeWrite a1 => Sys2Proof.Machine.execHomeWrite a1 s
  | .homeAtomic a1 => Sys2Proof.Machine.execHomeAtomic a1 s
  | .homeReduction a1 => Sys2Proof.Machine.execHomeReduction a1 s
  | .walkComplete a1 => Sys2Proof.Machine.execWalkComplete a1 s
  | .trbaseWrite a1 a2 => Sys2Proof.Machine.execTrbaseWrite a1 a2 s
  | .invalidationRoundReceive a1 a2 => Sys2Proof.Machine.execInvalidationRoundReceive a1 a2 s
  | .roundAgentAcknowledge a1 a2 => Sys2Proof.Machine.execRoundAgentAcknowledge a1 a2 s
  | .roundAckReceive a1 a2 => Sys2Proof.Machine.execRoundAckReceive a1 a2 s
  | .sweeperExamine a1 => Sys2Proof.Machine.execSweeperExamine a1 s
  | .swctlWrite a1 a2 => Sys2Proof.Machine.execSwctlWrite a1 a2 s
  | .readyQueueRegisterWrite a1 a2 a3 => Sys2Proof.Machine.execReadyQueueRegisterWrite a1 a2 a3 s
  | .ubpartWrite a1 a2 => Sys2Proof.Machine.execUbpartWrite a1 a2 s
  | .ubpartResizeComplete a1 => Sys2Proof.Machine.execUbpartResizeComplete a1 s
  | .ubrsvWrite a1 a2 a3 => Sys2Proof.Machine.execUbrsvWrite a1 a2 a3 s
  | .lateFrameAssignment a1 a2 a3 => Sys2Proof.Machine.execLateFrameAssignment a1 a2 a3 s
  | .ubstatWrite a1 a2 => Sys2Proof.Machine.execUbstatWrite a1 a2 s
  | .monitorArm a1 => Sys2Proof.Machine.execMonitorArm a1 s
  | .monitorWakeDelivery a1 => Sys2Proof.Machine.execMonitorWakeDelivery a1 s
  | .monitorRearm a1 => Sys2Proof.Machine.execMonitorRearm a1 s
  | .monitorCancel a1 => Sys2Proof.Machine.execMonitorCancel a1 s
  | .waitcTimeout a1 => Sys2Proof.Machine.execWaitcTimeout a1 s
  | .keyTableRequest a1 => Sys2Proof.Machine.execKeyTableRequest a1 s
  | .keyTableLeave a1 => Sys2Proof.Machine.execKeyTableLeave a1 s
  | .keyTableWithdraw a1 => Sys2Proof.Machine.execKeyTableWithdraw a1 s
  | .sectionGrantDelivery a1 => Sys2Proof.Machine.execSectionGrantDelivery a1 s
  | .keyRequestRetry a1 => Sys2Proof.Machine.execKeyRequestRetry a1 s
  | .keyEntryStall a1 a2 => Sys2Proof.Machine.execKeyEntryStall a1 a2 s
  | .osctlWrite a1 a2 => Sys2Proof.Machine.execOsctlWrite a1 a2 s
  | .vaultAccess a1 a2 => Sys2Proof.Machine.execVaultAccess a1 a2 s
  | .vaultAllocationWrite a1 a2 a3 a4 => Sys2Proof.Machine.execVaultAllocationWrite a1 a2 a3 a4 s
  | .instructionLineArrival a1 => Sys2Proof.Machine.execInstructionLineArrival a1 s
  | .deferredResultArrival a1 => Sys2Proof.Machine.execDeferredResultArrival a1 s
  | .cqctlWrite a1 a2 a3 => Sys2Proof.Machine.execCqctlWrite a1 a2 a3 s
  | .cqDisableComplete a1 a2 => Sys2Proof.Machine.execCqDisableComplete a1 a2 s
  | .copyEntryTake a1 a2 => Sys2Proof.Machine.execCopyEntryTake a1 a2 s
  | .copyPacketStart a1 a2 => Sys2Proof.Machine.execCopyPacketStart a1 a2 s
  | .copySegment a1 a2 a3 => Sys2Proof.Machine.execCopySegment a1 a2 a3 s
  | .fixupAnswer a1 a2 a3 => Sys2Proof.Machine.execFixupAnswer a1 a2 a3 s
  | .copyFixupReplay a1 a2 => Sys2Proof.Machine.execCopyFixupReplay a1 a2 s
  | .copymmaCommandIssue a1 a2 => Sys2Proof.Machine.execCopymmaCommandIssue a1 a2 s
  | .copyPacketComplete a1 a2 => Sys2Proof.Machine.execCopyPacketComplete a1 a2 s
  | .matrixCommandEnter a1 => Sys2Proof.Machine.execMatrixCommandEnter a1 s
  | .matrixFetchSegment a1 a2 a3 a4 => Sys2Proof.Machine.execMatrixFetchSegment a1 a2 a3 a4 s
  | .matrixEntryApply a1 a2 => Sys2Proof.Machine.execMatrixEntryApply a1 a2 s
  | .matrixEntryAged a1 a2 a3 => Sys2Proof.Machine.execMatrixEntryAged a1 a2 a3 s
  | .raytabWrite a1 a2 => Sys2Proof.Machine.execRaytabWrite a1 a2 s
  | .rayLaneComplete a1 a2 => Sys2Proof.Machine.execRayLaneComplete a1 a2 s
  | .lightWalkLaneComplete a1 a2 => Sys2Proof.Machine.execLightWalkLaneComplete a1 a2 s
  | .twillOperationStart a1 a2 a3 => Sys2Proof.Machine.execTwillOperationStart a1 a2 a3 s
  | .twillPixel a1 a2 a3 => Sys2Proof.Machine.execTwillPixel a1 a2 a3 s
  | .twillCallableBatch a1 a2 a3 => Sys2Proof.Machine.execTwillCallableBatch a1 a2 a3 s
  | .twillOperationComplete a1 a2 a3 => Sys2Proof.Machine.execTwillOperationComplete a1 a2 a3 s
  | .tbarUpdate a1 => Sys2Proof.Machine.execTbarUpdate a1 s
  | .tbarVaultPoll a1 => Sys2Proof.Machine.execTbarVaultPoll a1 s
  | .lqctlWrite a1 a2 => Sys2Proof.Machine.execLqctlWrite a1 a2 s
  | .launchEntryTake a1 => Sys2Proof.Machine.execLaunchEntryTake a1 s
  | .headPublish a1 => Sys2Proof.Machine.execHeadPublish a1 s
  | .gangPlacement a1 a2 => Sys2Proof.Machine.execGangPlacement a1 a2 s
  | .coResidentPlacement a1 => Sys2Proof.Machine.execCoResidentPlacement a1 s
  | .gangRetirement a1 a2 => Sys2Proof.Machine.execGangRetirement a1 a2 s
  | .launchCompletion a1 => Sys2Proof.Machine.execLaunchCompletion a1 s
  | .jouleCharge a1 => Sys2Proof.Machine.execJouleCharge a1 s
  | .budgetRefill a1 => Sys2Proof.Machine.execBudgetRefill a1 s
  | .nodeTimerExpiry a1 a2 => Sys2Proof.Machine.execNodeTimerExpiry a1 a2 s
  | .epochEnd a1 => Sys2Proof.Machine.execEpochEnd a1 s
  | .strandAdmission a1 => Sys2Proof.Machine.execStrandAdmission a1 s
  | .forcedRotation a1 => Sys2Proof.Machine.execForcedRotation a1 s
  | .sleepExpiry a1 => Sys2Proof.Machine.execSleepExpiry a1 s
  | .ctxFreeze => Sys2Proof.Machine.execCtxFreeze s
  | .ctxThaw => Sys2Proof.Machine.execCtxThaw s
  | .ctxSwapOut => Sys2Proof.Machine.execCtxSwapOut s
  | .ctxSwapIn => Sys2Proof.Machine.execCtxSwapIn s
  | .ctxSave => Sys2Proof.Machine.execCtxSave s
  | .ctxRestore => Sys2Proof.Machine.execCtxRestore s
  | .ctxKill => Sys2Proof.Machine.execCtxKill s
  | .ctxCommandDone => Sys2Proof.Machine.execCtxCommandDone s
  | .zotanFlitCrcFail a1 a2 => Sys2Proof.Machine.execZotanFlitCrcFail a1 a2 s
  | .zotanPortDown a1 => Sys2Proof.Machine.execZotanPortDown a1 s
  | .routeRecompute a1 => Sys2Proof.Machine.execRouteRecompute a1 s
  | .zotanReadRequest a1 a2 => Sys2Proof.Machine.execZotanReadRequest a1 a2 s
  | .zotanPostedWrite a1 a2 => Sys2Proof.Machine.execZotanPostedWrite a1 a2 s
  | .zotanPostedReduction a1 a2 => Sys2Proof.Machine.execZotanPostedReduction a1 a2 s
  | .zotanAtomic a1 a2 => Sys2Proof.Machine.execZotanAtomic a1 a2 s
  | .zotanReadReply a1 a2 => Sys2Proof.Machine.execZotanReadReply a1 a2 s
  | .zotanWriteAck a1 a2 => Sys2Proof.Machine.execZotanWriteAck a1 a2 s
  | .zotanFaultReply a1 a2 => Sys2Proof.Machine.execZotanFaultReply a1 a2 s
  | .zotanInvalidationRound a1 a2 => Sys2Proof.Machine.execZotanInvalidationRound a1 a2 s
  | .zotanRoundAck a1 a2 => Sys2Proof.Machine.execZotanRoundAck a1 a2 s
  | .zotanDownDeclaration a1 a2 => Sys2Proof.Machine.execZotanDownDeclaration a1 a2 s
  | .zotanMonitorArm a1 a2 => Sys2Proof.Machine.execZotanMonitorArm a1 a2 s
  | .zotanMonitorWake a1 a2 => Sys2Proof.Machine.execZotanMonitorWake a1 a2 s
  | .zotanMonitorCancel a1 a2 => Sys2Proof.Machine.execZotanMonitorCancel a1 a2 s
  | .zotanRequestTimeout a1 => Sys2Proof.Machine.execZotanRequestTimeout a1 s
  | .zpkgWrite a1 => Sys2Proof.Machine.execZpkgWrite a1 s
  | .hostRead a1 a2 => Sys2Proof.Machine.execHostRead a1 a2 s
  | .hostWrite a1 a2 => Sys2Proof.Machine.execHostWrite a1 a2 s
  | .hostAtomic a1 a2 a3 a4 => Sys2Proof.Machine.execHostAtomic a1 a2 a3 a4 s
  | .uinvaWrite a1 => Sys2Proof.Machine.execUinvaWrite a1 s
  | .nonceWrite a1 => Sys2Proof.Machine.execNonceWrite a1 s
  | .dierstWrite a1 => Sys2Proof.Machine.execDierstWrite a1 s
  | .dieResetRetrainDone a1 => Sys2Proof.Machine.execDieResetRetrainDone a1 s
  | .pwrctlWrite a1 => Sys2Proof.Machine.execPwrctlWrite a1 s
  | .clockSwitch => Sys2Proof.Machine.execClockSwitch s
  | .thermalTrip a1 a2 => Sys2Proof.Machine.execThermalTrip a1 a2 s
  | .fieldRecordFlashCopy => Sys2Proof.Machine.execFieldRecordFlashCopy s
  | .fieldRecordSample a1 a2 => Sys2Proof.Machine.execFieldRecordSample a1 a2 s
  | .illegalInstructionWord => Sys2Proof.Machine.execIllegalInstructionWord s
  | .zotanPortUp a1 => Sys2Proof.Machine.execZotanPortUp a1 s
  | .zotanReservedPacket a1 a2 => Sys2Proof.Machine.execZotanReservedPacket a1 a2 s
  | .modulePowerLoss => Sys2Proof.Machine.execModulePowerLoss s

end Sys2Proof.Machine
end

