-- ==== Sys2Proof/Machine/Policy.lean ====
section
/-! DEFINITION. How an agent takes its turn, and which agent moves when the agenda is empty (log entry 8): pending work of the memory system and
of the engines first, then the strands, then admission and launches, and what waits for time last. -/

namespace Sys2Proof.Machine

open Sys2Proof

/-! ### Turns -/

/-- The charge of an instruction issued (R402, Table 7): 20,000 fJ for one of a per-lane form, 5,000 fJ for a uniform one. -/
def issueCharge (i : Instr) : Nat :=
  match (opInfo i).form with
  | .la | .lb | .lm => chargeLane
  | .event => 0
  | _ => chargeUniform

/-- No strand of the die issues: the clock is stopped or about to switch (R467), or the die is stopped (R466). -/
def State.issueStopped (s : State) (d : Die) : Bool :=
  (s.reg .pwrctl).getLsbD 31 || s.clock == 0 || s.deadDies.contains d || s.dieStopped d

/-- The strand's gang is frozen, and it has reached its boundary (R435). -/
def State.freezesNow (s : State) (st : Strand) : Bool :=
  st.rptAt == 0 && s.gangs.any (fun g => g.ctx == st.who.ctx && g.gang == st.who.gang && g.frozen)

/-- The strand waits, and issues the sequence again: it has not issued it yet (R124, R148). -/
def Strand.issuesAgain (before after : Strand) : Bool :=
  after.pc == before.pc && after.rptAt == before.rptAt
    && (match after.park with
      | none => false
      | some p =>
        after.waiting.isNone || p == .ring || p == .cqput || p == .emit || p == .exit || (p == .remote && after.remote.isNone)
          || (match p, after.waiting with | .twl, some (.twl ..) => true | _, _ => false))

/-- The strand has issued the instruction (R143, R148, R402): it has passed the checks of R148, and no wait makes it issue again. -/
def State.hasIssued (t : State) (st : Strand) (i : Instr) : Bool :=
  st.owed.isNone && (match verdict i st with | .go _ | .empty => true | _ => false)
    && !t.strands.any (fun x => x.who == st.who && st.issuesAgain x)

/-- What is left of an iteration of a strand, once it is charged (R402): one that only waits is charged when it issues. -/
def State.chargeIssue (s : State) (st : Strand) (i : Instr) (o : Host.Outcome State Fault Refusal) : Host.Outcome State Fault Refusal :=
  match o with
  | .next t => .next (if issueCharge i != 0 && t.hasIssued st i then ({ t with payer := s.payer } : State).pay (issueCharge i) else t)
  | x => x

/-- A strand whose fetch has met an access that cannot be performed is held until it can be made (R73, R466). -/
def State.heldFetch (s t : State) (idx : Nat) : State :=
  { s.modStrand idx (fun st => st.hold (.way (t.stalled.headD 0))) with lost := t.lost, lostVault := t.lostVault }

/-- A strand issues: its sequence is fetched, executed and charged. One that its queue's budget holds is dropped instead (R403), and one whose gang
is frozen freezes (R435). -/
def State.issueTurn (s : State) (idx : Nat) : Host.Outcome State Fault Refusal :=
  match s.strands[idx]? with
  | none => .next s
  | some st =>
    if st.state != .active || s.issueStopped st.core.die then .next s
    else if s.freezesNow st then .next (s.modStrand idx Strand.freeze)
    else if !st.isFirmware && s.budgetHeld st then .next (s.dropStrand idx .drop)
    else
      match s.fetchFor idx with
      | (s1, none) => .next (if s1.stalled == s.stalled then s1 else s.heldFetch s1 idx)
      | (s1, some i) => if s1.stalled == s.stalled then s1.chargeIssue st i (exec i s1) else .next (s.heldFetch s1 idx)

/-- What the event at hand leaves for its end: one that has met an access that cannot be performed is undone (R73, R466), and the errors that it has
met are settled (R24, R93). -/
def endTurn (before : State) (o : Host.Outcome State Fault Refusal) : Host.Outcome State Fault Refusal :=
  match o with
  | .next s =>
    if s.stalled != before.stalled then .next ({ before with lost := s.lost, lostVault := s.lostVault } : State).settleLost
    else .next (if s.lost.isEmpty && s.lostVault.isEmpty then s else s.settleLost)
  | x => x

/-! ### Time and epochs (R405, R406) -/

/-- The cores that an epoch's end can change anything of. -/
def State.epochCores (s : State) : List CoreId :=
  ((s.strands.filter (fun st => !st.isFirmware)).map (fun st => st.core) ++ s.losses.map (·.1) ++ s.budgets.map (·.1)).eraseDups

/-- A multiple of 4,096 cycles comes: the epoch of every core ends. -/
def State.epochsEnd (s : State) (now : Nat) : State :=
  ((s.epochCores.filter (fun c => decide (coreGet s.epochs 0 c < now / 4096)))).foldl (fun s c => s.endEpoch c) { s with cycle := now }

/-- The multiples of 4,096 cycles that come, `n` of them. -/
def State.epochsPass : Nat → State → State
  | 0, s => s
  | n + 1, s => State.epochsPass n (s.epochsEnd ((s.cycle / 4096 + 1) * 4096))

/-- Cycles pass until a cycle, and epochs end on the way (R130, R405). -/
def State.passTo (s : State) (now : Nat) : State :=
  if now / 4096 ≤ s.cycle / 4096 then { s with cycle := max s.cycle now }
  else { State.epochsPass (now / 4096 - s.cycle / 4096) s with cycle := now }

/-! ### A turn -/

/-- An agent's move. -/
abbrev Move := State → Host.Outcome State Fault Refusal

/-- A move made in its turn: one that waits for a later epoch is made once the epochs before it have ended. -/
def State.turn (s : State) (m : Move) : Host.Outcome State Fault Refusal :=
  match m s with
  | .next t =>
    if t.cycle / 4096 == s.cycle / 4096 then endTurn s (.next t)
    else let u := s.passTo t.cycle; endTurn u (m u)
  | x => x

/-- One turn of the agenda. An epoch's end is that of every core (R405). -/
def State.takeTurn (s : State) (t : Turn) : Host.Outcome State Fault Refusal :=
  let s0 : State := { s with payer := none }
  match t with
  | .issue k n => (s0.passTo (s0.cycle + n)).turn (fun x => x.issueTurn k)
  | .event (.epochEnd _) => .next (s0.passTo ((s0.cycle / 4096 + 1) * 4096))
  | .event i => if (opInfo i).form == .event then s0.turn (exec i) else .next s0
  | .evictCopy line d => s0.turn (fun x => .next (x.evictCopy line d))
  | .evictLine line => s0.turn (fun x => .next (x.evictLine line))
  | .hostStore a bs => s0.turn (fun x => .next (x.hostStore a bs))
  | .hostLoad a n => s0.turn (fun x => .next (x.hostLoad a n))
  | .upsetL1 c ctx v sector => .next (s0.upsetL1 c ctx v sector)
  | .upsetVault a double => .next (s0.upsetVault a double)
  | .pass n => .next (s0.passTo (s0.cycle + n))

/-! ### The policy for an empty agenda -/

/-- The first of some moves that changes the state. -/
def firstMove (s : State) : List Move → Option (Host.Outcome State Fault Refusal)
  | [] => none
  | f :: fs =>
    match s.turn f with
    | .next s1 => if decide ({ s1 with payer := none } = s) then firstMove s fs else some (.next s1)
    | x => some x

/-- The move, if it waits for no later cycle. -/
def Move.due (m : Move) : Move := fun s =>
  match m s with
  | .next t => if t.cycle == s.cycle then .next t else .next s
  | x => x

/-- Of the moves that wait for a cycle, the one whose cycle comes first. -/
def soonest (s : State) (l : List Move) : Option Move :=
  (l.foldl (fun (b : Option (Nat × Move)) m =>
    match m s with
    | .next t =>
      if t.cycle ≤ s.cycle then b
      else (match b with
        | some (c, _) => if t.cycle < c then some (t.cycle, m) else b
        | none => some (t.cycle, m))
    | _ => b) none).map (·.2)

/-- A list that begins at another place of it, so that every place comes first at times. -/
def rotated {α : Type} (l : List α) (n : Nat) : List α := l.drop (n % l.length) ++ l.take (n % l.length)

/-- The move of an access on its way. -/
def Req.move (r : Req) : Move :=
  match r.access with
  | .arm .. => execMonitorArm r.id
  | .tbar .. => execTbarUpdate r.id
  | .read _ => if isVault r.addr then execVaultAccess r.id .ok else execHomeRead r.id
  | .write _ => if isVault r.addr then execVaultAccess r.id .ok else execHomeWrite r.id
  | .atomic .. | .cas .. => if isVault r.addr then execVaultAccess r.id .ok else execHomeAtomic r.id
  | _ => if isVault r.addr then execVaultAccess r.id .ok else execHomeReduction r.id

/-- The numbers below the length of a list. -/
def places {α : Type} (l : List α) : List Nat := List.range l.length

/-- Moves of the memory system: accesses, results, wakes, messages of the key table, and lines that strands wait for. -/
def State.memoryMoves (s : State) : List Move :=
  s.reqs.map Req.move
    ++ s.results.map (fun r => execDeferredResultArrival r.id)
    ++ (places s.wakes).map execMonitorWakeDelivery
    ++ (places s.keyMsgs).flatMap (fun n => [execKeyTableRequest n, execKeyTableLeave n, execKeyTableWithdraw n])
    ++ (places s.keyGrants).map execSectionGrantDelivery
    ++ s.cancels.map execMonitorCancel
    ++ (s.strands.filter (fun st => st.park == some .fetch)).map (fun st => execInstructionLineArrival st.who)
    ++ s.strands.flatMap (fun st =>
      match st.park with
      | some (.way l) => let h := s.homeSlot l; [execL2FillUnpinResume (BitVec.ofNat 4 h.1) (BitVec.ofNat 15 h.2)]
      | _ => [])

/-- Moves of the rounds in flight (R46 to R49), of late frame assignments (R63) and of register writes that complete. -/
def State.roundMoves (s : State) : List Move :=
  s.rounds.flatMap (fun r => ((s.validDies.map Agent.die) ++ [Agent.cacheDie]).flatMap (fun a =>
    [execInvalidationRoundReceive r.id a, execRoundAgentAcknowledge r.id a, execRoundAckReceive r.id a]))
    ++ s.moves.map (fun m => execLateFrameAssignment m.die m.ctx m.vpn)
    ++ s.resizes.map (fun e => execUbpartResizeComplete e.1)
    ++ s.pendingWrites.flatMap (fun r =>
      match r with | .fwctl d n => [execFwctlEnableComplete d n] | .cqctl d n => [execCqDisableComplete d n] | _ => [])
    ++ s.routeStale.map execRouteRecompute
    ++ (if s.clockPending.isSome then [execClockSwitch] else [])

/-- Moves of the engines: matrix engines, ray units, Twill engines and copy engines. -/
def State.engineMoves (s : State) : List Move :=
  (s.strands.filter (fun st => st.park == some .matrix)).map (fun st => execMatrixCommandEnter st.who)
    ++ s.mxEntries.flatMap (fun e =>
      let k := (s.mxTable e.die e.quad).findIdx (fun x => x.id == e.id)
      (places e.segs).map (fun n => execMatrixFetchSegment e.die e.quad k n) ++ [execMatrixEntryApply e.die e.quad])
    ++ s.rayOps.flatMap (fun r => r.lanes.flatMap (fun l =>
      [execRayLaneComplete r.result (BitVec.ofNat 5 l.lane), execLightWalkLaneComplete r.result (BitVec.ofNat 5 l.lane)]))
    ++ s.twills.flatMap (fun o =>
      let k := (s.twillTable o.die o.quad).findIdx (fun x => x.id == o.id)
      [execTwillOperationStart o.die o.quad k, execTwillPixel o.die o.quad k, execTwillCallableBatch o.die o.quad k,
        execTwillOperationComplete o.die o.quad k])
    ++ s.channels.flatMap (fun c =>
      [execCopyPacketStart c.die c.ch] ++ (places c.segs).map (fun n => execCopySegment c.die c.ch n)
        ++ [execCopyFixupReplay c.die c.ch, execCopymmaCommandIssue c.die c.ch, execCopyPacketComplete c.die c.ch])
    ++ s.posts.flatMap (fun p => (places s.posts).map (fun n => execFixupAnswer p.die p.quad n))

/-- A firmware slot has issued within the last 8 cycles (R413). -/
def State.firmwareRests (s : State) (st : Strand) : Bool := st.isFirmware && st.issueSince != 0 && decide (s.cycle < st.issueSince + 8)

/-- The strand that issues next (R413): firmware slots first, one sequence in 8 cycles, then the highest issue age, ties to the lower place; one that
has yielded comes after the others. -/
def State.nextIssue (s : State) : Option Nat :=
  let rank := fun (st : Strand) => ((if st.yielded then 2 else if st.isFirmware then 0 else 1), st.issueSince)
  (s.strandsWhere (fun st => st.state == .active && !s.issueStopped st.core.die && !s.firmwareRests st)).foldl (fun (b : Option Nat) i =>
    match b with
    | none => some i
    | some j =>
      (match s.strands[i]?, s.strands[j]? with
      | some x, some y =>
        if (rank x).1 < (rank y).1 ∨ ((rank x).1 = (rank y).1 ∧ (rank x).2 < (rank y).2) then some i else b
      | _, _ => b)) none

/-- Moves of the queues and the Bureau agents (R107, R389 to R401), and of the context command under way (R439). -/
def State.launchMoves (s : State) : List Move :=
  let queues := (List.range 64).map (BitVec.ofNat 6)
  let quads := (List.range 16).map (BitVec.ofNat 4)
  s.validDies.flatMap (fun d => (queues.filter (fun n => s.queueOn (.cqctl d n))).map (execCopyEntryTake d))
    ++ (queues.filter (fun n => s.queueOn (.lqctl n) || s.lqBusy n)).map execLaunchEntryTake
    ++ s.gangs.map (fun g => execGangRetirement g.ctx g.gang)
    ++ s.launches.map (fun l => execLaunchCompletion l.ticket)
    ++ s.launches.map (fun l => execCoResidentPlacement l.ticket)
    ++ (if s.launches.isEmpty then [] else s.validDies.flatMap (fun d => quads.map (execGangPlacement d)))
    ++ (if s.ctxRun.isSome then
      [execCtxFreeze, execCtxThaw, execCtxSwapOut, execCtxSwapIn, execCtxSave, execCtxRestore, execCtxKill, execCtxCommandDone] else [])

/-- The cores on which strands wait for admission. -/
def State.waitingCores (s : State) : List CoreId := ((s.strands.filter (fun st => st.state == .waiting)).map (fun st => st.core)).eraseDups

/-- Strands that wait for admission are admitted (R408). -/
def State.admissionMoves (s : State) : List Move := s.waitingCores.map execStrandAdmission

/-- Moves that wait for time: charges, sleeps, timeouts, arms made again, rotations, refills and headroom. -/
def State.timedMoves (s : State) : List Move :=
  (places s.charges).map execJouleCharge
    ++ (s.strands.filter (fun st => st.park.isSome)).flatMap (fun st =>
      [execSleepExpiry st.who, execMonitorRearm st.who, execWaitcTimeout st.who])
    ++ s.armed.map (fun e => execMonitorRearm e.who)
    ++ (places s.keyRetries).map execKeyRequestRetry
    ++ s.launches.flatMap (fun l => (places l.nodes).map (fun n => execNodeTimerExpiry l.ticket (BitVec.ofNat 12 n)))
    ++ s.waitingCores.map execForcedRotation
    ++ s.mxEntries.map (fun e => execMatrixEntryAged e.die e.quad ((s.mxTable e.die e.quad).findIdx (fun x => x.id == e.id)))
    ++ ((List.range 64).map (BitVec.ofNat 6)).map execBudgetRefill
    ++ s.validDies.map execHeadPublish

/-- What an agent does by itself, group by group. Each group comes first at times, and within it each place, so that no agent is kept from its turn
by others that always have one (R388). -/
def State.idleMoves (s : State) : List Move :=
  let n := s.stepNo / 8
  let work := rotated (s.memoryMoves ++ s.roundMoves ++ s.engineMoves) n
  let issues : List Move := match s.nextIssue with | some k => [fun x => x.issueTurn k] | none => []
  let rest := rotated (s.launchMoves ++ s.admissionMoves ++ s.timedMoves.map Move.due) n
  if s.stepNo % 8 == 7 then rest ++ work ++ issues
  else if s.stepNo % 8 == 3 then issues ++ work ++ rest
  else work ++ issues ++ rest

/-- The turn taken when the agenda is empty: the first move that changes anything, or else the one whose time comes first. -/
def State.idleTurn (s0 : State) : Host.Outcome State Fault Refusal :=
  let s : State := { s0.passTo (s0.cycle + Config.stepCycles s0.stepNo) with payer := none }
  match firstMove s s.idleMoves with
  | some o => o
  | none =>
    match soonest s s.timedMoves with
    | some m => s.turn m
    | none => .next (s.passTo (s.cycle + 1))

end Sys2Proof.Machine
end

