-- ==== Sys2Proof/Machine/Step.lean ====
section
/-! DEFINITION. One step of the package: the next turn of the agenda, or of the policy when the agenda is empty; and the placing of one
instruction where the next step fetches. -/

namespace Sys2Proof.Machine

open Sys2Proof

/-- One step: the agent that the agenda names moves. -/
def step (s : State) : Host.Outcome State Fault Refusal :=
  match s.agenda with
  | t :: rest => State.takeTurn { s with agenda := rest, stepNo := s.stepNo + 1 } t
  | [] => State.idleTurn { s with stepNo := s.stepNo + 1 }

/-- The core, context and name of the strand that `withFetchWord` places. -/
def probeWho : Who := ⟨1, 0xFFFFFE, 0, 0⟩

/-- Quad 0's core 0 of virtual die 0. -/
def probeCore : CoreId := ⟨0, 0, 0⟩

/-- The address of the placed code: page 1 of the context. -/
def probePc : W64 := 0x10000

/-- The leaf of the code's page: frame 0x100 of virtual die 0, with U, X, W and V. -/
def probeLeaf : W64 := 0x0000000001000000 + 0x1F

/-- The kernel that `withFetchWord` gives its gang. -/
def probeKernel : Kernel where
  header := 0x10000
  entry := 0
  codeSize := 128
  calltab := 0
  strands := 1
  wgs := 1
  vregs := 256
  vault := 0
  lease := 0
  lbar := true
  matrix := true
  node := false
  nodeWords := 0
  paramSize := 0
  wpre := 0
  shape := 0
  preload := []
  patches := []

/-- The gang of the placed strand. -/
def probeGang : Gang where
  ctx := probeWho.ctx
  ctxSlot := 0
  gang := probeWho.gang
  index := 0
  ticket := 0
  die := 0
  quad := 0
  cores := [0]
  kernel := probeKernel
  roles := List.replicate 16 0
  vat := none
  accMap := List.replicate 8 none
  wgBars := [⟨1, 0, 0⟩]
  regroups := [⟨1, 0, 0⟩]
  gangBar := ⟨1, 0, 0⟩
  isNode := false
  frozen := false
  firstAt := 0

/-- The placed strand: active, in supervisor mode inside a handler, with 256 v registers. -/
def probeStrand : Strand :=
  { Strand.start probeWho 0 probeCore 0 256 probePc [] { SysRegs.start .supervisor 0 0 with hnd := true } with state := .active }

/-- The state with the instruction whose bits are `w` at the program counter of a strand that issues next (log entry 9): an enabled
context slot, a resident gang with one active strand, and the code in the frame, in the quad's instruction cache and in its TLB. -/
def State.withFetchWord (s : State) (nbits w : Nat) : State :=
  let code := tableBytes (w % 2 ^ nbits) 31
  let a := Config.devAddr 0 0x1000000
  let s1 := s.setReg (.trbase 0) (setField (setField (s.reg (.trbase 0)) 63 63 1) 59 48 1)
  { s1 with
    strands := probeStrand :: s1.strands
    cur := 0
    agenda := [.issue 0 1]
    gangs := probeGang :: s1.gangs
    lbars := (0, ⟨1, 0, 0⟩) :: s1.lbars
    mem := s1.mem.put a code
    quadTlb := (0, 0, ⟨1, 1, 0, probeLeaf, 0, 0⟩) :: s1.quadTlb
    icache := ⟨0, 0, 1, vlineOf 0x10000, 0x200 % 256, 1, code⟩ :: s1.icache }

end Sys2Proof.Machine
end

