-- ==== Sys2Proof/Safety.lean ====
section
/-! DEFINITION. What a claim may call a safe step: one that stops neither with a fault nor with a refusal. -/

namespace Sys2Proof

/-- The step answers a next state. -/
def Safe (s : Machine.State) : Prop := ∃ t, Machine.step s = .next t

/-- An outcome answers a next state: a test that computes. -/
def goesOn (o : Host.Outcome Machine.State Machine.Fault Machine.Refusal) : Bool :=
  match o with
  | .next _ => true
  | _ => false

end Sys2Proof
end

