-- ==== Sys2Proof/Certificates/Slice0/Obligations.lean ====
section
/-! DEFINITION. The statements about this model, each `def Obligations.<Name> : Prop`. The definitions in front of them give names to
what several statements say: that an iteration of a sequence is at hand, and what its completion leaves. -/

namespace Sys2Proof.Claims

open Sys2Proof Sys2Proof.Machine

/-! ### When an iteration executes, and what its completion leaves -/

/-- Iteration `k` of the sequence `i` executes next: the issuing strand is `st`, it owes no fault, and no check of R148 stops it
(`Obligations.ChecksInOrder` says what these checks are). -/
def Ready (i : Instr) (s : State) (st : Strand) (k : Nat) : Prop :=
  s.strands[s.cur]? = some st ∧ st.owed = none ∧ verdict i st = .go k

/-- The strand after iteration `k`, when the iteration's effect has made it `st'`: at the next iteration (R143), or past the
sequence. The lanes a handler marked as done count for one issue only (R227). -/
def settled (i : Instr) (k : Nat) (st st' : Strand) : Strand :=
  { st' with
    pc := if k + 1 < seqCount i.px then st'.pc else st.pc + BitVec.ofNat 64 (4 * seqWords i.px)
    rptAt := if k + 1 < seqCount i.px then k + 1 else 0
    reissue := false
    sr := if st'.reissue then { st'.sr with donemask := 0 } else st'.sr }

/-- The state in which the issuing strand alone has changed. -/
def withCur (s : State) (st : Strand) : State := { s with strands := s.strands.set s.cur st }

/-- Executing `i` completes the iteration: the strand becomes what `st'` says, and no other part of the state changes. -/
def Gives (i : Instr) (s : State) (st : Strand) (k : Nat) (st' : Strand) : Prop :=
  exec i s = .next (withCur s (settled i k st st'))

/-- Register number `r` of a v field at iteration `k` of a repeat with this stride (R143). -/
def strided (r : BitVec 8) (stride k : Nat) : Nat := r.toNat + k * stride

/-- The destination register of iteration `k`. -/
def dstOf (px : Pfx) (d : BitVec 8) (k : Nat) : Nat := strided d (seqRpt px).sd.toNat k

/-- Operand a of lane `l` in iteration `k`: a v register, or with UA one w register for every lane (R142, R143). -/
def opA (px : Pfx) (a : BitVec 8) (k : Nat) (st : Strand) (l : Nat) : Word :=
  if px.extD.ua then st.wreg a.toNat else st.lane (strided a (seqRpt px).sa.toNat k) l

/-- Operand b of lane `l` in iteration `k`: the literal, or with UB one w register, or a v register (R142, R143, R145). -/
def opB (px : Pfx) (b : BitVec 8) (k : Nat) (st : Strand) (l : Nat) : Word :=
  match px.lit with
  | some x => x
  | none => if px.extD.ub then st.wreg b.toNat else st.lane (strided b (seqRpt px).sb.toNat k) l

/-- The pair a of lane `l`: the second register is the next one. -/
def opA2 (px : Pfx) (a : BitVec 8) (k : Nat) (st : Strand) (l : Nat) : W64 :=
  if px.extD.ua then pair (st.wreg a.toNat) (st.wreg (a.toNat + 1))
  else pair (st.lane (strided a (seqRpt px).sa.toNat k) l) (st.lane (strided a (seqRpt px).sa.toNat k + 1) l)

/-- The pair b of lane `l`. -/
def opB2 (px : Pfx) (b : BitVec 8) (k : Nat) (st : Strand) (l : Nat) : W64 :=
  if px.extD.ub then pair (st.wreg b.toNat) (st.wreg (b.toNat + 1))
  else pair (st.lane (strided b (seqRpt px).sb.toNat k) l) (st.lane (strided b (seqRpt px).sb.toNat k + 1) l)

/-- A per-lane result: each active lane of vd takes its value, the other lanes and every other register keep theirs; with no active
lane nothing is written (R178). The sources are read before vd is written. -/
def Lanes (i : Instr) (d : BitVec 8) (val : Nat → Strand → Nat → Word) : Prop :=
  ∀ s st k, Ready i s st k →
    Gives i s st k
      (if st.active i.px = 0 then st
       else
        { st with
          v := st.v.set (dstOf i.px d k)
            (buildRow (fun l => if (st.active i.px).getLsbD l then val k st l else st.lane (dstOf i.px d k) l))
          emptyV := st.emptyV.filter (· != dstOf i.px d k) })

/-- A per-lane result of the operands a and b. -/
def Lanes2 (i : Instr) (d a b : BitVec 8) (f : Word → Word → Word) : Prop :=
  Lanes i d (fun k st l => f (opA i.px a k st l) (opB i.px b k st l))

/-- A per-lane result of the operand a. -/
def Lanes1 (i : Instr) (d a : BitVec 8) (f : Word → Word) : Prop := Lanes i d (fun k st l => f (opA i.px a k st l))

/-- A per-lane result of a, b and the prior value of vd. -/
def Lanes3 (i : Instr) (d a b : BitVec 8) (f : Word → Word → Word → Word) : Prop :=
  Lanes i d (fun k st l => f (opA i.px a k st l) (opB i.px b k st l) (st.lane (dstOf i.px d k) l))

/-- A mask of which the bits of `act` take new values (R188): m0 never leaves the live mask (R126). -/
def maskWritten (st : Strand) (m : Nat) (act : Word) (f : Nat → Bool) : Strand :=
  if act = 0 then st
  else
    let x := (st.mask m &&& ~~~act) ||| (buildMask f &&& act)
    { st with m := tabSet 8 st.m m (if m = 0 then x &&& st.live else x) 0 }

/-! ### Values the spec gives -/

/-- Sat(x, .i32): the nearest word of the signed range (R172). -/
def clamp32 (x : Int) : Word :=
  if 2147483647 < x then 0x7FFFFFFF else if x < -2147483648 then 0x80000000 else BitVec.ofInt 32 x

/-- Modular, or saturating over the signed range (R180). -/
def modOrSat (sat : Bool) (x : Int) : Word := if sat then clamp32 x else BitVec.ofInt 32 x

/-- A condition of R140 on two words. -/
def cond (c : BitVec 4) (a b : Word) : Prop :=
  match c.toNat with
  | 0 => a = b
  | 1 => a ≠ b
  | 2 => a.toInt < b.toInt
  | 3 => a.toInt ≤ b.toInt
  | 4 => a.toInt > b.toInt
  | 5 => a.toInt ≥ b.toInt
  | 6 => a.toNat < b.toNat
  | 7 => a.toNat ≤ b.toNat
  | 8 => a.toNat > b.toNat
  | 9 => a.toNat ≥ b.toNat
  | _ => False

/-- The zero bits above the highest set bit, counted from bit 31 down (R186). -/
def zerosAbove (a : Word) : Nat := ((List.range 32).takeWhile (fun j => !a.getLsbD (31 - j))).length

/-- The zero bits below the lowest set bit (R186). -/
def zerosBelow (a : Word) : Nat := ((List.range 32).takeWhile (fun j => !a.getLsbD j)).length

/-- The field that a control word names: position b[7:0], width min(b[15:8], 32) (R187). -/
def fieldPos (b : Word) : Nat := (b.extractLsb' 0 8).toNat
def fieldWidth (b : Word) : Nat := min (b.extractLsb' 8 8).toNat 32

end Sys2Proof.Claims

open Sys2Proof Sys2Proof.Machine Sys2Proof.Claims

/-! ### Per-lane integer instructions -/

/-- R180, R182, R183: the arithmetic instructions, with and without SAT. -/
def Obligations.LaneIntegerArithmetic : Prop :=
  ∀ (px : Pfx) (d a b : BitVec 8),
    Lanes2 (.iadd px d a b) d a b (fun x y => modOrSat px.sat (x.toInt + y.toInt))
    ∧ Lanes2 (.isub px d a b) d a b (fun x y => modOrSat px.sat (x.toInt - y.toInt))
    ∧ Lanes2 (.imul px d a b) d a b (fun x y => modOrSat px.sat (x.toInt * y.toInt))
    ∧ Lanes3 (.imad px d a b) d a b (fun x y z => modOrSat px.sat (x.toInt * y.toInt + z.toInt))
    ∧ Lanes2 (.imulh px d a b) d a b (fun x y => (x.signExtend 64 * y.signExtend 64).extractLsb' 32 32)
    ∧ Lanes2 (.imulhn px d a b) d a b (fun x y => (x.setWidth 64 * y.setWidth 64).extractLsb' 32 32)
    ∧ Lanes1 (.iabs px d a) d a (fun x => BitVec.ofInt 32 x.toInt.natAbs)
    ∧ Lanes2 (.imin px d a b) d a b (fun x y => if x.toInt ≤ y.toInt then x else y)
    ∧ Lanes2 (.imax px d a b) d a b (fun x y => if x.toInt ≤ y.toInt then y else x)
    ∧ Lanes2 (.iminn px d a b) d a b (fun x y => if x.toNat ≤ y.toNat then x else y)
    ∧ Lanes2 (.imaxn px d a b) d a b (fun x y => if x.toNat ≤ y.toNat then y else x)

/-- R184, R185: logic and shifts; the count of a shift is the whole word. -/
def Sys2Proof.Claims.LaneLogicAndShifts : Prop :=
  ∀ (px : Pfx) (d a b : BitVec 8),
    Lanes2 (.andL px d a b) d a b (fun x y => x &&& y)
    ∧ Lanes2 (.orL px d a b) d a b (fun x y => x ||| y)
    ∧ Lanes2 (.xorL px d a b) d a b (fun x y => x ^^^ y)
    ∧ Lanes2 (.andn px d a b) d a b (fun x y => x &&& ~~~y)
    ∧ Lanes1 (.notL px d a) d a (fun x => ~~~x)
    ∧ Lanes2 (.shl px d a b) d a b (fun x n => if n.toNat < 32 then x <<< n.toNat else 0)
    ∧ Lanes2 (.shr px d a b) d a b (fun x n => if n.toNat < 32 then x >>> n.toNat else 0)
    ∧ Lanes2 (.sra px d a b) d a b
        (fun x n => if n.toNat < 32 then x.sshiftRight n.toNat else if x.getLsbD 31 then 0xFFFFFFFF else 0)
    ∧ Lanes2 (.rotl px d a b) d a b (fun x n => (x <<< (n.toNat % 32)) ||| (x >>> ((32 - n.toNat % 32) % 32)))

/-- R186, R187: bit counts, reversal and bit fields. -/
def Sys2Proof.Claims.LaneBitsAndFields : Prop :=
  ∀ (px : Pfx) (d a b : BitVec 8),
    Lanes1 (.popc px d a) d a (fun x => BitVec.ofNat 32 ((List.range 32).filter (fun j => x.getLsbD j)).length)
    ∧ Lanes1 (.clz px d a) d a (fun x => BitVec.ofNat 32 (zerosAbove x))
    ∧ Lanes1 (.ctz px d a) d a (fun x => BitVec.ofNat 32 (zerosBelow x))
    ∧ Lanes1 (.brev px d a) d a (fun x => x.reverse)
    ∧ Lanes2 (.bfe px d a b) d a b (fun x c => ((x >>> fieldPos c).setWidth (fieldWidth c)).setWidth 32)
    ∧ Lanes2 (.bfes px d a b) d a b (fun x c => ((x.sshiftRight (fieldPos c)).setWidth (fieldWidth c)).signExtend 32)
    ∧ Lanes3 (.bfi px d a b) d a b (fun x c z =>
        let m : Word := (BitVec.allOnes (fieldWidth c)).setWidth 32 <<< fieldPos c
        (z &&& ~~~m) ||| ((x <<< fieldPos c) &&& m))

/-- Per-lane logic, shifts, bit counts and fields. -/
def Obligations.LaneLogicAndBits : Prop :=
  Claims.LaneLogicAndShifts ∧ Claims.LaneBitsAndFields

/-- R189, R190, R191: select, moves and lane positions. -/
def Sys2Proof.Claims.LaneSelectAndMoves : Prop :=
  ∀ (px : Pfx) (d a b kind : BitVec 8) (imm : BitVec 16),
    (∀ s st k, Ready (.selL px d a b) s st k →
      Gives (.selL px d a b) s st k
        (st.putV (dstOf px d k) (if st.reissue then st.mask 0 &&& ~~~st.sr.donemask else st.mask 0)
          (fun l => if (st.mask px.extD.pred.toNat).getLsbD l = !px.extD.pinv then opA px a k st l else opB px b k st l)))
    ∧ Lanes1 (.mov px d a) d a (fun x => x)
    ∧ (∀ s st k, Ready (.movw px d a) s st k →
        Gives (.movw px d a) s st k
          ((st.putV (dstOf px d k) (st.active px) (fun l => lo32 (opA2 px a k st l))).putV (dstOf px d k + 1) (st.active px)
            (fun l => hi32 (opA2 px a k st l))))
    ∧ Lanes (.movi px d imm) d (fun _ _ _ => px.lit.getD (imm.signExtend 32))
    ∧ (∀ s st k g, Ready (.lid px d kind) s st k → s.gangOf st = some g →
        Gives (.lid px d kind) s st k
          (st.putV (dstOf px d k) (st.active px) (fun l =>
            BitVec.ofNat 32
              (if kind = 0 then l
               else if kind = 1 then st.who.widx.toNat * 32 + l
               else (st.who.wg.toNat * g.kernel.strands + st.who.widx.toNat) * 32 + l))))

/-- R181, R188: carries in m7 and comparisons that write a mask. -/
def Sys2Proof.Claims.LaneCarryAndCompare : Prop :=
  ∀ (px : Pfx) (d a b : BitVec 8) (c : BitVec 4) (m : BitVec 3) (s : State) (st : Strand) (k : Nat),
    let x : Nat → Int := fun l => (opA px a k st l).toNat
    let y : Nat → Int := fun l => (opB px b k st l).toNat
    let cin : Nat → Int := fun l => if (st.mask 7).getLsbD l then 1 else 0
    (Ready (.iaddc px d a b) s st k →
      Gives (.iaddc px d a b) s st k
        (maskWritten (st.putV (dstOf px d k) (st.active px) (fun l => BitVec.ofInt 32 (x l + y l + cin l))) 7 (st.active px)
          (fun l => decide (x l + y l + cin l ≥ 2 ^ 32))))
    ∧ (Ready (.isubb px d a b) s st k →
      Gives (.isubb px d a b) s st k
        (maskWritten (st.putV (dstOf px d k) (st.active px) (fun l => BitVec.ofInt 32 (x l - y l - cin l))) 7 (st.active px)
          (fun l => decide (x l - y l - cin l < 0))))
    ∧ (Ready (.icmp px c m a b) s st k →
      ∃ t, Gives (.icmp px c m a b) s st k (maskWritten st m.toNat (st.active px) t)
        ∧ ∀ l, t l = true ↔ cond c (opA px a k st l) (opB px b k st l))

/-- Per-lane selects, moves, carries and compares. -/
def Obligations.LaneMovesCarriesAndCompares : Prop :=
  Claims.LaneSelectAndMoves ∧ Claims.LaneCarryAndCompare

/-! ### Per-lane floating-point instructions -/

namespace Sys2Proof.Claims

/-- The rounding mode of an instruction (R158): RMO's low bits where `ext` gives one, otherwise sr.fpmode.RM. -/
def modeOf (px : Pfx) (st : Strand) : Rm :=
  match (if px.extD.rmo = 0 then st.sr.fpmode.extractLsb' 0 2 else px.extD.rmo.extractLsb' 0 2).toNat with
  | 0 => .rn
  | 1 => .rz
  | 2 => .ru
  | _ => .rd

/-- The flags of the lanes of a mask, ORed together (R164). -/
def flagsOf (act : Word) (f : Nat → FRes) : Flags := ((lanesOf act).map (fun l => (f l).flags)).foldl (· ||| ·) 0

/-- Flags ORed into sr.fpflags (R164). -/
def flagged (st : Strand) (f : Flags) : Strand :=
  { st with sr := { st.sr with fpflags := st.sr.fpflags ||| f.setWidth 32 } }

/-- A floating-point result complete at issue: the values of the active lanes of vd, and their flags (R164, R193). -/
def FloatLanes (i : Instr) (d : BitVec 8) (f : Nat → Strand → Nat → FRes) : Prop :=
  ∀ s st k, Ready i s st k →
    Gives i s st k
      (flagged (st.putV (dstOf i.px d k) (st.active i.px) (fun l => BitVec.ofNat 32 (f k st l).bits)) (flagsOf (st.active i.px) (f k st)))

/-- A function of the FP32 operands a and b and the prior vd, in the instruction's mode. -/
def of3 (i : Instr) (d a b : BitVec 8) (f : Rm → Nat → Nat → Nat → FRes) : Nat → Strand → Nat → FRes := fun k st l =>
  f (modeOf i.px st) (opA i.px a k st l).toNat (opB i.px b k st l).toNat (st.lane (dstOf i.px d k) l).toNat

/-- A function of the operand a. -/
def of1 (i : Instr) (a : BitVec 8) (f : Rm → Nat → FRes) : Nat → Strand → Nat → FRes := fun k st l =>
  f (modeOf i.px st) (opA i.px a k st l).toNat

/-- A function of the pairs a and b and the prior pair vd (R200). -/
def of3d (i : Instr) (d a b : BitVec 8) (f : Rm → Nat → Nat → Nat → FRes) : Nat → Strand → Nat → FRes := fun k st l =>
  f (modeOf i.px st) (opA2 i.px a k st l).toNat (opB2 i.px b k st l).toNat
    (pair (st.lane (dstOf i.px d k) l) (st.lane (dstOf i.px d k + 1) l)).toNat

/-- The two elements of a packed pair, each by itself (R154, R201). -/
def halves (f : Rm → Nat → Nat → Nat → FRes) (m : Rm) (a b d : Nat) : FRes :=
  ⟨(f m (a % 65536) (b % 65536) (d % 65536)).bits + 65536 * (f m (a / 65536) (b / 65536) (d / 65536)).bits,
    (f m (a % 65536) (b % 65536) (d % 65536)).flags ||| (f m (a / 65536) (b / 65536) (d / 65536)).flags⟩

/-- SAT on a floating-point result (R195): clamped to [+0, +1.0]. -/
def satur (f : Fmt) (sat : Bool) (r : FRes) : FRes := if sat then ⟨clamp01 f r.bits, r.flags⟩ else r

/-- A deferred floating-point result (R123, R206): with no active lane nothing happens; otherwise the sequence completes, the
destinations are empty, and a result with the values and flags of the active lanes is on its way. -/
def FloatLate (i : Instr) (d : BitVec 8) (wide : Bool) (f : Nat → Strand → Nat → FRes) : Prop :=
  ∀ s st k, Ready i s st k →
    let r := dstOf i.px d k
    let act := st.active i.px
    let regs := if wide then [r, r + 1] else [r]
    let writes := fun (q : Nat) (sh : Nat) => (lanesOf act).map (fun l => (q, l, BitVec.ofNat 32 ((f k st l).bits / 2 ^ sh)))
    (act = 0 → Gives i s st k st)
    ∧ (act ≠ 0 → exec i s = .next
        { withCur s (settled i k st { st with emptyV := regs.foldl addTo st.emptyV }) with
          results := s.results ++ [{ id := s.nextId, who := st.who, vregs := regs, wregs := []
                                     vwrites := writes r 0 ++ (if wide then writes (r + 1) 32 else []), wwrites := []
                                     mwrites := [], bwrites := [], pending := [], flags := flagsOf act (f k st), rsvflags := 0 }]
          nextId := s.nextId + 1 })

/-- The lower and the upper lane of a difference (R205): `ddx` takes lanes 2n and 2n + 1 of the quad's row, `ddy` the lanes two apart. -/
def lowLane (y : Bool) (l : Nat) : Nat := if y then l / 4 * 4 + l % 2 else l / 2 * 2
def highLane (y : Bool) (l : Nat) : Nat := if y then lowLane y l + 2 else lowLane y l + 1
/-- The lane's partner. -/
def partner (y : Bool) (l : Nat) : Nat := if y then l ^^^ 2 else l ^^^ 1

/-- A derivative (R205): the difference of upper and lower lane, or +0 with DERIV where the partner is not active or the quad is not
coherent. -/
def deriv (i : Instr) (y : Bool) (a : BitVec 8) : Nat → Strand → Nat → FRes := fun k st l =>
  if (st.active i.px).getLsbD (partner y l) ∧ st.quadCoherent.getLsbD (l / 4) then
    fSub fp32 (modeOf i.px st) (opA i.px a k st (highLane y l)).toNat (opA i.px a k st (lowLane y l)).toNat
  else ⟨0, flagDERIV⟩

end Sys2Proof.Claims

/-- R195, R196, R199, R201, R202: the floating-point instructions that complete at issue. -/
def Sys2Proof.Claims.FloatResults : Prop :=
  ∀ (px : Pfx) (d a b : BitVec 8),
    let op := fun (i : Instr) (f : Rm → Nat → Nat → Nat → FRes) => FloatLanes i d (of3 i d a b f)
    op (.fadd px d a b) (fun m x y _ => satur fp32 px.sat (fAdd fp32 m x y))
    ∧ op (.fsub px d a b) (fun m x y _ => satur fp32 px.sat (fSub fp32 m x y))
    ∧ op (.fmul px d a b) (fun m x y _ => satur fp32 px.sat (fMul fp32 m x y))
    ∧ op (.ffma px d a b) (fun m x y z => satur fp32 px.sat (fFma fp32 m x y z))
    ∧ op (.fmin px d a b) (fun _ x y _ => fMinMax fp32 false x y)
    ∧ op (.fmax px d a b) (fun _ x y _ => fMinMax fp32 true x y)
    ∧ op (.hadd2 px d a b) (halves (fun m x y _ => satur fp16 px.sat (fAdd fp16 m x y)))
    ∧ op (.hmul2 px d a b) (halves (fun m x y _ => satur fp16 px.sat (fMul fp16 m x y)))
    ∧ op (.hfma2 px d a b) (halves (fun m x y z => satur fp16 px.sat (fFma fp16 m x y z)))
    ∧ op (.badd2 px d a b) (halves (fun m x y _ => satur bf16 px.sat (fAdd bf16 m x y)))
    ∧ op (.bmul2 px d a b) (halves (fun m x y _ => satur bf16 px.sat (fMul bf16 m x y)))
    ∧ op (.bfma2 px d a b) (halves (fun m x y z => satur bf16 px.sat (fFma bf16 m x y z)))
    ∧ op (.fdot2b px d a b) (fun m x y z => rndProducts fp32 m
        [(bf16.decode (x % 65536), bf16.decode (y % 65536)), (bf16.decode (x / 65536), bf16.decode (y / 65536))] [fp32.decode z])
    ∧ FloatLanes (.frnd px d a) d (of1 (.frnd px d a) a fRnd)
    ∧ FloatLanes (.ffrac px d a) d (of1 (.ffrac px d a) a fFrac)

/-- R198, R200, R206: the deferred floating-point instructions. -/
def Sys2Proof.Claims.FloatDeferredResults : Prop :=
  ∀ (px : Pfx) (d a b : BitVec 8),
    let f1 := fun (i : Instr) (f : Rm → Nat → FRes) => FloatLate i d false (of1 i a f)
    let f3 := fun (i : Instr) (f : Rm → Nat → Nat → Nat → FRes) => FloatLate i d true (of3d i d a b f)
    FloatLate (.fdiv px d a b) d false (of3 (.fdiv px d a b) d a b (fun m x y _ => fDiv m x y))
    ∧ f1 (.frcp px d a) fRcp ∧ f1 (.frsq px d a) fRsq ∧ f1 (.fsqrt px d a) fSqrt ∧ f1 (.fexp2 px d a) fExp2
    ∧ f1 (.flog2 px d a) fLog2 ∧ f1 (.fsinr px d a) fSinr ∧ f1 (.fcosr px d a) fCosr
    ∧ f3 (.dadd px d a b) (fun m x y _ => fAdd fp64 m x y)
    ∧ f3 (.dmul px d a b) (fun m x y _ => fMul fp64 m x y)
    ∧ f3 (.dfma px d a b) (fFma fp64)

/-- R197, R203 to R205: comparison, conversion and derivatives. -/
def Sys2Proof.Claims.FloatCompareConvertDerive : Prop :=
  ∀ (px : Pfx) (d a b : BitVec 8) (c t f : BitVec 4) (m : BitVec 3),
    (∀ s st k, Ready (.fcmp px c m a b) s st k →
      let r := fun l => fCompare fp32 c (opA px a k st l).toNat (opB px b k st l).toNat
      Gives (.fcmp px c m a b) s st k
        (flagged (maskWritten st m.toNat (st.active px) (fun l => (r l).1))
          (((lanesOf (st.active px)).map (fun l => (r l).2)).foldl (· ||| ·) 0)))
    ∧ (∀ s st k, Ready (.cvt px d a t f) s st k →
        let r := dstOf px d k
        let x := fun l => if fmtRegs f = 2 then (opA2 px a k st l).toNat else (opA px a k st l).toNat
        let y := fun l => cvtBits t f (modeOf px st) px.sat (x l) (st.lane r l).toNat
        let lo := st.putV r (st.active px) (fun l => BitVec.ofNat 32 (y l).bits)
        let both := lo.putV (r + 1) (st.active px) (fun l => BitVec.ofNat 32 ((y l).bits / 2 ^ 32))
        Gives (.cvt px d a t f) s st k (flagged (if fmtRegs t = 2 then both else lo) (flagsOf (st.active px) y)))
    ∧ FloatLanes (.ddx px d a) d (deriv (.ddx px d a) false a)
    ∧ FloatLanes (.ddy px d a) d (deriv (.ddy px d a) true a)

/-- Per-lane floating point, the deferred operations, compares and conversions. -/
def Obligations.LaneFloatResults : Prop :=
  Claims.FloatResults ∧ Claims.FloatDeferredResults ∧ Claims.FloatCompareConvertDerive

/-- R161: a NaN that an addition, subtraction, product or fused multiply-add produces is the canonical one, and a NaN operand
always gives it. -/
def Obligations.NaNsAreCanonical : Prop :=
  ∀ (m : Rm) (a b c : Nat), a < 2 ^ 32 → b < 2 ^ 32 → c < 2 ^ 32 →
    let nan := fun (x : Nat) => (fp32.decode x).isNan = true
    (nan a ∨ nan b → (fAdd fp32 m a b).bits = 0x7FC00000 ∧ (fSub fp32 m a b).bits = 0x7FC00000 ∧ (fMul fp32 m a b).bits = 0x7FC00000)
    ∧ (nan a ∨ nan b ∨ nan c → (fFma fp32 m a b c).bits = 0x7FC00000)
    ∧ (∀ r ∈ [fAdd fp32 m a b, fSub fp32 m a b, fMul fp32 m a b, fFma fp32 m a b c], nan r.bits → r.bits = 0x7FC00000)

/-! ### Cross-lane instructions -/

namespace Sys2Proof.Claims

/-- A shuffle (R211): lane l takes a of lane `src l` when that is a lane that takes part, and its own a otherwise. -/
def Shuffles (i : Instr) (d a : BitVec 8) (src : Nat → Strand → Nat → Int) : Prop :=
  Lanes i d (fun k st l =>
    if 0 ≤ src k st l ∧ src k st l ≤ 31 ∧ (st.active i.px).getLsbD (src k st l).toNat then opA i.px a k st (src k st l).toNat
    else opA i.px a k st l)

/-- The lanes that take part. -/
def taking (i : Instr) (st : Strand) : List Nat := (List.range 32).filter (fun l => (st.active i.px).getLsbD l)

/-- A reduction (R213): one value in every lane that takes part, of which `is` says what it is. -/
def Reduces (i : Instr) (d : BitVec 8) (is : Nat → Strand → Word → Prop) : Prop :=
  ∀ s st k, Ready i s st k → ∃ r, Gives i s st k (st.putV (dstOf i.px d k) (st.active i.px) (fun _ => r)) ∧ is k st r

/-- A reduction that chooses a value and its index (R215): no lane that takes part, nor the identity, is better, and the pair
is a lane's or the identity. -/
def ReducesIdx (i : Instr) (d a b : BitVec 8) (le : Word → Word → Prop) (identity : Word) : Prop :=
  ∀ s st k, Ready i s st k →
    ∃ v x, Gives i s st k
        ((st.putV (dstOf i.px d k) (st.active i.px) (fun _ => v)).putV (dstOf i.px d k + 1) (st.active i.px) (fun _ => x))
      ∧ (∀ l ∈ taking i st, opA i.px a k st l ≠ v → le v (opA i.px a k st l))
      ∧ (∀ l ∈ taking i st, opA i.px a k st l = v → x.toNat ≤ (opB i.px b k st l).toNat)
      ∧ ((v = identity ∧ x = 0xFFFFFFFF) ∨ ∃ l ∈ taking i st, v = opA i.px a k st l ∧ x = opB i.px b k st l)

end Sys2Proof.Claims

/-- R211: the shuffles and `bcast`. -/
def Sys2Proof.Claims.ShuffleResults : Prop :=
  ∀ (px : Pfx) (d a b n : BitVec 8),
    Claims.Shuffles (.shfl px d a b) d a (fun k st l => (opB px b k st l).toNat)
    ∧ Claims.Shuffles (.shflUp px d a n) d a (fun _ _ l => (l : Int) - n.toNat)
    ∧ Claims.Shuffles (.shflDown px d a n) d a (fun _ _ l => (l : Int) + n.toNat)
    ∧ Claims.Shuffles (.shflXor px d a n) d a (fun _ _ l => (l ^^^ n.toNat : Nat))
    ∧ Claims.Shuffles (.bcast px d a n) d a (fun _ _ _ => n.toNat)

/-- R212 to R216: votes, reductions, scans and counts. -/
def Sys2Proof.Claims.VotesReductionsScans : Prop :=
  ∀ (px : Pfx) (d a b : BitVec 8) (m : BitVec 3),
    Reduces (.vany px d a) d (fun k st r => r = if ∃ l ∈ taking (.vany px d a) st, opA px a k st l ≠ 0 then 1 else 0)
    ∧ Reduces (.vall px d a) d (fun k st r => r = if ∀ l ∈ taking (.vall px d a) st, opA px a k st l ≠ 0 then 1 else 0)
    ∧ Reduces (.redadd px d a) d
        (fun k st r => r = BitVec.ofNat 32 ((taking (.redadd px d a) st).map (fun l => (opA px a k st l).toNat)).sum)
    ∧ Reduces (.redmin px d a) d (fun k st r =>
        (∀ l ∈ taking (.redmin px d a) st, r.toInt ≤ (opA px a k st l).toInt)
        ∧ (r = 0x7FFFFFFF ∨ ∃ l ∈ taking (.redmin px d a) st, r = opA px a k st l))
    ∧ Reduces (.redmax px d a) d (fun k st r =>
        (∀ l ∈ taking (.redmax px d a) st, (opA px a k st l).toInt ≤ r.toInt)
        ∧ (r = 0x80000000 ∨ ∃ l ∈ taking (.redmax px d a) st, r = opA px a k st l))
    ∧ ReducesIdx (.redminIdx px d a b) d a b (fun x y => x.toNat < y.toNat) 0xFFFFFFFF
    ∧ ReducesIdx (.redmaxIdx px d a b) d a b (fun x y => y.toNat < x.toNat) 0
    ∧ (∀ s st k, Ready (.redfadd px d a) s st k →
        let r := rndProducts fp32 (modeOf px st) [] ((taking (.redfadd px d a) st).map (fun l => fp32.decode (opA px a k st l).toNat))
        Gives (.redfadd px d a) s st k
          (if st.active px = 0 then st
           else flagged (st.putV (dstOf px d k) (st.active px) (fun _ => BitVec.ofNat 32 r.bits)) r.flags))
    ∧ Lanes (.scanadd px d a) d (fun k st l =>
        BitVec.ofNat 32 (((taking (.scanadd px d a) st).filter (· ≤ l)).map (fun j => (opA px a k st j).toNat)).sum)
    ∧ Lanes (.mcount px d m) d (fun _ st l =>
        BitVec.ofNat 32 ((List.range l).filter (fun j => (st.mask m.toNat).getLsbD j)).length)
    ∧ (∀ s st k, Ready (.ballot px m a) s st k →
        Gives (.ballot px m a) s st k
          (if st.active px = 0 then st
           else st.setM m.toNat (buildMask (fun l => decide (l ∈ taking (.ballot px m a) st ∧ opA px a k st l ≠ 0)))))

/-- Shuffles, votes, reductions and scans. -/
def Obligations.CrossLaneResults : Prop :=
  Claims.ShuffleResults ∧ Claims.VotesReductionsScans

/-- R217: a strand that reaches `regroup` clears the bits of its payload, gives up its lease and waits at the counter of its
workgroup, where the arrival is counted; the firmware slot takes the illegal-instruction trap. -/
def Sys2Proof.Claims.RegroupArrives : Prop :=
  ∀ (px : Pfx) (d a b : BitVec 8) (s : State) (st : Strand) (k : Nat),
    let i : Instr := .regroup px d a b
    Ready i s st k →
    (∀ g, st.isFirmware = false → s.gangOf st = some g →
      exec i s = .next (((withCur s { st with
          emptyV := ((List.range (b.toNat + 1 - d.toNat)).map (fun j => d.toNat + j)).foldl addTo st.emptyV
          state := .parked, park := some .regroup, waiting := some i }).demote st.who true).arriveAt st
            (.regroup st.who.wg.toNat)))
    ∧ (st.isFirmware = true →
      exec i s = .next (s.takeTrap s.cur ⟨0x01, 0, none, st.priorDone i, 0, 0⟩ st.pc (rptstateAt i k)))

/-- The state in which a strand that reaches `regroup` has parked and is counted (R217). -/
def Claims.regroupCounted (px : Pfx) (d a b : BitVec 8) (s : State) (st : Strand) (g : Gang) : State :=
  ((withCur s { st with
      emptyV := ((List.range (b.toNat + 1 - d.toNat)).map (fun j => d.toNat + j)).foldl addTo st.emptyV
      state := .parked, park := some .regroup, waiting := some (.regroup px d a b) }).demote st.who true).modCounter g
    (.regroup st.who.wg.toNat) (fun c => { c with arrived := c.arrived + 1 })

/-- R217 to R219: the strand whose arrival makes the counter of its workgroup full, with the register operands of those that have arrived and no
barrier under way in its gang, completes the `regroup`: the exchange takes place, and the strand goes on behind the instruction. Of a workgroup of one
strand, the lane that is n-th among its active lanes takes, in every register of the payload, the word of the lane whose key is n-th. -/
def Sys2Proof.Claims.RegroupCompletes : Prop :=
  ∀ (px : Pfx) (d a b : BitVec 8) (s : State) (st : Strand) (k : Nat) (g : Gang),
    let i : Instr := .regroup px d a b
    let w := st.who.wg.toNat
    Ready i s st k → st.isFirmware = false → st.state = .active → s.gangOf st = some g → w < g.kernel.wgs →
    (s.counter g (.regroup w)).registered = (s.counter g (.regroup w)).arrived + 1 →
    (∀ c, c ≠ .regroup w → (s.counter g c).arrived = 0) →
    (∀ x ∈ s.strands, s.member g (.regroup w) x = true → (Counter.regroup w).has x = true →
      regroupFields x.waiting = (d.toNat, a.toNat, b.toNat)) →
    let t := (Claims.regroupCounted px d a b s st g).completeCounter g (.regroup w)
    exec i s = .next t
    ∧ ∃ st', t.strands[s.cur]? = some st'
      ∧ st'.pc = st.pc + BitVec.ofNat 64 (4 * seqWords px) ∧ st'.park = none ∧ st'.waiting = none ∧ st'.state = .waiting
      ∧ ((∀ j x, s.strands[j]? = some x → j ≠ s.cur → s.member g (.regroup w) x = false) →
          let act := (List.range 32).filter (fun l => (st.active px).getLsbD l)
          let sorted := (act.map (fun l => (⟨(st.lane a.toNat l).toNat, 0, l, []⟩ : Source))).foldl (fun acc x => insertSource x acc) []
          ∀ (n l : Nat) (x : Source), act[n]? = some l → sorted[n]? = some x →
            ∀ j, d.toNat + j ≤ b.toNat → st'.lane (d.toNat + j) l = st.lane (d.toNat + j) x.lane)

/-- R218: the sources of an exchange are sorted by key, and those of equal keys keep their order. -/
def Sys2Proof.Claims.RegroupSortsByKey : Prop :=
  ∀ (l : List Source),
    let sorted := l.foldl (fun acc x => insertSource x acc) []
    sorted.Perm l
    ∧ sorted.Pairwise (fun x y => x.key ≤ y.key)
    ∧ ∀ key, sorted.filter (fun x => x.key = key) = l.filter (fun x => x.key = key)

/-- `regroup` from the arrival of each strand to the new lanes. -/
def Obligations.RegroupExchangesLanes : Prop :=
  Claims.RegroupArrives ∧ Claims.RegroupCompletes ∧ Claims.RegroupSortsByKey

/-! ### Per-lane memory instructions and what their accesses do at the homes -/

namespace Sys2Proof.Claims

/-- The v registers r, r + 1, … that hold `size` bytes. -/
def groupOf (r size : Nat) : List Nat := (List.range ((size + 3) / 4)).map (fun j => r + j)

/-- A form of a per-lane memory instruction: the record, the element offset and the index of each lane (R222), the size, the access of
each lane, and the registers that an answer fills. -/
def form (px : Pfx) (b : BitVec 4) (x : BitVec 8) (off : Nat) (kind : AccessKind) (size align : Nat) (access : Nat → Access)
    (dest : List Nat) (k : Nat) (st : Strand) : LaneForm :=
  { record := st.brec b.toNat, off := off, index := opA px x k st, align := align, kind := kind, near := false, access := access
    size := size, dest := dest }

/-- The requests that the lanes start, in ascending lane order: their identifiers count on from `base`, and their answers go to the
result `id`. -/
def started (st : Strand) (fm : LaneForm) (id base : Nat) (outs : List (Nat × LaneRes)) : List Req :=
  (outs.filterMap (fun o => match o.2 with | .ok (.mem a) v => some (o.1, a, v) | _ => none)).mapIdx (fun n x =>
    { id := base + n, who := st.who, core := st.core, ctx := st.who.ctx, addr := x.2.1, size := fm.size, access := fm.access x.1
      reply := if fm.dest.isEmpty then none else some ⟨id, some x.1, fm.dest, none⟩
      vline := vlineOf (field x.2.2 56 0), path := BitVec.ofNat 4 (field x.2.2 63 60) })

/-- A memory instruction whose active lanes all pass the checks of R226, at homes of the own package, or are out of range (R224): the
sequence completes; each lane in range has its access on its way; the destinations are empty until their result arrives, in which the
lanes out of range already hold zero; sr.oobcount counts those lanes. Memory is as the checks leave it: page-table walks set REF
(R42). No read of the checks waits for a way or a die (R73, R466). -/
def LanesStart (i : Instr) (fm : Nat → Strand → LaneForm) : Prop :=
  ∀ s st k s1 outs, Ready i s st k → st.active i.px ≠ 0 → recordBad (fm k st).record = false →
    checkLanes st (fm k st) (lanesOf (st.active i.px)) s = (s1, outs) → s1.stalled = s.stalled →
    (∀ o ∈ outs, o.2 = .out ∨ ∃ a v, o.2 = .ok (.mem a) v) →
    let dest := (fm k st).dest
    let none' := (outs.filter (fun o => o.2 = .out)).length
    let base := if dest.isEmpty then s1.nextId else s1.nextId + 1
    let reqs := started st (fm k st) s1.nextId base outs
    ∃ t, exec i s = .next t
      ∧ t.mem = s1.mem
      ∧ t.strands = s.strands.set s.cur (settled i k st { st with
          emptyV := dest.foldl addTo st.emptyV
          sr := { st.sr with oobcount := BitVec.ofNat 32 (min (2 ^ 32 - 1) (st.sr.oobcount.toNat + none')) } })
      ∧ t.reqs = s.reqs ++ reqs
      ∧ (∀ r ∈ s.results, r.id ≠ s1.nextId → r ∈ t.results)
      ∧ (dest = [] → t.results = s.results)
      ∧ (dest ≠ [] → t.results.getLast? = some
          { id := s1.nextId, who := st.who, vregs := dest, wregs := []
            vwrites := outs.flatMap (fun o => if o.2 = .out then dest.map (fun r => (r, o.1, (0 : Word))) else [])
            wwrites := [], mwrites := [], bwrites := [], pending := reqs.map (·.id), flags := 0, rsvflags := 0 })

/-- The value an atomic or integer reduction writes (R232): w the old value, x the operand, of `n` bits. -/
def opValue (n : Nat) (op : BitVec 4) (w x : Nat) : Nat :=
  match op.toNat with
  | 0 => (w + x) % 2 ^ n
  | 1 => if (BitVec.ofNat n w).toInt ≤ (BitVec.ofNat n x).toInt then w else x
  | 2 => if (BitVec.ofNat n w).toInt ≤ (BitVec.ofNat n x).toInt then x else w
  | 3 => min w x
  | 4 => max w x
  | 5 => w &&& x
  | 6 => w ||| x
  | 7 => w ^^^ x
  | 8 => x
  | _ => if w ≥ x then 0 else w + 1

/-- The access of a request can be performed at its home now: it is in the queue, no earlier one of its strand holds it back (R366),
and its lines find ways in the L2 (R73). -/
def Performs (s : State) (id : Nat) (r : Req) : Prop :=
  s.reqs.find? (fun q => q.id == id) = some r ∧ isVault r.addr = false ∧ blocked s.reqs r = false ∧ s.l2Ready r.addr r.size = true

/-- An access to these bytes waits neither for a way nor for a die (R73, R466), and meets no error (R24, R93). -/
def AtHand (s : State) (a n : Nat) : Prop := s.l2Ready a n = true ∧ s.deadDies = [] ∧ s.vaultUpsets = []

/-- Memory differs only in the bytes from `a`, which are now `data`. -/
def Stored (s t : State) (a : Nat) (data : List Byte) : Prop :=
  ∀ x, t.mem.get x = if a ≤ x ∧ x < a + data.length then data.getD (x - a) 0 else s.mem.get x

/-- A byte that lies in no word of a partial copy. Such words are combined into memory when their line is used, or evicted (R83). -/
def Uncopied (s : State) (x : Nat) : Prop :=
  ∀ c ∈ s.partials, ∀ w ∈ c.words, x < c.line + w.off ∨ c.line + w.off + w.tag.size ≤ x

end Sys2Proof.Claims

/-- R222 to R224: a lane's address, and what an index past EXTENT does under each OOBP. -/
def Obligations.LaneAddresses : Prop :=
  ∀ (r : BitVec 128) (x : Word) (off : Nat),
    let idx := x.toNat + off
    let extent := (r.extractLsb' 64 32).toNat
    let swz := fun (o : Nat) => match (r.extractLsb' 116 4).toNat with
      | 1 => o ^^^ (o / 2 ^ 7 % 8 * 2 ^ 4)
      | 2 => o ^^^ (o / 2 ^ 7 % 32 * 2 ^ 2)
      | _ => o
    let at' := fun (n : Nat) => r.extractLsb' 0 64 + BitVec.ofNat 64 (swz (n * (r.extractLsb' 96 16).toNat))
    let oobp := (r.extractLsb' 120 4).toNat
    (idx < extent → indexOf r x off = .at (at' idx))
    ∧ (extent ≤ idx → oobp = 0 → indexOf r x off = .out)
    ∧ (extent ≤ idx → oobp = 1 → indexOf r x off = .fault (at' idx))
    ∧ (extent ≤ idx → oobp = 2 → 0 < extent → indexOf r x off = .at (at' (extent - 1)))
    ∧ (extent = 0 → oobp = 2 → indexOf r x off = .out)

/-- R228, R232, R233: loads and atomics start. -/
def Sys2Proof.Claims.LaneLoadsAndAtomicsStart : Prop :=
  ∀ (px : Pfx) (d x : BitVec 8) (b f : BitVec 4),
    let off := fun k => f.toNat + k * (seqRpt px).sb.toNat
    let ld := fun (i : Instr) (n : Nat) => LanesStart i (fun k => form px b x (off k) .read n n (fun _ => .read n) (groupOf (dstOf px d k) n) k)
    let group := fun (st : Strand) (r n l : Nat) => st.laneGroup r ((n + 3) / 4) l
    let atom := fun (i : Instr) (wide : Bool) =>
      let n := if wide then 8 else 4
      LanesStart i (fun k st => form px b x 0 .write n n (fun l => .atomic wide f (BitVec.ofNat 64 (group st (dstOf px d k) n l)))
        (groupOf (dstOf px d k) n) k st)
    let cas := fun (i : Instr) (n : Nat) =>
      LanesStart i (fun k st => form px b x (off k) .write n n
        (fun l => .cas n (BitVec.ofNat 128 (group st (dstOf px d k) n l)) (BitVec.ofNat 128 (group st (dstOf px d k + (n + 3) / 4) n l)))
        (groupOf (dstOf px d k) n) k st)
    ld (.ldB8 px d x b f) 1 ∧ ld (.ldB16 px d x b f) 2 ∧ ld (.ldB32 px d x b f) 4 ∧ ld (.ldB64 px d x b f) 8
    ∧ ld (.ldB128 px d x b f) 16
    ∧ atom (.atomB32 px d x b f) false ∧ atom (.atomB64 px d x b f) true
    ∧ cas (.atomCasB32 px d x b f) 4 ∧ cas (.atomCasB64 px d x b f) 8 ∧ cas (.atomCas128 px d x b f) 16

/-- R229, R234, R235, R237: stores and reductions start. -/
def Sys2Proof.Claims.LaneStoresAndReductionsStart : Prop :=
  ∀ (px : Pfx) (v x : BitVec 8) (b f : BitVec 4) (ty op : BitVec 2) (w : BitVec 1),
    let off := fun k => f.toNat + k * (seqRpt px).sb.toNat
    let group := fun (st : Strand) (r n l : Nat) => st.laneGroup r ((n + 3) / 4) l
    let st' := fun (i : Instr) (n : Nat) =>
      LanesStart i (fun k st => form px b x (off k) .write n n (fun l => .write (leBytes n (group st (dstOf px v k) n l))) [] k st)
    let red := fun (i : Instr) (n align : Nat) (acc : W64 → Access) =>
      LanesStart i (fun k st => form px b x 0 .write align align (fun l => acc (BitVec.ofNat 64 (group st (dstOf px v k) n l))) [] k st)
    let n := if ty = 3 then 8 else 4
    let pn := if w = 1 then 8 else 4
    st' (.stB8 px v x b f) 1 ∧ st' (.stB16 px v x b f) 2 ∧ st' (.stB32 px v x b f) 4 ∧ st' (.stB64 px v x b f) 8
    ∧ st' (.stB128 px v x b f) 16
    ∧ red (.redB32 px v x b f) 4 4 (.redInt false f) ∧ red (.redB64 px v x b f) 8 8 (.redInt true f)
    ∧ red (.redF px v x b ty op) n n (.redFloat ty op false)
    ∧ red (.redFFtz px v x b ty op) n n (.redFloat ty op true)
    ∧ red (.redFPair px v x b w) pn (2 * pn) (.redPair (w = 1))

/-- R226, R227: a record that breaks R131 or R223 faults every active lane with A of the lowest of them as the address, and nothing is accessed; R230:
`pf` writes no register and no byte of memory but the REF bits of walks, and completes on every operand whose record is good, when none of its
accesses waits for a way or a die (R73, R466). -/
def Sys2Proof.Claims.RecordFaultsAndPrefetch : Prop :=
  ∀ (px : Pfx) (d x : BitVec 8) (b f : BitVec 4) (ty op : BitVec 2) (w : BitVec 1) (s : State) (st : Strand) (k : Nat),
    let off := f.toNat + k * (seqRpt px).sb.toNat
    let lines := form px b x off .read 128 1 (fun _ => .read 128) [] k st
    (∀ p ∈ [(Instr.ldB8 px d x b f, off), (.ldB16 px d x b f, off), (.ldB32 px d x b f, off), (.ldB64 px d x b f, off), (.ldB128 px d x b f, off),
        (.stB8 px d x b f, off), (.stB16 px d x b f, off), (.stB32 px d x b f, off), (.stB64 px d x b f, off), (.stB128 px d x b f, off),
        (.pf px x b f, off), (.atomB32 px d x b f, 0), (.atomB64 px d x b f, 0), (.atomCasB32 px d x b f, off), (.atomCasB64 px d x b f, off),
        (.atomCas128 px d x b f, off), (.redB32 px d x b f, 0), (.redB64 px d x b f, 0), (.redF px d x b ty op, 0), (.redFFtz px d x b ty op, 0),
        (.redFPair px d x b w, 0)],
      Ready p.1 s st k → recordBad (st.brec b.toNat) = true →
      ∀ l, (st.active px).getLsbD l = true → (∀ j < l, (st.active px).getLsbD j = false) →
      exec p.1 s = .next (s.takeTrap s.cur
        ⟨0x13, 0, some (st.active px), st.priorDone p.1, elementAddr (st.brec b.toNat) ((opA px x k st l).toNat + p.2), 0⟩ st.pc (rptstateAt p.1 k)))
    ∧ (Ready (.pf px x b f) s st k → st.active px = 0 ∨ recordBad (st.brec b.toNat) = false →
        ((lanesOf (st.active px)).foldl (fun s l =>
          match indexOf lines.record (lines.index l) lines.off with | .at a => s.prefetch st lines a | _ => s) s).stalled = s.stalled →
        ∃ t, exec (.pf px x b f) s = .next t
          ∧ t.strands[s.cur]? = some (settled (.pf px x b f) k st { st with leasePeak := (t.strands.getD s.cur st).leasePeak })
          ∧ t.reqs = s.reqs ∧ t.results = s.results)

/-- Per-lane loads, stores, atomics, reductions and prefetches start. -/
def Obligations.LaneMemoryStarts : Prop :=
  Claims.LaneLoadsAndAtomicsStart ∧ Claims.LaneStoresAndReductionsStart ∧ Claims.RecordFaultsAndPrefetch

/-- R363: an access is performed at its home by an event of its own. A read delivers the bytes of memory; a write leaves its bytes in
memory and no other byte changed. (A generic or constant load may be served by the L1 or the constant cache: R94, R101.) -/
def Sys2Proof.Claims.HomeReadsAndWrites : Prop :=
  ∀ (s : State) (id : Nat) (r : Req), Performs s id r →
    (∀ n, r.access = .read n → ∃ t, exec (.homeRead id) s = .next t ∧ (∀ q ∈ t.reqs, q.id ≠ id)
      ∧ (∀ x, Uncopied s x → t.mem.get x = s.mem.get x)
      ∧ (r.path ≠ 0 → r.path ≠ 4 → s.partials = [] → t.results = (s.answer id r.reply (s.mem.read r.addr n)).results))
    ∧ (∀ data, r.access = .write data → ∃ t, exec (.homeWrite id) s = .next t ∧ (∀ q ∈ t.reqs, q.id ≠ id) ∧ t.results = s.results
      ∧ (∀ x, r.addr ≤ x → x < r.addr + data.length → t.mem.get x = data.getD (x - r.addr) 0)
      ∧ (∀ x, x < r.addr ∨ r.addr + data.length ≤ x → Uncopied s x → t.mem.get x = s.mem.get x))

/-- R85, R232 to R234: an atomic reads and writes its element in one step and returns the old value; an integer reduction returns
nothing, and one issued on another die than its home's goes to a partial copy (R82). -/
def Sys2Proof.Claims.HomeAtomicsAndReductions : Prop :=
  ∀ (s : State) (id : Nat) (r : Req), Performs s id r → s.partials = [] →
    (∀ wide op x, r.access = .atomic wide op x → op.toNat ≤ 9 →
      let n := if wide then 8 else 4
      let w := s.mem.nat r.addr n
      ∃ t, exec (.homeAtomic id) s = .next t
        ∧ Stored s t r.addr (leBytes n (opValue (8 * n) op w (x.toNat % 2 ^ (8 * n))))
        ∧ t.results = (s.answer id r.reply (leBytes n w)).results)
    ∧ (∀ n c new, r.access = .cas n c new →
      let w := s.mem.nat r.addr n
      ∃ t, exec (.homeAtomic id) s = .next t
        ∧ Stored s t r.addr (leBytes n (if w = c.toNat then new.toNat else w))
        ∧ t.results = (s.answer id r.reply (leBytes n w)).results)
    ∧ (∀ wide op x, r.access = .redInt wide op x → op.toNat ≤ 9 →
      let n := if wide then 8 else 4
      let w := s.mem.nat r.addr n
      ∃ t, exec (.homeReduction id) s = .next t ∧ t.results = s.results
        ∧ (isDevice r.addr = false ∨ dieOf r.addr = r.core.die ∨ op.toNat = 9 →
            Stored s t r.addr (leBytes n (opValue (8 * n) op w (x.toNat % 2 ^ (8 * n)))))
        ∧ (isDevice r.addr = true → dieOf r.addr ≠ r.core.die → op.toNat < 8 →
            t.mem = s.mem ∧ ∃ c ∈ t.partials, c.line = lineOf r.addr ∧ c.die = r.core.die ∧ ∃ w' ∈ c.words,
              w'.off = r.addr - lineOf r.addr ∧ w'.tag = .int wide op
                ∧ w'.val.toNat % 2 ^ (8 * n) = x.toNat % 2 ^ (8 * n)))

/-- Accesses performed at their homes. -/
def Obligations.HomeAccesses : Prop :=
  Claims.HomeReadsAndWrites ∧ Claims.HomeAtomicsAndReductions

/-- R73, R123: a held fill proceeds when a way is free; a deferred result of which no access is outstanding is written to its
registers, which become full, and a strand that waited for a register goes on. -/
def Obligations.FillsResumeAndResultsArrive : Prop :=
  ∀ (s : State) (id : Nat) (slice : BitVec 4) (set : BitVec 15) (q : Req) (r : Result) (idx : Nat) (st : Strand),
    (s.reqs = [q] → isDevice q.addr = true → q.access.special = false → s.l2Ready q.addr q.size = true →
      (∃ l ∈ linesOf q.addr q.size, s.homeSlot l = (slice.toNat, set.toNat)) →
      ∃ t, exec (.l2FillUnpinResume slice set) s = .next t ∧ t.reqs = [])
    ∧ (s.results.find? (fun x => x.id == id) = some r → r.pending = [] → s.findStrand r.who = some idx → s.strands[idx]? = some st →
      (∀ x ∈ s.strands, x.remote = none) →
      ∃ t st', exec (.deferredResultArrival id) s = .next t ∧ t.strands[idx]? = some st'
        ∧ (∀ x ∈ t.results, x.id ≠ id) ∧ t.mem = s.mem
        ∧ (∀ n ∈ r.vregs, n ∉ st'.emptyV) ∧ (∀ n ∈ r.wregs, n ∉ st'.emptyW)
        ∧ (∀ n l v, r.vwrites = [(n, l, v)] → n < st.allotment → l < 32 → st'.lane n l = v)
        ∧ (∀ n v, r.wwrites = [(n, v)] → n < 64 → st'.wreg n = v)
        ∧ st'.sr.fpflags = st.sr.fpflags ||| r.flags.setWidth 32
        ∧ (st.state = .held → st.park = some .register → st'.state = .active))

/-! ### Uniform instructions -/

namespace Sys2Proof.Claims

/-- A uniform instruction changes its strand so, and nothing else (R239). -/
def Uni (i : Instr) (f : Strand → Strand) : Prop := ∀ s st k, Ready i s st k → Gives i s st k (f st)

/-- Operand b: the literal or wb (R239); the 64-bit operand is the sign-extended literal or the pair. -/
def uB (px : Pfx) (b : BitVec 6) (st : Strand) : Word := match px.lit with | some x => x | none => st.wreg b.toNat
def uB2 (px : Pfx) (b : BitVec 6) (st : Strand) : W64 := match px.lit with | some x => x.signExtend 64 | none => st.wpair b.toNat

/-- wd written: it is full afterwards (R123). -/
def wWritten (st : Strand) (d : Nat) (x : Word) : Strand :=
  { st with w := tabSet 64 st.w d x 0, emptyW := st.emptyW.filter (· != d) }

/-- The pair wd:wd+1 written, low word first. -/
def wWritten2 (st : Strand) (d : Nat) (x : W64) : Strand :=
  wWritten (wWritten st d (x.extractLsb' 0 32)) (d + 1) (x.extractLsb' 32 32)

/-- A scalar integer operation of R241 in both widths: `f` gives the value of width W from a and b of that width. -/
def Scalar (i : Instr) (px : Pfx) (d a b : BitVec 6) (wide : BitVec 1) (f : (n : Nat) → BitVec n → BitVec n → BitVec n) : Prop :=
  Uni i (fun st =>
    if wide = 1 then wWritten2 st d.toNat (f 64 (st.wpair a.toNat) (uB2 px b st))
    else wWritten st d.toNat (f 32 (st.wreg a.toNat) (uB px b st)))

/-- A shift of R241: the count is one register, or the literal, in both widths. -/
def ShiftBy (i : Instr) (px : Pfx) (d a b : BitVec 6) (wide : BitVec 1) (f : (n : Nat) → BitVec n → Nat → BitVec n) : Prop :=
  Uni i (fun st =>
    if wide = 1 then wWritten2 st d.toNat (f 64 (st.wpair a.toNat) (uB px b st).toNat)
    else wWritten st d.toNat (f 32 (st.wreg a.toNat) (uB px b st).toNat))

/-- Sat(x) over the signed range of n bits (R160). -/
def clampN (n : Nat) (x : Int) : BitVec n :=
  BitVec.ofInt n (if (2 : Int) ^ (n - 1) ≤ x then 2 ^ (n - 1) - 1 else if x < -(2 : Int) ^ (n - 1) then -(2 : Int) ^ (n - 1) else x)

/-- A condition of R140 on operands of any width. -/
def condN {n : Nat} (c : BitVec 4) (a b : BitVec n) : Prop :=
  match c.toNat with
  | 0 => a = b
  | 1 => a ≠ b
  | 2 => a.toInt < b.toInt
  | 3 => a.toInt ≤ b.toInt
  | 4 => a.toInt > b.toInt
  | 5 => a.toInt ≥ b.toInt
  | 6 => a.toNat < b.toNat
  | 7 => a.toNat ≤ b.toNat
  | 8 => a.toNat > b.toNat
  | 9 => a.toNat ≥ b.toNat
  | _ => False

/-- A uniform floating-point result in wd, with its flags (R243). -/
def UniF (i : Instr) (d : BitVec 6) (f : Strand → FRes) : Prop :=
  Uni i (fun st => flagged (wWritten st d.toNat (BitVec.ofNat 32 (f st).bits)) (f st).flags)

/-- A deferred result of w registers, complete when it starts (R123, R239): the strand goes on, its destinations empty, and the values
are on their way. -/
def UniLate (i : Instr) (s : State) (st : Strand) (k : Nat) (writes : List (Nat × Word)) (flags : Flags) : Prop :=
  exec i s = .next
    { withCur s (settled i k st { st with emptyW := (writes.map (·.1)).foldl addTo st.emptyW }) with
      results := s.results ++ [{ id := s.nextId, who := st.who, vregs := [], wregs := writes.map (·.1), vwrites := [], wwrites := writes
                                 mwrites := [], bwrites := [], pending := [], flags := flags, rsvflags := 0 }]
      nextId := s.nextId + 1 }

/-- The strand goes on at an address with the next sequence (R227: the mask of done lanes counts for one issue). -/
def jumped (st' : Strand) (pc : W64) : Strand :=
  { st' with pc := pc, rptAt := 0, reissue := false, sr := if st'.reissue then { st'.sr with donemask := 0 } else st'.sr }

/-- A branch (R248): when it is taken the strand goes on at the branch word's address plus four times the displacement, otherwise at the
next sequence; nothing else changes. -/
def Branches {n : Nat} (i : Instr) (disp : BitVec n) (taken : Strand → Prop) : Prop :=
  ∀ s st k, Ready i s st k →
    (taken st → exec i s = .next (withCur s (jumped st (st.pc + 4 * disp.signExtend 64))))
    ∧ (¬taken st → Gives i s st k st)

/-- A mask instruction (R253): md takes the value, m0 within the live mask. -/
def MaskGets (i : Instr) (d : BitVec 3) (f : Strand → Word) : Prop :=
  Uni i (fun st => { st with m := tabSet 8 st.m d.toNat (if d = 0 then f st &&& st.live else f st) 0 })

end Sys2Proof.Claims

/-- R241, R242: scalar integer arithmetic, in 32 and 64 bits. -/
def Sys2Proof.Claims.ScalarIntegerResults : Prop :=
  ∀ (px : Pfx) (d a b c : BitVec 6) (x n g : BitVec 1) (cc : BitVec 4) (imm : BitVec 18),
    Scalar (.sadd px d a b x) px d a b x (fun w p q => if px.sat then clampN w (p.toInt + q.toInt) else p + q)
    ∧ Scalar (.ssub px d a b x) px d a b x (fun w p q => if px.sat then clampN w (p.toInt - q.toInt) else p - q)
    ∧ Scalar (.smul px d a b x) px d a b x (fun _ p q => p * q)
    ∧ Scalar (.sand px d a b x) px d a b x (fun _ p q => p &&& q)
    ∧ Scalar (.sor px d a b x) px d a b x (fun _ p q => p ||| q)
    ∧ Scalar (.sxor px d a b x) px d a b x (fun _ p q => p ^^^ q)
    ∧ ShiftBy (.sshl px d a b x) px d a b x (fun w p m => if m < w then p <<< m else 0)
    ∧ ShiftBy (.sshr px d a b x) px d a b x (fun w p m => if m < w then p >>> m else 0)
    ∧ ShiftBy (.ssra px d a b x) px d a b x
        (fun w p m => if m < w then p.sshiftRight m else if p.msb then BitVec.allOnes w else 0)
    ∧ Scalar (.smin px d a b n x) px d a b x
        (fun _ p q => if n = 1 then (if p.toNat ≤ q.toNat then p else q) else if p.toInt ≤ q.toInt then p else q)
    ∧ Scalar (.smax px d a b n x) px d a b x
        (fun _ p q => if n = 1 then (if p.toNat ≤ q.toNat then q else p) else if p.toInt ≤ q.toInt then q else p)
    ∧ Scalar (.smov px d a x) px d a 0 x (fun _ p _ => p)
    ∧ Uni (.smulh px d a b n) (fun st => wWritten st d.toNat
        (if n = 1 then ((st.wreg a.toNat).setWidth 64 * (uB px b st).setWidth 64).extractLsb' 32 32
         else ((st.wreg a.toNat).signExtend 64 * (uB px b st).signExtend 64).extractLsb' 32 32))
    ∧ (∀ s st k, Ready (.scmp px d a b x cc) s st k → ∃ r,
        Gives (.scmp px d a b x cc) s st k (wWritten st d.toNat r)
        ∧ ((if x = 1 then condN cc (st.wpair a.toNat) (uB2 px b st) else condN cc (st.wreg a.toNat) (uB px b st)) → r = 1)
        ∧ (¬(if x = 1 then condN cc (st.wpair a.toNat) (uB2 px b st) else condN cc (st.wreg a.toNat) (uB px b st)) → r = 0))
    ∧ Uni (.ssel px d a b c) (fun st => wWritten st d.toNat (if st.wreg c.toNat ≠ 0 then st.wreg a.toNat else uB px b st))
    ∧ Uni (.sli px d imm) (fun st => wWritten st d.toNat (px.lit.getD (imm.signExtend 32)))
    ∧ Uni (.slih px d imm) (fun st => wWritten st d.toNat
        (px.lit.getD ((imm.setWidth 32 <<< 14) ||| (st.wreg d.toNat &&& 0x3FFF))))
    ∧ Uni (.spopc px d a) (fun st => wWritten st d.toNat
        (BitVec.ofNat 32 ((List.range 32).filter (fun j => (st.wreg a.toNat).getLsbD j)).length))
    ∧ Uni (.sclz px d a) (fun st => wWritten st d.toNat (BitVec.ofNat 32 (zerosAbove (st.wreg a.toNat))))
    ∧ Uni (.sbfe px d a b g) (fun st =>
        let p := fieldPos (uB px b st)
        let w := fieldWidth (uB px b st)
        wWritten st d.toNat
          (if g = 1 then (((st.wreg a.toNat).sshiftRight p).setWidth w).signExtend 32
           else (((st.wreg a.toNat) >>> p).setWidth w).setWidth 32))

/-- R243, R244: scalar floating point; `sfrcp` and `sfsqrt` are deferred. -/
def Sys2Proof.Claims.ScalarFloatResults : Prop :=
  ∀ (px : Pfx) (d a b : BitVec 6) (c t f : BitVec 4),
    let A := fun (st : Strand) => (st.wreg a.toNat).toNat
    let B := fun (st : Strand) => (uB px b st).toNat
    UniF (.sfadd px d a b) d (fun st => fAdd fp32 (modeOf px st) (A st) (B st))
    ∧ UniF (.sfmul px d a b) d (fun st => fMul fp32 (modeOf px st) (A st) (B st))
    ∧ UniF (.sffma px d a b) d (fun st => fFma fp32 (modeOf px st) (A st) (B st) (st.wreg d.toNat).toNat)
    ∧ UniF (.sfmin px d a b) d (fun st => fMinMax fp32 false (A st) (B st))
    ∧ UniF (.sfmax px d a b) d (fun st => fMinMax fp32 true (A st) (B st))
    ∧ UniF (.sfcmp px d a b c) d (fun st =>
        ⟨if (fCompare fp32 c (A st) (B st)).1 then 1 else 0, (fCompare fp32 c (A st) (B st)).2⟩)
    ∧ (∀ s st k, Ready (.sfrcp px d a) s st k →
        let r := fRcp (modeOf px st) (A st)
        UniLate (.sfrcp px d a) s st k [(d.toNat, BitVec.ofNat 32 r.bits)] r.flags)
    ∧ (∀ s st k, Ready (.sfsqrt px d a) s st k →
        let r := fSqrt (modeOf px st) (A st)
        UniLate (.sfsqrt px d a) s st k [(d.toNat, BitVec.ofNat 32 r.bits)] r.flags)
    ∧ Uni (.sfcvt px d a t f) (fun st =>
        let x := if fmtRegs f = 2 then (st.wpair a.toNat).toNat else A st
        let r := cvtBits t f (modeOf px st) px.sat x (st.wreg d.toNat).toNat
        flagged (if fmtRegs t = 2 then wWritten2 st d.toNat (BitVec.ofNat 64 r.bits) else wWritten st d.toNat (BitVec.ofNat 32 r.bits))
          r.flags)

/-- Uniform integer and floating-point results. -/
def Obligations.ScalarResults : Prop :=
  Claims.ScalarIntegerResults ∧ Claims.ScalarFloatResults

/-- R245 to R247: uniform memory at homes of the own package. A load or atomic starts and goes on with its destination empty, a store
goes on with its write on its way, and `recld` has its record before the next sequence. A fault is the whole strand's. No read of the checks waits
for a way or a die (R73, R466), and the line of `recld` is at hand. -/
def Obligations.UniformMemory : Prop :=
  ∀ (d a : BitVec 6) (z : BitVec 3) (z1 : BitVec 1) (p b : BitVec 4) (f : BitVec 9) (s s1 : State) (st : Strand) (k adr : Nat) (far : Bool),
    let n := 2 ^ z.toNat
    let n1 := if z1 = 1 then 8 else 4
    let at' := fun (n : Nat) => st.wpair a.toNat + BitVec.ofInt 64 (f.toInt * n)
    let regs := fun (n : Nat) => (List.range ((n + 3) / 4)).map (fun j => d.toNat + j)
    let req := fun (id : Nat) (v : W64) (size : Nat) (acc : Access) (rep : Option Reply) =>
      ({ id := id, who := st.who, core := st.core, ctx := st.who.ctx, addr := adr, size := size, access := acc, reply := rep
         vline := vlineOf (field v 56 0), path := BitVec.ofNat 4 (field v 63 60) } : Req)
    let load := fun (i : Instr) (v : W64) (size : Nat) (kind : AccessKind) (acc : Access) =>
      Ready i s st k → s.placeUniform st v size kind = (s1, .ok (.mem adr, far)) → s1.stalled = s.stalled →
      ∃ t, exec i s = .next t
        ∧ t.strands = s.strands.set s.cur (settled i k st { st with emptyW := (regs size).foldl addTo st.emptyW })
        ∧ t.reqs = s.reqs ++ [req (s1.nextId + 1) v size acc (some ⟨s1.nextId, none, regs size, none⟩)]
        ∧ t.results.getLast? = some
            { id := s1.nextId, who := st.who, vregs := [], wregs := regs size, vwrites := [], wwrites := [], mwrites := []
              bwrites := [], pending := [s1.nextId + 1], flags := 0, rsvflags := 0 }
        ∧ t.mem = s1.mem
    let store := fun (i : Instr) (v : W64) (size : Nat) (data : List Byte) =>
      Ready i s st k → s.placeUniform st v size .write = (s1, .ok (.mem adr, far)) → s1.stalled = s.stalled →
      ∃ t, exec i s = .next t
        ∧ t.strands = s.strands.set s.cur (settled i k st st)
        ∧ t.reqs = s.reqs ++ [req s1.nextId v size (.write data) none]
        ∧ t.results = s.results ∧ t.mem = s1.mem
    let faults := fun (i : Instr) (v : W64) (size : Nat) (kind : AccessKind) =>
      ∀ e : AFault, Ready i s st k → s.placeUniform st v size kind = (s1, .bad e) → s1.stalled = s.stalled →
        exec i s = .next (s1.takeTrap s.cur ⟨e.cls, e.detail, none, 0, v, e.walkent⟩ st.pc 0)
    load (.sld d a z f) (at' n) n .read (.read n)
    ∧ load (.satom d a z1 p) (st.wpair a.toNat) n1 .write (.atomic (z1 = 1) p (BitVec.ofNat 64 (st.wgroup d.toNat ((n1 + 3) / 4))))
    ∧ store (.sst d a z f) (at' n) n (leBytes n (st.wgroup d.toNat ((n + 3) / 4)))
    ∧ store (.recst b a f) (at' 16) 16 (leBytes 16 (st.brec b.toNat).toNat)
    ∧ (Ready (.recld b a f) s st k → s.placeUniform st (at' 16) 16 .read = (s1, .ok (.mem adr, far)) → s1.stalled = s.stalled →
        AtHand s1 adr 16 →
        s.reqs = [] → s.results = [] → s.partials = [] → field (at' 16) 63 60 = 1 → s.findStrand st.who = some s.cur →
        ∃ t st', exec (.recld b a f) s = .next t ∧ t.strands[s.cur]? = some (settled (.recld b a f) k st st')
          ∧ st'.brec b.toNat = BitVec.ofNat 128 (s1.mem.nat adr 16)
          ∧ st'.v = st.v ∧ st'.w = st.w ∧ st'.m = st.m ∧ t.reqs = [] ∧ t.results = [])
    ∧ faults (.sld d a z f) (at' n) n .read ∧ faults (.sst d a z f) (at' n) n .write
    ∧ faults (.satom d a z1 p) (st.wpair a.toNat) n1 .write
    ∧ faults (.recld b a f) (at' 16) 16 .read ∧ faults (.recst b a f) (at' 16) 16 .write

/-- R248: the branches; they change only the program counter. -/
def Obligations.BranchesDecide : Prop :=
  ∀ (a : BitVec 6) (c : BitVec 4) (m : BitVec 3) (d : BitVec 21) (e : BitVec 14),
    Branches (.br d) d (fun _ => True)
    ∧ Branches (.brw a c e) e (fun st => condN c (st.wreg a.toNat) 0)
    ∧ Branches (.brany m d) d (fun st => st.mask m.toNat &&& st.mask 0 ≠ 0)
    ∧ Branches (.brall m d) d (fun st => st.mask 0 &&& ~~~st.mask m.toNat = 0)
    ∧ Branches (.brnone m d) d (fun st => st.mask m.toNat &&& st.mask 0 = 0)

/-- R249, R250: calls, computed jumps and `loop`. -/
def Sys2Proof.Claims.CallsJumpsLoops : Prop :=
  ∀ (px : Pfx) (a b : BitVec 6) (d : BitVec 21) (e : BitVec 14) (s : State) (st : Strand) (k : Nat),
    let fetchable := fun (t : W64) => t.extractLsb' 0 2 = 0 ∧ t.extractLsb' 57 3 = 0
      ∧ (t.extractLsb' 60 4 = 0 ∨ t.extractLsb' 60 4 = 1 ∨ t.extractLsb' 60 4 = 4)
    let goes := fun (i : Instr) (t : W64) => Ready i s st k →
      (fetchable t → exec i s = .next (withCur s (jumped st t)))
      ∧ (¬fetchable t → exec i s = .next (s.takeTrap s.cur ⟨0x01, 0, none, 0, 0, 0⟩ st.pc 0))
    let less := st.wreg a.toNat - 1
    (Ready (.callU d) s st k →
      exec (.callU d) s = .next (withCur s (jumped (wWritten2 st 62 (st.pc + 4)) (st.pc + 4 * d.signExtend 64))))
    ∧ goes (.ret px a) (st.wpair a.toNat)
    ∧ goes (.jmpw px a b) (st.wpair a.toNat + 4 * (st.wreg b.toNat).signExtend 64)
    ∧ (Ready (.loopW a e) s st k →
        (less ≠ 0 → exec (.loopW a e) s = .next (withCur s (jumped (wWritten st a.toNat less) (st.pc + 4 * e.signExtend 64))))
        ∧ (less = 0 → Gives (.loopW a e) s st k (wWritten st a.toNat 0)))

/-- R252: `nop`, `yield`, `sleep` and `trap n`, and the end of a sleep: the `sleep` has retired when the strand parks. -/
def Sys2Proof.Claims.NopYieldSleepTrap : Prop :=
  ∀ (px : Pfx) (n : BitVec 18) (m : BitVec 16) (s : State) (st : Strand) (k idx : Nat),
    let cycles := match px.lit with | some x => x.toNat | none => n.toNat
    (Ready (.nop px) s st k → Gives (.nop px) s st k st)
    ∧ (Ready (.yield px) s st k → Gives (.yield px) s st k { st with yielded := true })
    ∧ (Ready (.sleep px n) s st k → cycles = 0 → Gives (.sleep px n) s st k st)
    ∧ (Ready (.sleep px n) s st k → 0 < cycles → ∃ t, exec (.sleep px n) s = .next t ∧ t.mem = s.mem ∧ t.gangs = s.gangs
        ∧ t.strands = s.strands.set s.cur
            { st with
              state := .parked, park := some (.sleep (s.cycle + cycles)), waiting := none, pc := st.pc + BitVec.ofNat 64 (4 * seqWords px), rptAt := 0
              reissue := false, sr := if st.reissue then { st.sr with donemask := 0 } else st.sr })
    ∧ (Ready (.trapU px m) s st k →
        exec (.trapU px m) s = .next (s.takeTrap s.cur ⟨0x05, m, none, 0, 0, 0⟩ (st.pc + BitVec.ofNat 64 (4 * seqWords px)) 0))
    ∧ (∀ due, s.findStrand st.who = some idx → s.strands[idx]? = some st → st.state = .parked → st.isFirmware = false →
        st.park = some (.sleep due) →
        ∃ t st', exec (.sleepExpiry st.who) s = .next t ∧ t.strands[idx]? = some st' ∧ st'.state = .waiting
          ∧ st'.pc = st.pc ∧ st'.park = none ∧ t.cycle = max s.cycle due ∧ t.mem = s.mem)

/-- R251: `exit` of some lanes, of none, and of the last ones. -/
def Sys2Proof.Claims.ExitsLeave : Prop :=
  ∀ (px : Pfx) (s : State) (st : Strand) (k : Nat), Ready (.exitL px) s st k →
    (st.mask 0 = 0 → Gives (.exitL px) s st k st)
    ∧ (st.live &&& ~~~st.mask 0 ≠ 0 → st.mask 0 ≠ 0 →
        Gives (.exitL px) s st k { st with live := st.live &&& ~~~st.mask 0, m := tabSet 8 st.m 0 0 0 })
    ∧ (st.live &&& ~~~st.mask 0 = 0 → st.mask 0 ≠ 0 →
        (st.posted ≠ 0 → exec (.exitL px) s = .next (withCur s { st with state := .held, park := some .posted }))
        ∧ (st.posted = 0 → st.sr.rfault.getLsbD 63 = true →
            exec (.exitL px) s = .next (s.takeTrap s.cur ⟨0x1A, 0, none, 0, 0, 0⟩ st.pc 0))
        ∧ (st.posted = 0 → st.sr.rfault.getLsbD 63 = false → s.statusReq st.who = true → ∃ t, exec (.exitL px) s = .next t
            ∧ t.strands = s.strands.set s.cur { st with state := .parked, park := some .exit, waiting := some (.exitL px) })
        ∧ (st.posted = 0 → st.sr.rfault.getLsbD 63 = false → s.statusReq st.who = false → s.statusSec st.who = true →
            exec (.exitL px) s = .next (s.takeTrap s.cur ⟨0x2A, 2, none, 0, s.heldKey st.who, 0⟩ st.pc 0))
        ∧ (st.posted = 0 → st.sr.rfault.getLsbD 63 = false → s.statusReq st.who = false → s.statusSec st.who = false →
            exec (.exitL px) s = .next (((withCur s { st with
              live := 0, m := tabSet 8 st.m 0 0 0, state := .ended, park := none
              pc := st.pc + BitVec.ofNat 64 (4 * seqWords px) }).dropResults st.who).deregister st)))

/-- Calls, jumps, loops, yields, traps and exits. -/
def Obligations.ControlTransfers : Prop :=
  Claims.CallsJumpsLoops ∧ Claims.NopYieldSleepTrap ∧ Claims.ExitsLeave

/-- R253: the mask instructions. A predicated one is ill-formed. -/
def Obligations.MaskInstructions : Prop :=
  ∀ (px : Pfx) (d a b : BitVec 3) (w : BitVec 6),
    MaskGets (.mand px d a b) d (fun st => st.mask a.toNat &&& st.mask b.toNat)
    ∧ MaskGets (.mor px d a b) d (fun st => st.mask a.toNat ||| st.mask b.toNat)
    ∧ MaskGets (.mxor px d a b) d (fun st => st.mask a.toNat ^^^ st.mask b.toNat)
    ∧ MaskGets (.mandn px d a b) d (fun st => st.mask a.toNat &&& ~~~st.mask b.toNat)
    ∧ MaskGets (.mnot px d a) d (fun st => ~~~st.mask a.toNat)
    ∧ MaskGets (.mmov px d a) d (fun st => st.mask a.toNat)
    ∧ MaskGets (.wtom px d w) d (fun st => st.wreg w.toNat)
    ∧ Uni (.mtow px w a) (fun st => wWritten st w.toNat (st.mask a.toNat))
    ∧ Uni (.mpopc px w a) (fun st => wWritten st w.toNat
        (BitVec.ofNat 32 ((List.range 32).filter (fun j => (st.mask a.toNat).getLsbD j)).length))
    ∧ Uni (.mffs px w a) (fun st => wWritten st w.toNat (BitVec.ofNat 32 (zerosBelow (st.mask a.toNat))))
    ∧ (px.extD.pred ≠ 0 → ∀ i ∈ [Instr.mand px d a b, .mor px d a b, .mxor px d a b, .mandn px d a b, .mnot px d a, .mmov px d a, .wtom px d w,
        .mtow px w a, .mpopc px w a, .mffs px w a], i.wf = false)

/-! ### System registers and system instructions -/

namespace Sys2Proof.Claims

/-- No access, result or walk of the machine is under way on behalf of a strand. -/
def Idle (s : State) : Prop := s.reqs = [] ∧ s.results = []

/-- A field of a word: bits [hi:lo] as a number. -/
def bits {n : Nat} (x : BitVec n) (hi lo : Nat) : Nat := (x.extractLsb' lo (hi - lo + 1)).toNat

/-- The trap of a uniform sequence that has no effect (R4, R148, R239): taken at the sequence, with the cause class. -/
def TrapsAt (i : Instr) (s : State) (st : Strand) (cls : BitVec 8) : Prop :=
  exec i s = .next (s.takeTrap s.cur ⟨cls, 0, none, 0, 0, 0⟩ st.pc 0)

end Sys2Proof.Claims

/-- R128, R129, R254: `srd` writes the register's value to wd, or to the pair for a 64-bit register, and the registers hold what their
table says: the status (RPT, HND and MODE), the saved registers, the flags, the positions, the live mask and the cycle counter. -/
def Sys2Proof.Claims.SystemRegisterReads : Prop :=
  ∀ (px : Pfx) (d : BitVec 6) (n : BitVec 8) (s : State) (st : Strand) (k : Nat),
    let val := s.srRead st n.toNat
    let wide := n.toNat ∈ [0x02, 0x05, 0x0D, 0x0E, 0x15, 0x16, 0x17, 0x18, 0x19]
    (Ready (.srd px d n) s st k →
      Gives (.srd px d n) s st k (if wide then wWritten2 st d.toNat val else wWritten st d.toNat (val.setWidth 32)))
    ∧ (n = 0x00 → val.getLsbD 8 = s.statusReq st.who ∧ val.getLsbD 7 = s.statusSec st.who ∧ val.getLsbD 6 = st.sr.rfault.getLsbD 63
        ∧ val.getLsbD 5 = st.sr.rpt ∧ val.getLsbD 4 = st.sr.hnd
        ∧ (st.sr.mode = .user → val.extractLsb' 0 2 = 0) ∧ (st.sr.mode = .supervisor → val.extractLsb' 0 2 = 1)
        ∧ (st.sr.mode = .firmware → val.extractLsb' 0 2 = 2))
    ∧ (n = 0x01 → val = st.sr.cause.setWidth 64) ∧ (n = 0x02 → val = st.sr.epc) ∧ (n = 0x03 → val = st.sr.emask.setWidth 64)
    ∧ (n = 0x04 → val = st.sr.donemask.setWidth 64) ∧ (n = 0x05 → val = st.sr.faddr)
    ∧ (n = 0x08 → val = st.sr.fpflags.setWidth 64) ∧ (n = 0x0D → val = st.sr.handler) ∧ (n = 0x0E → val = st.sr.rfault)
    ∧ (n = 0x0F → val = st.sr.oobcount.setWidth 64) ∧ (n = 0x14 → val = st.live.setWidth 64)
    ∧ (n = 0x15 → val = BitVec.ofNat 64 s.cycle) ∧ (n = 0x13 → val = st.who.gang.setWidth 64)
    ∧ (n = 0x12 → val = (st.ctxSlot ++ st.who.ctx).setWidth 64)

/-- R4, R5, R254: `swr` of a value with a reserved bit traps and changes nothing; a write of a read-only register is ignored; a write of
any other register is what the next read of it gives (sr.rfault is cleared, not written: its V can only be cleared). -/
def Sys2Proof.Claims.SystemRegisterWrites : Prop :=
  ∀ (px : Pfx) (w : BitVec 6) (n : BitVec 8) (s : State) (st : Strand) (k : Nat), Ready (.swr px w n) s st k →
    let wide := n.toNat ∈ [0x02, 0x05, 0x0D, 0x0E, 0x15, 0x16, 0x17, 0x18, 0x19]
    let val : W64 := if wide then st.wpair w.toNat else (st.wreg w.toNat).setWidth 64
    (val &&& ~~~srFields n.toNat ≠ 0 → TrapsAt (.swr px w n) s st 0x01)
    ∧ (val &&& ~~~srFields n.toNat = 0 → n.toNat ∈ [0x00, 0x0A, 0x0B, 0x10, 0x11, 0x12, 0x13, 0x14, 0x15] →
        Gives (.swr px w n) s st k st)
    ∧ (val &&& ~~~srFields n.toNat = 0 →
        n.toNat ∈ [0x01, 0x02, 0x03, 0x05, 0x06, 0x07, 0x08, 0x09, 0x0C, 0x0D, 0x0F, 0x16, 0x17, 0x18, 0x19] →
        ∃ t st', exec (.swr px w n) s = .next t ∧ t.strands[s.cur]? = some st' ∧ t.srRead st' n.toNat = val
          ∧ t.mem = s.mem ∧ st'.v = st.v ∧ st'.w = st.w ∧ st'.m = st.m ∧ st'.pc = st.pc + BitVec.ofNat 64 (4 * seqWords px))
    ∧ (n = 0x0E → val.getLsbD 63 = false → ∃ t st', exec (.swr px w n) s = .next t ∧ t.strands[s.cur]? = some st'
          ∧ (t.srRead st' 0x0E).extractLsb' 62 2 = 0 ∧ (t.srRead st' 0x0E).extractLsb' 0 62 = st.sr.rfault.extractLsb' 0 62)

/-- Reads and writes of the system registers. -/
def Obligations.SystemRegisters : Prop :=
  Claims.SystemRegisterReads ∧ Claims.SystemRegisterWrites

/-- R255: `rfe` in a handler restores m0, the mode and the program counter, and the interrupted repeat; outside a handler it is an illegal
instruction, in user mode it is the privilege trap. -/
def Sys2Proof.Claims.ReturnsFromHandlers : Prop :=
  ∀ (px : Pfx) (s : State) (st : Strand) (k : Nat), s.strands[s.cur]? = some st → st.owed = none →
    (Ready (.rfe px) s st k → st.sr.hnd = true →
      exec (.rfe px) s = .next (withCur s { st with
        m := tabSet 8 st.m 0 (st.sr.emask &&& st.live) 0
        pc := st.sr.epc &&& ~~~3
        rptAt := if st.sr.rptstate.getLsbD 31 then bits st.sr.rptstate 7 0 else 0
        reissue := true
        sr := { st.sr with
          hnd := false
          rpt := false
          rptstate := st.sr.rptstate &&& 0x7FFFFFFF
          cause := st.sr.cause &&& 0x7FFFFFFF
          mode := if st.who.gang = 0xFFFFFF then .firmware else .user } }))
    ∧ (Ready (.rfe px) s st k → st.sr.hnd = false → TrapsAt (.rfe px) s st 0x01)
    ∧ ((Instr.rfe px).wf = true → st.sr.mode = .user → st.rptAt = 0 → TrapsAt (.rfe px) s st 0x02)

/-- R45, R46, R49, R257: `tlbinv` starts a round and holds until the round completes; R47 to R49 say how the round runs. -/
def Sys2Proof.Claims.TlbinvStartsARound : Prop :=
  ∀ (px : Pfx) (a b : BitVec 6) (g : BitVec 1) (kind : BitVec 2) (s : State) (st : Strand) (k : Nat),
    let i : Instr := .tlbinv px a b g kind
    let x := st.wpair a.toNat
    let count := (st.wreg b.toNat).toNat
    Ready i s st k →
    (kind = 0 → count = 0 ∨ 2 ^ 20 < count → TrapsAt i s st 0x01)
    ∧ ((kind = 0 → count ≠ 0 ∧ count ≤ 2 ^ 20) → g = 1 → st.posted ≠ 0 →
        exec i s = .next (withCur s { st with state := .held, park := some .posted }))
    ∧ ((kind = 0 → count ≠ 0 ∧ count ≤ 2 ^ 20) → (g = 1 → st.posted = 0) → 16 ≤ (s.rounds.filter Round.own).length →
        exec i s = .next (withCur s { st with state := .held, park := some .round }))
    ∧ ((kind = 0 → count ≠ 0 ∧ count ≤ 2 ^ 20) → (g = 1 → st.posted = 0) → (s.rounds.filter Round.own).length < 16 → Idle s →
        ∃ t peers, exec i s = .next t
          ∧ t.strands = s.strands.set s.cur { st with state := .held, park := some .round, waiting := some i }
          ∧ t.rounds = s.rounds ++ [{ id := s.nextId, by_ := .strand st.who, kind := kind, ctx := x.extractLsb' 52 12
                                      vpn := x.extractLsb' 0 41, count := count, pod := decide (g = 1), received := [], acked := []
                                      counted := [], peers := peers }]
          ∧ (g = 0 → peers = []) ∧ t.mem = s.mem)

/-- R55, R258 to R260, R263: `frpop`, `cflush`, `ubres` and `roleget`. The read of the queue's entry does not wait for a way or a die (R73, R466). -/
def Sys2Proof.Claims.SystemInstructionResults : Prop :=
  ∀ (px : Pfx) (d a b : BitVec 6) (kind : BitVec 2) (r : BitVec 4) (s : State) (st : Strand) (k : Nat),
    let A := st.wreg a.toNat
    let B := st.wreg b.toNat
    let va := bits (st.wpair a.toNat) 56 0
    let inRange := fun (line : BitVec 50) => B ≠ 0 ∧ line.toNat * 128 < va + B.toNat ∧ va < line.toNat * 128 + 128
    let slot : Slot := A.extractLsb' 0 4
    let die : Die := A.extractLsb' 4 2
    (Ready (.frpop px d a) s st k → (bits A 31 2 ≠ 0 ∨ s.dieValid (A.extractLsb' 0 2) = false) →
      UniLate (.frpop px d a) s st k [(d.toNat, 0xFFFFFFFF)] 0)
    ∧ (Ready (.frpop px d a) s st k → bits A 31 2 = 0 → s.dieValid (A.extractLsb' 0 2) = true → Idle s →
        let q := A.extractLsb' 0 2
        (s.readyCount q ≠ 0 → (s.popReady q).1.stalled = s.stalled) →
        ∃ t, exec (.frpop px d a) s = .next t
          ∧ t.strands = s.strands.set s.cur (settled (.frpop px d a) k st { st with emptyW := addTo st.emptyW d.toNat })
          ∧ (s.readyCount q = 0 → t.results.map (·.wwrites) = [[(d.toNat, 0xFFFFFFFF)]] ∧ (t.reg (.swctl q)).getLsbD 62 = true ∧ t.mem = s.mem)
          ∧ (s.readyCount q ≠ 0 → s.partials = [] →
              t.results.map (·.wwrites) = [[(d.toNat,
                BitVec.ofNat 32 (s.mem.nat (s.readyEntry q (bits (s.reg (.rqptr q)) 63 32)) 4 % 2 ^ 21))]]
              ∧ bits (t.reg (.rqptr q)) 63 32 = (bits (s.reg (.rqptr q)) 63 32 + 1) % 2 ^ 32 ∧ t.mem = s.mem))
    ∧ (Ready (.cflush px a b kind) s st k → ∃ t, exec (.cflush px a b kind) s = .next t
        ∧ t.strands = s.strands.set s.cur (settled (.cflush px a b kind) k st st) ∧ t.mem = s.mem
        ∧ (kind = 0 → t.l1 = s.l1.filter (fun l => !decide (l.core = st.core ∧ l.ctx = st.who.ctx ∧ inRange l.vline)) ∧ t.icache = s.icache)
        ∧ (kind = 1 → t.l1 = s.l1 ∧ t.icache = s.icache.filter (fun l =>
            !decide (l.die = st.core.die ∧ l.quad = st.core.quad ∧ l.ctx = st.who.ctx ∧ inRange l.vline)))
        ∧ (kind = 2 → t.l1 = s.l1.filter (fun l => !decide (l.core = st.core ∧ l.ctx = st.who.ctx)) ∧ t.icache = s.icache))
    ∧ (Ready (.ubres px d a b) s st k → (bits A 31 6 ≠ 0 ∨ bits B 31 12 ≠ 0 ∨ s.setLimit die slot B.toNat = none) →
        ∃ t, exec (.ubres px d a b) s = .next t ∧ (t.reg (.ubrsv die slot)).getLsbD 31 = true
          ∧ t.strands = s.strands.set s.cur (settled (.ubres px d a b) k st { st with emptyW := addTo st.emptyW d.toNat })
          ∧ (t.results.getLast?.map (·.wwrites)) = some [(d.toNat, 1)])
    ∧ (∀ s1, Ready (.ubres px d a b) s st k → bits A 31 6 = 0 → bits B 31 12 = 0 → s.setLimit die slot B.toNat = some s1 →
        ∃ t, exec (.ubres px d a b) s = .next t ∧ bits (t.reg (.ubrsv die slot)) 27 16 = B.toNat
          ∧ ((s1.reg (.ubrsv die slot)).getLsbD 30 = false →
              t.strands = s.strands.set s.cur (settled (.ubres px d a b) k st { st with emptyW := addTo st.emptyW d.toNat })
              ∧ (t.results.getLast?.map (·.wwrites)) = some [(d.toNat, 0)])
          ∧ ((s1.reg (.ubrsv die slot)).getLsbD 30 = true →
              t.strands = s.strands.set s.cur { st with state := .held, park := some .ubres, waiting := some (.ubres px d a b) }))
    ∧ (∀ gang, Ready (.roleget px d r) s st k → s.gangOf st = some gang →
        Gives (.roleget px d r) s st k (wWritten2 st d.toNat (gang.roles.getD r.toNat 0)))

/-- The system instructions other than register reads and writes. -/
def Obligations.SystemInstructions : Prop :=
  Claims.TlbinvStartsARound ∧ Claims.SystemInstructionResults

/-- R66, R67, R261, R262: `ubdisc` frees the page slots of the range, `ubmig` moves a page and writes its status; both check the path
and the alignment of the address first. Each completes on every operand that passes the checks: the strand goes on behind the instruction, with wd of
`ubmig` empty until its status arrives. (The reads of a migration do not wait for a way or a die: R73, R466.) -/
def Obligations.PageDiscardAndMigration : Prop :=
  ∀ (px : Pfx) (d a b : BitVec 6) (g : BitVec 1) (n : BitVec 4) (s : State) (st : Strand) (k : Nat),
    let x := st.wpair a.toNat
    let count := (st.wreg b.toNat).toNat
    let path := bits x 63 60
    let pathOk := (path = 0 ∨ path = 1 ∨ path = 4) ∧ bits x 59 57 = 0
    let good := pathOk ∧ bits x 15 0 = 0
    let first := bits x 56 16
    let ctx := if g = 1 then s.ctxOf n else some st.who.ctx
    (∀ i ∈ [Instr.ubdisc px a b g n, .ubmig px d a b n], Ready i s st k →
      (¬pathOk → exec i s = .next (s.takeTrap s.cur ⟨0x10, 0, none, 0, x, 0⟩ st.pc 0))
      ∧ (pathOk → bits x 15 0 ≠ 0 → exec i s = .next (s.takeTrap s.cur ⟨0x12, 0, none, 0, x, 0⟩ st.pc 0)))
    ∧ (Ready (.ubdisc px a b g n) s st k → good → count = 0 ∨ 2 ^ 20 < count → TrapsAt (.ubdisc px a b g n) s st 0x01)
    ∧ (Ready (.ubdisc px a b g n) s st k → good → count ≠ 0 → count ≤ 2 ^ 20 → Idle s → st.park = none →
        ∃ t, exec (.ubdisc px a b g n) s = .next t
          ∧ t.strands[s.cur]? = some (settled (.ubdisc px a b g n) k st st)
          ∧ (∀ c, ctx = some c → ∀ p ∈ t.slots, ¬(p.ctx = c ∧ first ≤ p.vpn.toNat ∧ p.vpn.toNat < first + count))
          ∧ (∀ p ∈ s.slots, (∀ c, ctx = some c → ¬(p.ctx = c ∧ first ≤ p.vpn.toNat ∧ p.vpn.toNat < first + count)) → p ∈ t.slots))
    ∧ (Ready (.ubmig px d a b n) s st k → good → Idle s → st.park = none →
        (∀ c, s.ctxOf n = some c → (s.migrate c n (bits x 56 0) (st.wreg b.toNat)).1.stalled = s.stalled) →
        ∃ t s1 status, exec (.ubmig px d a b n) s = .next t
          ∧ t.strands[s.cur]? = some (settled (.ubmig px d a b n) k st { st with emptyW := addTo st.emptyW d.toNat })
          ∧ (s.ctxOf n = none → s1 = s ∧ status = 3)
          ∧ (∀ c, s.ctxOf n = some c → s.migrate c n (bits x 56 0) (st.wreg b.toNat) = (s1, status))
          ∧ t.mem = s1.mem ∧ t.slots = s1.slots ∧ t.regs = s1.regs
          ∧ (t.results.getLast?.map (·.wwrites)) = some [(d.toNat, status)])

/-! ### Synchronisation -/

namespace Sys2Proof.Claims

/-- The strand parked, or held, in an instruction, with what it waits for. -/
def parkedIn (st : Strand) (p : Park) (i : Instr) : Strand := { st with state := .parked, park := some p, waiting := some i }
def heldIn (st : Strand) (p : Park) (i : Instr) : Strand := { st with state := .held, park := some p, waiting := some i }

/-- The request of a strand for the flat address `va`, at a home of the own package. -/
def homeReq (st : Strand) (va : W64) (id addr size : Nat) (acc : Access) : Req :=
  { id := id, who := st.who, core := st.core, ctx := st.who.ctx, addr := addr, size := size, access := acc, reply := none
    vline := vlineOf (bits va 56 0), path := BitVec.ofNat 4 (bits va 63 60) }

/-- The strand named `w` is the one at the index, and waits there. -/
def Waits (s : State) (w : Who) (idx : Nat) (st : Strand) : Prop := s.findStrand w = some idx ∧ s.strands[idx]? = some st ∧ st.who = w

/-- The wait of a parked strand of a gang has ended (R381): it waits for admission, past its instruction. -/
def Ended (t : State) (idx : Nat) (st : Strand) (i : Instr) (st' : Strand) : Prop :=
  t.strands[idx]? = some st' ∧ st'.state = .waiting ∧ st'.park = none ∧ st'.waiting = none ∧ st'.pc = st.pc + BitVec.ofNat 64 (4 * seqWords i.px)

end Sys2Proof.Claims

/-- R268: `fence` waits for posted stores under `.pod`, reports a store that faulted, and otherwise completes with every prior access of
the strand performed; with INV it removes the context's lines from the core's L1. (No prior access waits for a way or a die: R73, R466.) -/
def Sys2Proof.Claims.FencesOrder : Prop :=
  ∀ (px : Pfx) (n : BitVec 1) (g : BitVec 3) (s : State) (st : Strand) (k : Nat), Ready (.fence px n g) s st k →
    (g = 4 → st.posted ≠ 0 → exec (.fence px n g) s = .next (withCur s { st with state := .held, park := some .posted }))
    ∧ ((g = 4 → st.posted = 0) → st.sr.rfault.getLsbD 63 = true → s.reqs = [] → TrapsAt (.fence px n g) s st 0x1A)
    ∧ ((g = 4 → st.posted = 0) → st.sr.rfault.getLsbD 63 = false → s.reqs = [] →
        ∃ t, exec (.fence px n g) s = .next t ∧ t.strands = s.strands.set s.cur (settled (.fence px n g) k st st) ∧ t.mem = s.mem
          ∧ t.l1 = (if n = 1 then s.l1.filter (fun l => !decide (l.core = st.core ∧ l.ctx = st.who.ctx)) else s.l1))
    ∧ ((g = 4 → st.posted = 0) → st.sr.rfault.getLsbD 63 = false → (s.drain st.who).stalled = s.stalled →
        ∃ t, exec (.fence px n g) s = .next t ∧ ∀ q ∈ t.reqs, q.who = st.who → q.access.special = true)

/-- R269, R270: a release stores or adds its value at the object's home after all prior accesses; an acquire reads the object at its
home and removes the lines of the regions bound to it from the core's L1. -/
def Sys2Proof.Claims.ReleasesAndAcquires : Prop :=
  ∀ (px : Pfx) (d a b : BitVec 6) (x : BitVec 1) (g : BitVec 3) (s s1 : State) (st : Strand) (k adr : Nat) (far : Bool),
    let addr := st.wpair a.toNat
    let v := (st.wpair b.toNat).toNat
    (Ready (.rel px a b x g) s st k → st.posted = 0 → st.sr.rfault.getLsbD 63 = false → s.reqs = [] → s1.partials = [] →
      s.findObject st addr 8 .write [0, 1] = (s1, .ok (.mem adr, far)) → s1.stalled = s.stalled → AtHand s1 adr 8 →
      ∃ t, exec (.rel px a b x g) s = .next t ∧ t.strands = s.strands.set s.cur (settled (.rel px a b x g) k st st) ∧ t.reqs = []
        ∧ Stored s1 t adr (leBytes 8 (if x = 1 then (s1.mem.nat adr 8 + v) % 2 ^ 64 else v)))
    ∧ (Ready (.acq px d a g) s st k → s.reqs = [] → s.results = [] → s1.partials = [] →
      s.placeObject st addr 8 .read [0, 1] = (s1, .ok (.mem adr, far)) → s1.stalled = s.stalled → AtHand s1 adr 8 →
      ∃ t, exec (.acq px d a g) s = .next t
        ∧ t.strands = s.strands.set s.cur
            (settled (.acq px d a g) k st { st with emptyW := addTo (addTo st.emptyW d.toNat) (d.toNat + 1) })
        ∧ t.results.map (·.wwrites) = [[(d.toNat, BitVec.ofNat 32 (s1.mem.nat adr 8)), (d.toNat + 1, BitVec.ofNat 32 (s1.mem.nat adr 8 / 2 ^ 32))]]
        ∧ (∀ l ∈ t.l1, ∀ r ∈ s.regions, r.ctx = st.who.ctx → r.obj = addr.extractLsb' 0 57 → l.core = st.core → l.ctx = st.who.ctx →
            ¬(l.vline.toNat * 128 < r.base.toNat + 2 ^ r.k ∧ r.base.toNat < l.vline.toNat * 128 + 128))
        ∧ t.mem = s1.mem)

/-- Fences, releases and acquires. -/
def Obligations.FencesReleasesAndAcquires : Prop :=
  Claims.FencesOrder ∧ Claims.ReleasesAndAcquires

/-- R271: `bind` and `unbind` change the context's region table and answer with their status; of another strand, only what an `acq` under way at a peer
remembers may change. -/
def Sys2Proof.Claims.RegionsBindAndUnbind : Prop :=
  ∀ (px : Pfx) (d a b q : BitVec 6) (s : State) (st : Strand) (k : Nat),
    let obj := st.wpair a.toNat
    let base := st.wpair b.toNat
    let r : Region := ⟨st.who.ctx, obj.extractLsb' 0 57, base.extractLsb' 0 57, q.toNat⟩
    let own := (s.regions.filter (fun x => x.ctx = st.who.ctx)).length
    let answers := fun (i : Instr) (regions : List Region) (status : Word) => ∃ t, exec i s = .next t ∧ t.regions = regions
      ∧ t.strands[s.cur]? = some (settled i k st { st with emptyW := addTo st.emptyW d.toNat })
      ∧ (∀ j x, s.strands[j]? = some x → j ≠ s.cur → ∃ x', t.strands[j]? = some x' ∧ x' = { x with remote := x'.remote })
      ∧ (t.results.getLast?.map (·.wwrites)) = some [(d.toNat, status)] ∧ t.mem = s.mem
    st.remote = none →
    bits obj 63 60 ≤ 1 → bits obj 59 57 = 0 → (q ≠ 63 → bits base 63 57 = 0 ∧ base.toNat % 2 ^ q.toNat = 0) →
    (Ready (.bind px d a b q) s st k →
      (r ∈ s.regions → answers (.bind px d a b q) s.regions 0)
      ∧ (r ∉ s.regions → 1024 ≤ own → answers (.bind px d a b q) s.regions 1)
      ∧ (r ∉ s.regions → own < 1024 → answers (.bind px d a b q) (s.regions ++ [r]) 0))
    ∧ (Ready (.unbind px d a b q) s st k →
      let hit := fun (x : Region) => x.ctx = r.ctx ∧ x.obj = r.obj ∧ (q = 63 ∨ (x.base = r.base ∧ x.k = r.k))
      answers (.unbind px d a b q) (s.regions.filter (fun x => !decide (hit x))) (if ∃ x ∈ s.regions, hit x then 0 else 1))

/-- R272: a strand that reaches `bar` waits at the barrier of its level, where it is counted, after its prior accesses; the firmware
slot, and a launch barrier without LBAR, are illegal instructions (and one of a launch that holds no counter: log entry 25). -/
def Sys2Proof.Claims.BarriersAreReached : Prop :=
  ∀ (px : Pfx) (n : BitVec 1) (l : BitVec 2) (s : State) (st : Strand) (g : Gang) (k : Nat), Ready (.bar px n l) s st k →
    s.gangOf st = some g →
    (st.isFirmware = true ∨ (l = 2 ∧ ¬(g.kernel.lbar = true ∧ s.coresident g = true)) → TrapsAt (.bar px n l) s st 0x01)
    ∧ (st.isFirmware = false → (l = 2 → g.kernel.lbar = true ∧ s.coresident g = true) → st.sr.rfault.getLsbD 63 = true → s.reqs = [] →
        TrapsAt (.bar px n l) s st 0x1A)
    ∧ (st.isFirmware = false → (l = 2 → g.kernel.lbar = true ∧ s.coresident g = true) → st.sr.rfault.getLsbD 63 = false → s.reqs = [] →
        let c := if l = 0 then Counter.wg st.who.wg.toNat else if l = 1 then Counter.gang else Counter.launch
        exec (.bar px n l) s = .next (((withCur s (parkedIn st (.bar l.toNat (n = 1)) (.bar px n l))).demote st.who true).arriveAt st c))

/-- R382: a barrier of a workgroup of one strand completes at once: the strand goes on with the next sequence. -/
def Sys2Proof.Claims.LoneBarrierCompletes : Prop :=
  ∀ (px : Pfx) (n : BitVec 1) (s : State) (st : Strand) (g : Gang) (k : Nat), Ready (.bar px n 0) s st k → s.strands = [st] → s.cur = 0 →
    s.gangs = [g] → g.ctx = st.who.ctx → g.gang = st.who.gang → st.who.wg = 0 → st.isFirmware = false →
    st.sr.rfault.getLsbD 63 = false → s.reqs = [] → g.kernel.wgs = 1 → s.coresident g = false →
    g.wgBars = [⟨1, 0, 0⟩] → g.regroups = [⟨1, 0, 0⟩] → g.gangBar = ⟨1, 0, 0⟩ →
    ∃ t st', exec (.bar px n 0) s = .next t ∧ Ended t 0 st (.bar px n 0) st' ∧ st'.v = st.v ∧ st'.w = st.w ∧ st'.m = st.m
      ∧ t.gangs = [{ g with wgBars := [⟨1, 0, 1⟩] }] ∧ t.mem = s.mem

/-- Barriers of workgroups, gangs and launches. -/
def Obligations.Barriers : Prop :=
  Claims.BarriersAreReached ∧ Claims.LoneBarrierCompletes

/-- R123, R274 to R276: the transaction-barrier instructions send their update, or test the phase; wd is empty from then on. -/
def Sys2Proof.Claims.TransactionBarriersStart : Prop :=
  ∀ (px : Pfx) (d a b : BitVec 6) (g : BitVec 3) (s s1 : State) (st : Strand) (k adr : Nat),
    let addr := st.wpair a.toNat
    let B := st.wreg b.toNat
    let arrive : Instr := .tbarArrive px d a b g
    let expect : Instr := .tbarExpect px a b
    let wait : Instr := .tbarWait px d a b
    s.reqs = [] →
    (Ready arrive s st k → (g = 4 → st.posted = 0) → st.sr.rfault.getLsbD 63 = false → s.placeTbar st addr .write = (s1, .ok (.mem adr)) → s1.stalled = s.stalled →
      ∃ t, exec arrive s = .next t ∧ t.strands = s.strands.set s.cur { heldIn st .tbar arrive with emptyW := addTo st.emptyW d.toNat }
        ∧ t.reqs = [homeReq st addr s1.nextId adr 16 (.tbar 1 B.toNat none)] ∧ t.mem = s1.mem)
    ∧ (Ready expect s st k → s.placeTbar st addr .write = (s1, .ok (.mem adr)) → s1.stalled = s.stalled →
      ∃ t, exec expect s = .next t ∧ t.strands = s.strands.set s.cur (heldIn st .tbar expect)
        ∧ t.reqs = [homeReq st addr s1.nextId adr 16 (.tbar 0 B.toNat none)] ∧ t.mem = s1.mem)
    ∧ (Ready wait s st k → s.results = [] → s1.partials = [] → s.placeTbar st addr .read = (s1, .ok (.mem adr)) → s1.stalled = s.stalled →
      AtHand s1 (adr + 12) 4 →
      let phase := s1.mem.nat (adr + 12) 4
      (phase ≠ B.toNat → ∃ t, exec wait s = .next t
        ∧ t.strands = s.strands.set s.cur (settled wait k st { st with emptyW := addTo st.emptyW d.toNat })
        ∧ t.results.map (·.wwrites) = [[(d.toNat, BitVec.ofNat 32 phase)]])
      ∧ (phase = B.toNat → isVault adr = false → ∃ t, exec wait s = .next t ∧ t.strands = s.strands.set s.cur { parkedIn st .tbar wait with emptyW := addTo st.emptyW d.toNat }
        ∧ t.reqs = [homeReq st (addr + 12) s1.nextId (adr + 12) 4 (.arm false 1 (B.setWidth 64))])
      ∧ (phase = B.toNat → isVault adr = true → s1.vaultWaits = [] → ∃ t, exec wait s = .next t
        ∧ t.strands = s.strands.set s.cur { parkedIn st .tbar wait with emptyW := addTo st.emptyW d.toNat } ∧ t.reqs = []
        ∧ t.vaultWaits = [⟨(vaultOf adr).1, (vaultOf adr).2, adr, B, st.who⟩]))

/-- R62, R275, R276: an update at the object's home counts the arrival and the bytes, and completes the phase when both are used up; the strand
gets the phase before it. An arrival beyond the count is the transaction-barrier trap. An update of an object in an unbacked page takes the page's slot
first, and meets the capacity fault where its reservation is full. -/
def Sys2Proof.Claims.TransactionBarrierUpdates : Prop :=
  ∀ (px : Pfx) (d a b : BitVec 6) (g : BitVec 3) (s : State) (r : Req) (st : Strand) (idx expect : Nat) (page : Option PageSlot),
    let i : Instr := .tbarArrive px d a b g
    let pending := s.mem.nat r.addr 4
    let initial := s.mem.nat (r.addr + 4) 4
    let left := (s.mem.nat (r.addr + 8) 4 + expect) % 2 ^ 32
    let phase := s.mem.nat (r.addr + 12) 4
    s.reqs = [r] → r.access = .tbar 1 expect page → expect < 2 ^ 32 → s.partials = [] → s.vaultWaits = [] → s.cancels = [] → Waits s r.who idx st →
    st.waiting = some i → st.state = .held → st.park = some .tbar →
    (∀ q, page = some q → s.allocSlot q = none → ∃ t, exec (.tbarUpdate r.id) s = .next t ∧ t.mem = s.mem
      ∧ t.strands = (s.takeTrap idx ⟨0x18, BitVec.ofNat 16 q.die.toNat, none, 0, r.virtual, walkRecord 0 q.leafDie q.leafOff.toNat⟩ st.pc 0).strands)
    ∧ ((∀ q, page = some q → s.allocSlot q ≠ none) →
      (pending = 0 → ∃ t, exec (.tbarUpdate r.id) s = .next t
        ∧ ∃ s' : State, t = s'.takeTrap idx ⟨0x24, 0, none, 0, 0, 0⟩ st.pc 0 ∧ s'.strands = s.strands ∧ s'.mem = s.mem)
      ∧ (pending ≠ 0 → ∃ t st', exec (.tbarUpdate r.id) s = .next t ∧ t.strands[idx]? = some st' ∧ st'.state = .active
        ∧ st'.wreg d.toNat = BitVec.ofNat 32 phase ∧ d.toNat ∉ st'.emptyW ∧ st'.pc = st.pc + BitVec.ofNat 64 (4 * seqWords px) ∧ t.reqs = []
        ∧ (pending = 1 → left = 0 → Stored s t r.addr
            (leBytes 4 initial ++ leBytes 4 initial ++ leBytes 4 0 ++ leBytes 4 ((phase + 1) % 2 ^ 32)))
        ∧ (pending ≠ 1 ∨ left ≠ 0 → Stored s t r.addr
            (leBytes 4 (pending - 1) ++ leBytes 4 initial ++ leBytes 4 left ++ leBytes 4 phase))))

/-- Transaction barriers. -/
def Obligations.TransactionBarriers : Prop :=
  Claims.TransactionBarriersStart ∧ Claims.TransactionBarrierUpdates

/-- R77, R78, R123, R277: `waitc` parks, its destination empty, and sends an arm to its word's home; there the word is read, and the wait ends at once when the
condition holds, or a monitor is made, or the arm is refused for 1,024 cycles when the set is full (R80). -/
def Sys2Proof.Claims.WaitcArms : Prop :=
  ∀ (px : Pfx) (d a b : BitVec 6) (x : BitVec 1) (c : BitVec 4) (s s1 : State) (st : Strand) (k idx adr : Nat) (far : Bool) (r : Req)
    (v : W64) (u : Option Nat),
    let i : Instr := .waitc px d a b x c
    let n := if x = 1 then 8 else 4
    let val := if x = 1 then st.wpair b.toNat else (st.wreg b.toNat).setWidth 64
    let due := if (st.wreg d.toNat).toNat = 0 then none else some (s.cycle + (st.wreg d.toNat).toNat)
    let word := s.mem.nat r.addr n
    let holds := if x = 1 then condN c (BitVec.ofNat 64 word) v else condN c (BitVec.ofNat 32 word) (v.extractLsb' 0 32)
    (Ready i s st k → s.placeObject st (st.wpair a.toNat) n .read [0, 1, 4] = (s1, .ok (.mem adr, far)) → s1.stalled = s.stalled →
      ∃ t, exec i s = .next t
        ∧ t.strands = s.strands.set s.cur { parkedIn st (.waitc due) i with
            emptyW := if x = 1 then addTo (addTo st.emptyW d.toNat) (d.toNat + 1) else addTo st.emptyW d.toNat }
        ∧ t.reqs = s.reqs ++ [homeReq st (st.wpair a.toNat) s1.nextId adr n (.arm (x = 1) c val)] ∧ t.mem = s1.mem)
    ∧ (s.reqs = [r] → r.access = .arm (x = 1) c v → c.toNat ≤ 9 → s.partials = [] → Waits s r.who idx st → st.waiting = some i → st.state = .parked →
        st.isFirmware = false → st.park = some (.waitc u) →
        (holds → ∃ t st', exec (.monitorArm r.id) s = .next t ∧ Ended t idx st i st' ∧ t.reqs = []
          ∧ st'.wreg d.toNat = BitVec.ofNat 32 word ∧ (x = 1 → d.toNat < 63 → st'.wreg (d.toNat + 1) = BitVec.ofNat 32 (word / 2 ^ 32)))
        ∧ (¬holds → s.monitors = [] → ∃ t m, exec (.monitorArm r.id) s = .next t ∧ t.monitors = [m] ∧ m.addr = r.addr ∧ m.who = r.who
            ∧ m.cond = c ∧ m.val = v ∧ m.wide = decide (x = 1) ∧ m.fired = false ∧ t.strands = s.strands ∧ t.reqs = [])
        ∧ (¬holds → (∀ w < 8, ∃ m ∈ s.monitors, m.slice = (s.homeSlot r.addr).1 ∧ m.set = (s.homeSlot r.addr).2 % 1024 ∧ m.way = w) →
            ∃ t, exec (.monitorArm r.id) s = .next t ∧ t.monitors = s.monitors
              ∧ t.strands = s.strands.set idx { st with park := some (.rearm (s.cycle + 1024) u) }))

/-- R79 to R81, R277: a wake ends the wait with the word's value; a refused arm is sent again after its 1,024 cycles; a timeout sends a
cancel; the cancel ends the wait with the value at the home. -/
def Sys2Proof.Claims.WaitcEnds : Prop :=
  ∀ (px : Pfx) (d a b : BitVec 6) (x : BitVec 1) (c : BitVec 4) (s s1 : State) (st : Strand) (idx adr due : Nat) (far : Bool) (w : Wake)
    (u : Option Nat),
    let i : Instr := .waitc px d a b x c
    let n := if x = 1 then 8 else 4
    let val := if x = 1 then st.wpair b.toNat else (st.wreg b.toNat).setWidth 64
    Waits s st.who idx st → st.waiting = some i → st.state = .parked → st.isFirmware = false →
    (st.park = some (.waitc u) → s.wakes = [w] → w.who = st.who → s.wakeable w.who = true →
      ∃ t st', exec (.monitorWakeDelivery 0) s = .next t ∧ Ended t idx st i st' ∧ t.wakes = [] ∧ st'.wreg d.toNat = w.value.extractLsb' 0 32
        ∧ t.mem = s.mem)
    ∧ (st.park = some (.rearm due u) → due ≤ s.cycle → s.placeObject st (st.wpair a.toNat) n .read [0, 1, 4] = (s1, .ok (.mem adr, far)) →
      ∃ t, exec (.monitorRearm st.who) s = .next t ∧ t.strands = s.strands.set idx (parkedIn st (.waitc u) i)
        ∧ t.reqs = s.reqs ++ [homeReq st (st.wpair a.toNat) s1.nextId adr n (.arm (x = 1) c val)])
    ∧ (st.park = some (.waitc (some due)) → due ≤ s.cycle →
      ∃ t, exec (.waitcTimeout st.who) s = .next t ∧ t.cancels = s.cancels ++ [st.who] ∧ t.mem = s.mem
        ∧ t.strands = s.strands.set idx { st with park := some (.waitc none) })
    ∧ (st.park = some (.waitc none) → s.cancels = [st.who] → s.wakes = [] → s1.partials = [] →
      ({ s with cancels := [] } : State).placeObject st (st.wpair a.toNat) n .read [0, 1, 4] = (s1, .ok (.mem adr, far)) →
      ∃ t st', exec (.monitorCancel st.who) s = .next t ∧ Ended t idx st i st' ∧ t.cancels = []
        ∧ (∀ m ∈ t.monitors, m.who = st.who → m.pkg.toNat ≠ s.package) ∧ st'.wreg d.toNat = BitVec.ofNat 32 (s1.mem.nat adr n))

/-- R276: a `tbar.wait` that found its vault's list full reads the phase again after 1,024 cycles, and ends when it has changed. -/
def Sys2Proof.Claims.VaultPollEnds : Prop :=
  ∀ (px : Pfx) (d a b : BitVec 6) (s : State) (st : Strand) (idx due adr : Nat) (u : Option Nat),
    let i : Instr := .tbarWait px d a b
    Waits s st.who idx st → st.waiting = some i → st.state = .parked → st.isFirmware = false → st.park = some (.rearm due u) → due ≤ s.cycle →
    s.vaultPlace st.who.ctx (s.gangOf st) (st.wpair a.toNat) = .ok adr →
    (s.mem.nat (adr + 12) 4 ≠ (st.wreg b.toNat).toNat →
      ∃ t st', exec (.tbarVaultPoll st.who) s = .next t ∧ Ended t idx st i st' ∧ t.mem = s.mem
        ∧ st'.wreg d.toNat = BitVec.ofNat 32 (s.mem.nat (adr + 12) 4))
    ∧ (s.mem.nat (adr + 12) 4 = (st.wreg b.toNat).toNat → s.vaultWaits = [] →
      ∃ t, exec (.tbarVaultPoll st.who) s = .next t ∧ t.strands = s.strands.set idx (parkedIn st .tbar i) ∧ t.vaultWaits.map (·.who) = [st.who])

/-- Condition waits, from the arm to the end. -/
def Obligations.ConditionWaits : Prop :=
  Claims.WaitcArms ∧ Claims.WaitcEnds ∧ Claims.VaultPollEnds

/-- R280, R281: `lease` declares the strand's lease, at most 2,048 lines, or withdraws it; `ipf` changes no register and no byte of memory
but the REF bits of walks. (No line it brings up waits for a way or a die: R73, R466.) -/
def Sys2Proof.Claims.LeasesAndPrefetch : Prop :=
  ∀ (px : Pfx) (a b : BitVec 6) (s : State) (st : Strand) (k : Nat),
    let n := (st.wreg a.toNat).toNat
    let st1 := if n = 0 then { st with leaseDecl := false } else { st with leaseDecl := true, leaseLines := min n 2048 }
    (Ready (.leaseW px a) s st k → (∀ x ∈ s.strands, x.core = st.core → x.inActiveSet = true → x.isFirmware = false → x.who = st.who) →
      Gives (.leaseW px a) s st k st1)
    ∧ (Ready (.leaseW px a) s st k → st.isFirmware = true → Gives (.leaseW px a) s st k st1)
    ∧ (Ready (.ipf px a b) s st k →
      (prefetchLines st (min 64 (st.wreg b.toNat).toNat) (BitVec.ofNat 64 (lineOf (st.wpair a.toNat).toNat)) s).stalled = s.stalled → ∃ t, exec (.ipf px a b) s = .next t
        ∧ t.strands = s.strands.set s.cur (settled (.ipf px a b) k st st) ∧ t.reqs = s.reqs ∧ t.results = s.results ∧ t.l1 = s.l1)

/-- Regions bound and unbound, and leases and prefetches. -/
def Obligations.RegionsAndLeases : Prop :=
  Claims.RegionsBindAndUnbind ∧ Claims.LeasesAndPrefetch

/-! ### Fetching, decoding and stepping -/

namespace Sys2Proof.Claims

/-- The words `ws` stand at the addresses from the `n`-th word after the strand's program counter on, in lines that its quad's instruction
cache holds, and none of them is patched: fetching them in order leaves `t`. -/
def Fetched (st : Strand) : Nat → List Word → State → State → Prop
  | _, [], s, t => t = s
  | n, w :: ws, s, t => ∃ s', s.fetchWord st (st.pc + BitVec.ofNat 64 (4 * n)) = (s', .word w false) ∧ Fetched st (n + 1) ws s' t

/-- The state at the start of a strand's turn: the strand at the index issues, and the accesses of its turn are charged to the
queue that launched its gang. -/
def atTurn (s : State) (idx : Nat) (st : Strand) : State :=
  { s with
    strands := s.strands.set idx { st with yielded := false, issueSince := s.cycle }
    cur := idx
    payer := some (st.who.ctx, s.queueFor st.who.ctx st.who.gang, st.core.die) }

/-- The strand may issue: it is active, its die runs, its gang is not frozen, and its queue's budget is not spent (R381, R403, R435). -/
def MayIssue (s : State) (st : Strand) : Prop :=
  st.state = .active ∧ s.issueStopped st.core.die = false ∧ s.freezesNow st = false ∧ (st.isFirmware = true ∨ s.budgetHeld st = false)

/-- The instruction that the words at the strand's program counter decode to: they are the fewest that decide it (R136). -/
def Holds (s : State) (idx : Nat) (st : Strand) (i : Instr) (t : State) : Prop :=
  ∃ ws n, 0 < ws.length ∧ ws.length ≤ 6 ∧ decodeSeq ws = .ok (i, n) ∧ (∀ m < ws.length, 0 < m → decodeSeq (ws.take m) = .error .truncated)
    ∧ Fetched st 0 ws (atTurn s idx st) t

/-- The state in which a step of the agenda's turn begins. -/
def stepped (s : State) (rest : List Turn) : State := { s with agenda := rest, stepNo := s.stepNo + 1, payer := none }

/-- The state in which a step begins that no turn of the agenda names: some cycles have passed (log entry 8). -/
def idled (s : State) : State :=
  { ({ s with stepNo := s.stepNo + 1 } : State).passTo (s.cycle + Config.stepCycles (s.stepNo + 1)) with payer := none }

/-- The strand at the index may issue in `u`, its words are the instruction `i`, whose fetch leaves `t`, and executing `i` leaves `t'`, in the same
epoch. -/
def Issues (u : State) (idx : Nat) (st : Strand) (i : Instr) (t t' : State) : Prop :=
  u.strands[idx]? = some st ∧ MayIssue u st ∧ Holds u idx st i t ∧ t.stalled = u.stalled ∧ exec i t = .next t' ∧ t'.cycle / 4096 = u.cycle / 4096

end Sys2Proof.Claims

/-- A step runs the decoded instruction: when the agenda names a strand that may issue, and the words at its program counter decode to `i`,
the step is `exec i` after the turn's cycles have passed and the words have been fetched; `chargeIssue` adds the charge of an iteration issued (R402),
and `endTurn` undoes a step that has met an access which cannot be performed (R73, R466) and settles errors (R24, R93). With an empty agenda the same
holds of the strand that R413 picks, when its turn comes among the moves of the others (log entry 8). A turn of an event is `exec` of the event, made
when the epochs before it have ended (R405). -/
def Obligations.StepRunsDecoded : Prop :=
  (∀ (s t t' : State) (st : Strand) (i : Instr) (idx n : Nat) (rest : List Turn),
    let u := (stepped s rest).passTo (s.cycle + n)
    s.agenda = .issue idx n :: rest → Issues u idx st i t t' → step s = endTurn u (t.chargeIssue st i (.next t')))
  ∧ (∀ (s t t' r : State) (st : Strand) (i : Instr) (idx : Nat) (first last : List Move),
    let u := idled s
    s.agenda = [] → u.nextIssue = some idx → u.idleMoves = first ++ (fun x => x.issueTurn idx) :: last → firstMove u first = none →
    Issues u idx st i t t' → endTurn u (t.chargeIssue st i (.next t')) = .next r → ({ r with payer := none } : State) ≠ u → step s = .next r)
  ∧ (∀ (s t : State) (i : Instr) (rest : List Turn), s.agenda = .event i :: rest → (opInfo i).form = .event → (∀ c, i ≠ .epochEnd c) →
    let u := stepped s rest
    exec i u = .next t →
      (t.cycle / 4096 = s.cycle / 4096 → step s = endTurn u (.next t))
      ∧ (t.cycle / 4096 ≠ s.cycle / 4096 → step s = endTurn (u.passTo t.cycle) (exec i (u.passTo t.cycle))))
  ∧ (∀ (s t t' : State) (st : Strand) (i : Instr),
    (t'.hasIssued st i = false → t.chargeIssue st i (.next t') = .next t')
    ∧ (t'.hasIssued st i = true → t.chargeIssue st i (.next t') = .next (if issueCharge i = 0 then t' else ({ t' with payer := t.payer } : State).pay (issueCharge i)))
    ∧ (t.stalled = s.stalled → t.lost = [] → t.lostVault = [] → endTurn s (.next t) = .next t)
    ∧ (t.stalled ≠ s.stalled → endTurn s (.next t) = .next ({ s with lost := t.lost, lostVault := t.lostVault } : State).settleLost))
  ∧ (∀ (s : State) (now : Nat), s.cycle ≤ now → now / 4096 = s.cycle / 4096 → s.passTo now = { s with cycle := now })

/-- R136, R148: words that decode to no instruction raise the illegal-instruction trap, once the word after an instruction word of no opcode is
fetched too; and so does a decoded sequence that is ill-formed. -/
def Sys2Proof.Claims.UndecodedWordsTrap : Prop :=
  ∀ (s t : State) (st : Strand) (idx : Nat) (ws : List Word) (w : Word) (e : DecodeError),
    s.strands[idx]? = some st → st.state = .active → 0 < ws.length → ws.length ≤ 6 → decodeSeq ws = .error e → e ≠ .truncated →
    (∀ m < ws.length, 0 < m → decodeSeq (ws.take m) = .error .truncated) →
    Fetched st 0 (if ws.dropLast.all leadWord && !leadWord (ws.getLastD 0) then ws ++ [w] else ws) (atTurn s idx st) t →
    s.fetchFor idx = (t, some .illegalInstructionWord)
    ∧ ∀ u st', u.strands[u.cur]? = some st' → st'.owed = none → st'.rptAt = 0 →
        exec .illegalInstructionWord u
          = .next (u.takeTrap u.cur ⟨0x01, 0, none, if st'.reissue then st'.sr.donemask else 0, 0, 0⟩ st'.pc 0)

/-- R100: an instruction line arrives for a strand that holds for it, and the strand goes on. -/
def Sys2Proof.Claims.InstructionLinesArrive : Prop :=
  ∀ (s s1 : State) (st : Strand) (idx line : Nat) (v : BitVec 50), s.findStrand st.who = some idx → s.strands[idx]? = some st →
    st.park = some .fetch → st.state = .held →
    fetchSeq st maxWords [] [] (s.paidBy st.who.ctx st.who.gang st.core.die) = (s1, .miss v line) → s1.strands = s.strands → s1.partials = [] →
    ∃ t, exec (.instructionLineArrival st.who) s = .next t ∧ t.strands = s.strands.set idx { st with state := .active, park := none }
      ∧ (∃ l, t.icLine st.core.die st.core.quad st.who.ctx v = some l ∧ l.data = s1.mem.read line 128)

/-- A word that decodes to nothing traps, and a line of instructions that is not at hand is waited for. -/
def Obligations.FetchAndUndecodedWords : Prop :=
  Claims.UndecodedWordsTrap ∧ Claims.InstructionLinesArrive

/-- Encodings, bit by bit from the tables of R137 to R147: the words that the spec prints decode to the instructions they stand for. -/
def Obligations.DecodeWords : Prop :=
  decodeTableWord 32 0x0E220405 = some (.icmp ⟨none, none, none⟩ 2 2 4 5)
  ∧ decodeTableWord 32 0x02080406 = some (.iaddc ⟨none, none, none⟩ 8 4 6)
  ∧ decodeTableWord 32 0x2A210405 = some (.fcmp ⟨none, none, none⟩ 2 1 4 5)
  ∧ decodeTableWord 32 0x3F0607B0 = some (.cvt ⟨none, none, none⟩ 6 7 11 0)
  ∧ decodeTableWord 32 0x45030201 = some (.shflXor ⟨none, none, none⟩ 3 2 1)
  ∧ decodeTableWord 32 0x52101017 = some (.regroup ⟨none, none, none⟩ 16 16 23)
  ∧ decodeTableWord 32 0x56060523 = some (.ldB32 ⟨none, none, none⟩ 6 5 2 3)
  ∧ decodeTableWord 32 0x690C0948 = some (.redFPair ⟨none, none, none⟩ 12 9 4 0)
  ∧ decodeTableWord 32 0x70080010 = some (.trace ⟨none, none, none⟩ 8 0 16)
  ∧ decodeTableWord 32 0x6E080530 = some (.rsvld ⟨none, none, none⟩ 8 5 3 0)
  ∧ decodeTableWord 32 0x818A0B01 = some (.sadd ⟨none, none, none⟩ 34 32 44 1)
  ∧ decodeTableWord 32 0xAA600008 = some (.brany 3 8)
  ∧ decodeTableWord 32 0xB0183FFB = some (.loopW 6 (BitVec.ofInt 14 (-5)))
  ∧ decodeTableWord 32 0xD9284185 = some (.waitc ⟨none, none, none⟩ 10 4 6 0 5)
  ∧ decodeTableWord 32 0xEC206280 = some (.mmaGath ⟨none, none, none⟩ 8 6 5)
  ∧ decodeTableWord 32 0 = none
  ∧ decodeTableWord 32 0xFFFFFFFF = none
  ∧ decodeSeq [0xFE042200, 0xFD600800, 0x010A1400, 0xFF000000, 0x00010000]
      = .ok (.iadd ⟨some ⟨4, 2, 2, 0⟩, some ⟨3, false, false, false, false, false, false, 0, true⟩, some 0x10000⟩ 10 20 0, 5)

/-- Decode and encode agree: the words of every well-formed instruction, followed by any word that is no `lit` prefix where the instruction
has no literal, decode to that instruction, with every operand and prefix as it was. -/
def Obligations.EncodingDecodesBack : Prop :=
  ∀ (i : Instr) (w : Word) (rest : List Word), i.wf = true → (i.px.lit = none → wordKind w ≠ .lit) →
    decodeSeq (encode i ++ w :: rest) = .ok (i, (encode i).length)

/-- No bit of a sequence is ignored (R148): words that decode to an instruction are the words that the encoder gives it. -/
def Obligations.WordsHaveOneMeaning : Prop :=
  ∀ (ws : List Word) (i : Instr) (n : Nat), decodeSeq ws = .ok (i, n) → encode i = ws.take n ∧ n ≤ ws.length

/-- The state after module reset. The register tables give VDMAP, HEAD, THERM and ZTMO their values (R8, R394, R467, R454) and every other configuration
register zero; that no byte of memory is listed and that an unlisted byte reads as zero are the model's choice (log entries 1 and 5). -/
def Obligations.ResetValues : Prop :=
  State.reset.reg .vdmap = 0x0FE4 ∧ (∀ d, State.reset.reg (.head d) = 0x05000500) ∧ (∀ d, State.reset.reg (.therm d) = 0x00DC0000)
  ∧ State.reset.reg .ztmo = 100000
  ∧ (∀ r, r ≠ .vdmap → (∀ d, r ≠ .head d) → (∀ d, r ≠ .therm d) → r ≠ .ztmo → State.reset.reg r = 0)
  ∧ State.reset.strands = [] ∧ State.reset.gangs = [] ∧ State.reset.cycle = 0 ∧ State.reset.clock = 20
  ∧ State.reset.mem.wf = true ∧ (∀ a, State.reset.mem.get a = 0)

/-- The memory keeps its canonical form: whatever moves, from every state whose memory has the form, the memory after the step has it. -/
def Obligations.StepKeepsMemory : Prop :=
  ∀ (s t : State), s.mem.wf = true → step s = .next t → t.mem.wf = true

/-- Nothing stops the machine but a missing strand: every instruction of a strand, and every event, answers a next state; an instruction word
executed for no strand is the fault of that name. -/
def Obligations.NothingElseStops : Prop :=
  ∀ (i : Instr) (s : State),
    ((opInfo i).form = .event ∨ (s.strands[s.cur]?).isSome = true → ∃ t, exec i s = .next t)
    ∧ ((opInfo i).form ≠ .event → s.strands[s.cur]? = none → exec i s = .fault .noStrand)
/-! ### The checks at issue, handler entry and escalation -/

namespace Sys2Proof.Claims

/-- The sequence takes a trap of the class before any effect: sr.epc names its first word, the lanes already complete on a re-issue stay so,
and inside a repeat sr.rptstate says where it stands. -/
def IssueTraps (i : Instr) (s : State) (st : Strand) (cls : BitVec 8) : Prop :=
  exec i s = .next (s.takeTrap s.cur ⟨cls, 0, none, st.priorDone i, 0, 0⟩ st.pc (if (st.iter i) = 0 then 0 else rptstateAt i (st.iter i)))

/-- Some register group of an iteration that is to run lies outside its file, or starts where R139 forbids. -/
def OutOfRange (i : Instr) (st : Strand) : Prop := ∃ k, st.iter i ≤ k ∧ k < seqCount i.px ∧ rangesOk i st.allotment k = false

/-- The strand enters its handler: it is in none, and sr.handler.PC is not 0. -/
def Enters (st : Strand) : Prop := st.sr.hnd = false ∧ st.sr.handler &&& ~~~3 ≠ 0

end Sys2Proof.Claims

/-- R144, R148, R256: the checks of every instruction word at issue, in their order. An ill-formed sequence is an illegal instruction; then a
privileged one in user mode takes the privilege trap; then a repeat with no iteration left retires; then a register out of range is an illegal
instruction; then a trap on empty; then the strand holds for an empty register. A fault that the strand owes comes before them all (log entry
23). The iteration at hand of a sequence with no repeat prefix is its only one. -/
def Obligations.ChecksInOrder : Prop :=
  ∀ (i : Instr) (s : State) (st : Strand), (opInfo i).form ≠ .event → s.strands[s.cur]? = some st →
    (∀ t, st.owed = some t → exec i s = .next ((withCur s { st with owed := none }).takeTrap s.cur { t with done := st.priorDone i ||| t.done } st.pc
        (if (st.iter i) = 0 then 0 else rptstateAt i (st.iter i))))
    ∧ (st.owed = none →
      (i.wf = false → IssueTraps i s st 0x01)
      ∧ (i.wf = true → (opInfo i).privileged = true ∧ st.sr.mode = .user → IssueTraps i s st 0x02)
      ∧ (i.wf = true → ¬((opInfo i).privileged = true ∧ st.sr.mode = .user) →
        (seqCount i.px ≤ (st.iter i) → exec i s = .next (withCur s (st.retire (st.pc + BitVec.ofNat 64 (4 * seqWords i.px)))))
        ∧ ((st.iter i) < seqCount i.px →
          (OutOfRange i st → IssueTraps i s st 0x01)
          ∧ (¬OutOfRange i st → trapsEmpty i st (st.iter i) = true → IssueTraps i s st 0x03)
          ∧ (¬OutOfRange i st → trapsEmpty i st (st.iter i) = false → waitsEmpty i st (st.iter i) = true →
              exec i s = .next (withCur s { st with state := .held, park := some .register }))
          ∧ (¬OutOfRange i st → trapsEmpty i st (st.iter i) = false → waitsEmpty i st (st.iter i) = false → Ready i s st (st.iter i)))))

/-- R430, R431: handler entry. The strand's saved registers, m0, mode and program counter become what R431 says; its other registers, the other
strands and memory stay as they are; the bits of the registers that a wait of it had emptied are set (R125). -/
def Sys2Proof.Claims.HandlersAreEntered : Prop :=
  ∀ (s : State) (idx : Nat) (st : Strand) (t : Trap) (epc : W64) (rptstate : Word), s.strands[idx]? = some st → Enters st →
    ∃ st', s.takeTrap idx t epc rptstate = { s with strands := s.strands.set idx st' }
      ∧ st'.sr.cause = 1#1 ++ 0#7 ++ t.cls ++ t.detail
      ∧ st'.sr.epc = epc &&& ~~~3 ∧ st'.sr.emask = st.mask 0 ∧ st'.sr.donemask = t.done
      ∧ st'.sr.faddr = (if t.cls = 0x04 ∨ (0x10 ≤ t.cls.toNat ∧ t.cls.toNat ≤ 0x19) ∨ t.cls = 0x22 ∨ t.cls = 0x2A then t.faddr else 0)
      ∧ st'.sr.walkent = t.walkent ∧ st'.sr.rptstate = rptstate ∧ st'.sr.hnd = true
      ∧ st'.sr.mode = (if st.isFirmware = true then .firmware else .supervisor)
      ∧ st'.pc = st.sr.handler &&& ~~~3
      ∧ st'.mask 0 = (t.lanes.getD st.live) &&& st.live ∧ (∀ r, 1 ≤ r → r < 8 → st'.mask r = st.mask r)
      ∧ st'.v = st.v ∧ st'.w = st.w ∧ st'.b = st.b ∧ st'.live = st.live ∧ st'.emptyV = st.emptyV
      ∧ (∀ n, n ∈ st'.emptyW ↔ n ∈ st.emptyW ∧ n ∉ st.waitRegs)
      ∧ st'.sr.handler = st.sr.handler ∧ st'.sr.sysmap = st.sr.sysmap ∧ st'.sr.fpmode = st.sr.fpmode ∧ st'.sr.fpflags = st.sr.fpflags
      ∧ st'.sr.hscratch0 = st.sr.hscratch0 ∧ st'.sr.hscratch1 = st.sr.hscratch1 ∧ st'.sr.rfault = st.sr.rfault

/-- Taking an exception, and the return from one. -/
def Obligations.HandlersAreEnteredAndLeft : Prop :=
  Claims.ReturnsFromHandlers ∧ Claims.HandlersAreEntered

/-- R434: a fault or trap taken inside a handler, or with no handler, enters none. The gang freezes, the strand's registers stay, its system registers among them, and CTXSTAT
of its context records the event with KIND 1; a firmware slot stops instead, and counts in FWSTOP. -/
def Obligations.SecondFaultsEscalate : Prop :=
  ∀ (s : State) (idx : Nat) (st : Strand) (t : Trap) (epc : W64) (rptstate : Word), s.strands[idx]? = some st → ¬Enters st →
    let u := s.takeTrap idx t epc rptstate
    (st.isFirmware = false → ∃ st', u.strands[idx]? = some st' ∧ (st.state ≠ .ended → st'.state = .frozen)
      ∧ st'.v = st.v ∧ st'.w = st.w ∧ st'.m = st.m ∧ st'.pc = st.pc ∧ st'.sr = st.sr ∧ u.mem = s.mem)
    ∧ (st.isFirmware = false → ∀ g ∈ u.gangs, g.ctx = st.who.ctx → g.gang = st.who.gang → g.frozen = true)
    ∧ (st.isFirmware = false → (s.reg (.ctxstat st.ctxSlot)).getLsbD 63 = false →
      u.reg (.ctxstat st.ctxSlot) = BitVec.ofNat 64 (2 ^ 63 + 2 ^ 60 + t.cls.toNat * 2 ^ 52 + t.detail.toNat * 2 ^ 36 + st.who.gang.toNat * 2 ^ 12))
    ∧ (st.isFirmware = true → u.strands = s.strands.set idx { st with state := .ended, park := none } ∧ u.stopped = st.core :: s.stopped
      ∧ u.records.fwstop = (if s.records.fwstop = BitVec.allOnes 64 then s.records.fwstop else s.records.fwstop + 1) ∧ u.mem = s.mem)
/-! ### Ordered sections -/

namespace Sys2Proof.Claims

/-- The key and the sequence number of a lane of a section instruction (R418). -/
def keyOf (px : Pfx) (a : BitVec 8) (st : Strand) (l : Nat) : W64 := opA2 px a 0 st l
def seqNo (px : Pfx) (b : BitVec 8) (st : Strand) (l : Nat) : BitVec 31 := (opB px b 0 st l).extractLsb' 0 31

/-- The message of a lane. -/
def keyMsg (op : KeyOp) (px : Pfx) (a b : BitVec 8) (st : Strand) (l : Nat) : KeyMsg :=
  ⟨op, st.who.ctx, keyOf px a st l, seqNo px b st l, st.who, l, 0⟩

/-- The lane of `osenter.any` that asks for its key (R279): the one that holds the section or has a request stored, if it is among the lanes;
otherwise the one of lowest sequence number. -/
def AsksFor (s : State) (px : Pfx) (a b : BitVec 8) (st : Strand) (lanes : List Nat) (l : Nat) : Prop :=
  match s.keyLane st.who (keyOf px a st l) with
  | some j =>
    if j ∈ lanes ∧ keyOf px a st j = keyOf px a st l then l = j
    else ∀ x ∈ lanes, keyOf px a st x = keyOf px a st l → (seqNo px b st l).toNat ≤ (seqNo px b st x).toNat
  | none => ∀ x ∈ lanes, keyOf px a st x = keyOf px a st l → (seqNo px b st l).toNat ≤ (seqNo px b st x).toNat

/-- The entry of a key after an event: what one key's event leaves of the others. -/
def OtherKeysStay (s t : State) (ctx : BitVec 12) (k : W64) : Prop := ∀ c x, ¬(c = ctx ∧ x = k) → t.keyEntry c x = s.keyEntry c x

/-- The `n`-th message on its way is `m`, and none of its strand about its key was sent before it. -/
def NextMsg (s : State) (n : Nat) (m : KeyMsg) : Prop :=
  s.keyMsgs[n]? = some m ∧ ∀ x ∈ s.keyMsgs.take n, ¬(x.who = m.who ∧ x.key = m.key)

end Sys2Proof.Claims

/-- R279, R418, R422: `osenter` sends one request for each active lane and parks; `osenter.any` sends one for each key. Lanes that share a key
(for `osenter.any`, and a sequence number) take the section-conflict trap; with no active lane nothing is asked. -/
def Sys2Proof.Claims.SectionsAreAsked : Prop :=
  ∀ (px : Pfx) (m : BitVec 3) (a b : BitVec 8) (s : State) (st : Strand) (k : Nat),
    let one : Instr := .osenter px a b
    let any : Instr := .osenterAny px m a b
    let lanes := lanesOf (st.active px)
    let entry := fun (p : Nat → Bool) (l : Nat) => (⟨l, keyOf px a st l, seqNo px b st l, if p l then .sent else .idle⟩ : SectionLane)
    (Ready one s st k →
      (st.active px = 0 → Gives one s st k st)
      ∧ (st.active px ≠ 0 → (∀ x ∈ lanes, ∀ y ∈ lanes, keyOf px a st x = keyOf px a st y → x = y) →
        ∃ t, exec one s = .next t ∧ t.keyMsgs = s.keyMsgs ++ lanes.map (keyMsg .request px a b st)
          ∧ t.strands = s.strands.set s.cur { parkedIn st .osenter one with entering := lanes.map (entry (fun _ => true)) }
          ∧ t.mem = s.mem ∧ t.keys = s.keys)
      ∧ (∀ x ∈ lanes, ∀ y ∈ lanes, x ≠ y → keyOf px a st x = keyOf px a st y → ∃ c, c.getLsbD x = true ∧ c.getLsbD y = true ∧
          exec one s = .next (s.takeTrap s.cur ⟨0x2B, 0, some c, st.priorDone one, 0, 0⟩ st.pc 0)))
    ∧ (Ready any s st k →
      (st.active px = 0 → Gives any s st k { st with m := tabSet 8 st.m m.toNat 0 0 })
      ∧ (st.active px ≠ 0 → (∀ x ∈ lanes, ∀ y ∈ lanes, keyOf px a st x = keyOf px a st y → seqNo px b st x = seqNo px b st y → x = y) →
        ∃ t, ∃ asks : Nat → Bool, (∀ l ∈ lanes, asks l = true ↔ AsksFor s px a b st lanes l) ∧ exec any s = .next t
          ∧ t.keyMsgs = s.keyMsgs ++ (lanes.filter asks).map (keyMsg .request px a b st)
          ∧ t.strands = s.strands.set s.cur { parkedIn st .osenterAny any with entering := lanes.map (entry asks) }
          ∧ t.mem = s.mem ∧ t.keys = s.keys)
      ∧ (∀ x ∈ lanes, ∀ y ∈ lanes, x ≠ y → keyOf px a st x = keyOf px a st y → seqNo px b st x = seqNo px b st y →
          ∃ c, c.getLsbD x = true ∧ c.getLsbD y = true ∧
            exec any s = .next (s.takeTrap s.cur ⟨0x2B, 0, some c, st.priorDone any, 0, 0⟩ st.pc 0)))

/-- R279, R423: `osleave` sends a leave for every active lane when each of them holds its section with its sequence number, and otherwise takes
the section trap with detail 1 for the lanes that do not. -/
def Sys2Proof.Claims.SectionsAreLeft : Prop :=
  ∀ (px : Pfx) (a b : BitVec 8) (s : State) (st : Strand) (k : Nat),
    let i : Instr := .osleave px a b
    let lanes := lanesOf (st.active px)
    let has := fun l => s.holds st.who l (keyOf px a st l) (seqNo px b st l)
    Ready i s st k → s.reqs = [] →
    ((∀ l ∈ lanes, has l = true) → exec i s = .next { withCur s (settled i k st st) with
        keyMsgs := s.keyMsgs ++ lanes.map (fun l => keyMsg (.leave ((opB px b 0 st l).getLsbD 31)) px a b st l) })
    ∧ (∀ x ∈ lanes, has x = false → (∀ y ∈ lanes, y < x → has y = true) →
      ∃ c, (∀ l < 32, c.getLsbD l = true ↔ l ∈ lanes ∧ has l = false) ∧
        exec i s = .next (s.takeTrap s.cur ⟨0x2A, 1, some c, st.priorDone i, keyOf px a st x, 0⟩ st.pc 0))

/-- `osenter`, `osenter.any` and `osleave`. -/
def Obligations.SectionInstructions : Prop :=
  Claims.SectionsAreAsked ∧ Claims.SectionsAreLeft

/-- R419, R421, R422: a request that reaches its entry is granted when the section is free and its number is NEXT, is stored when its number is
above NEXT, makes an entry where there is none, is refused when its number is below NEXT, and waits 1,024 cycles when there is no room. -/
def Sys2Proof.Claims.RequestsReachTheTable : Prop :=
  ∀ (n : Nat) (m : KeyMsg) (s : State), NextMsg s n m → m.op = .request → s.keyStored m.ctx m.key = [] →
    let slice := (keySlot m.ctx m.key).1
    let stored : KeyReq := ⟨slice, m.ctx, m.key, m.seq, m.who, m.lane⟩
    let room := (s.keyReqs.filter (fun r => r.slice = slice)).length < 16384
    let free := fun (slot : Slot) => room ∧ s.slotOf m.ctx = some slot ∧ (s.keyWay slice (keySlot m.ctx m.key).2).isSome = true
      ∧ bits (s.reg (.osctl slot)) 16 0 < bits (s.reg (.osctl slot)) 48 32
    (∀ e, s.keyEntry m.ctx m.key = some e → e.holder = none → room → m.seq = e.next →
      ∃ t e', exec (.keyTableRequest n) s = .next t ∧ t.keyEntry m.ctx m.key = some e' ∧ e'.holder = some (m.who, m.lane) ∧ e'.next = m.seq
        ∧ (s.grantHeld m.who = false → (⟨m.who, m.lane, m.key, m.seq⟩ : Grant) ∈ t.keyGrants) ∧ (s.grantHeld m.who = true → e'.fired = true)
        ∧ OtherKeysStay s t m.ctx m.key ∧ t.mem = s.mem)
    ∧ (∀ e, s.keyEntry m.ctx m.key = some e → e.holder = none → room → e.next.toNat < m.seq.toNat →
      ∃ t e', exec (.keyTableRequest n) s = .next t ∧ t.keyEntry m.ctx m.key = some e' ∧ e'.holder = none ∧ e'.next = e.next
        ∧ t.keyReqs = s.keyReqs ++ [stored] ∧ OtherKeysStay s t m.ctx m.key)
    ∧ (∀ e, s.keyEntry m.ctx m.key = some e → e.holder = none → m.seq.toNat < e.next.toNat →
      ∃ t, exec (.keyTableRequest n) s = .next t ∧ t.keys = s.keys ∧ t.keyReqs = s.keyReqs ∧ t.keyGrants = s.keyGrants)
    ∧ (∀ slot, s.keyEntry m.ctx m.key = none → free slot →
      ∃ t e', exec (.keyTableRequest n) s = .next t ∧ t.keyEntry m.ctx m.key = some e' ∧ e'.next = 0 ∧ OtherKeysStay s t m.ctx m.key
        ∧ (m.seq = 0 → e'.holder = some (m.who, m.lane)) ∧ (m.seq ≠ 0 → e'.holder = none ∧ t.keyReqs = s.keyReqs ++ [stored]))
    ∧ (s.keyEntry m.ctx m.key = none → ¬room ∨ s.keyWay slice (keySlot m.ctx m.key).2 = none →
      (∀ st ∈ s.strands, st.who = m.who → st.entering = [⟨m.lane, m.key, m.seq, .sent⟩]) →
      ∃ t, exec (.keyTableRequest n) s = .next t ∧ t.keyRetries.getLast? = some { m with at_ := s.cycle + 1024 } ∧ t.keys = s.keys
        ∧ t.keyReqs = s.keyReqs)

/-- R423, R426: a leave frees the section, advances NEXT or closes the key, and grants the stored request whose number is then NEXT; a
withdrawal takes the stored request back. -/
def Sys2Proof.Claims.LeavesAndWithdrawals : Prop :=
  ∀ (n : Nat) (m : KeyMsg) (s : State) (e : KeyEntry) (close : Bool), NextMsg s n m → s.keyEntry m.ctx m.key = some e →
    (m.op = .leave close → e.holder = some (m.who, m.lane) → e.next = m.seq →
      (s.keyStored m.ctx m.key = [] → close = true →
        ∃ t, exec (.keyTableLeave n) s = .next t ∧ t.keyEntry m.ctx m.key = none ∧ OtherKeysStay s t m.ctx m.key ∧ t.mem = s.mem)
      ∧ (s.keyStored m.ctx m.key = [] → close = false → m.seq + 1 ≠ 0 →
        ∃ t e', exec (.keyTableLeave n) s = .next t ∧ t.keyEntry m.ctx m.key = some e' ∧ e'.holder = none ∧ e'.next = m.seq + 1
          ∧ OtherKeysStay s t m.ctx m.key ∧ t.mem = s.mem)
      ∧ (∀ r, s.keyStored m.ctx m.key = [r] → close = false → r.seq = m.seq + 1 →
        ∃ t e', exec (.keyTableLeave n) s = .next t ∧ t.keyEntry m.ctx m.key = some e' ∧ e'.holder = some (r.who, r.lane) ∧ e'.next = r.seq
          ∧ t.keyStored m.ctx m.key = [] ∧ OtherKeysStay s t m.ctx m.key ∧ t.mem = s.mem))
    ∧ (m.op = .withdraw → e.holder ≠ none →
      ∃ t, exec (.keyTableWithdraw n) s = .next t
        ∧ (∀ r, r ∈ t.keyReqs ↔ r ∈ s.keyReqs ∧ ¬(r.ctx = m.ctx ∧ r.key = m.key ∧ r.who = m.who ∧ r.lane = m.lane ∧ r.seq = m.seq))
        ∧ OtherKeysStay s t m.ctx m.key ∧ t.mem = s.mem)

/-- R422, R428, R421, R425: the grant ends an `osenter` whose lane it is, or is kept for a frozen strand; a refused request is sent again after
its 1,024 cycles; a stalled key gives up its stored requests, and the strand that waits for it takes the section trap with detail 5. -/
def Sys2Proof.Claims.GrantsRetriesStalls : Prop :=
  ∀ (s : State) (st : Strand) (idx n : Nat) (i : Instr) (g : Grant) (m : KeyMsg),
    (s.keyGrants[n]? = some g → Waits s g.who idx st → st.waiting = some i → st.state = .parked → st.isFirmware = false →
      st.park = some .osenter → (∃ x, st.entering = [⟨g.lane, g.key, g.seq, x⟩]) → g.lane < 32 → s.keyBusy g.who = false →
      s.holds g.who g.lane g.key g.seq = true →
      ∃ t st', exec (.sectionGrantDelivery n) s = .next t ∧ Ended t idx st i st' ∧ st'.v = st.v ∧ st'.w = st.w ∧ t.keys = s.keys
        ∧ t.keyGrants = s.keyGrants.eraseIdx n ∧ t.mem = s.mem)
    ∧ (s.keyGrants[n]? = some g → s.grantHeld g.who = true → ∀ e, s.keyEntry g.who.ctx g.key = some e →
      ∃ t, exec (.sectionGrantDelivery n) s = .next t ∧ t.keyEntry g.who.ctx g.key = some { e with fired := true } ∧ t.strands = s.strands)
    ∧ (s.keyRetries[n]? = some m → exec (.keyRequestRetry n) s = .next { s with
        cycle := max s.cycle m.at_, keyRetries := s.keyRetries.eraseIdx n, keyMsgs := s.keyMsgs ++ [{ m with at_ := 0 }] })
    ∧ (∀ (ctx : BitVec 12) (key : W64) (e : KeyEntry) (slot : Slot) (r : KeyReq), s.keyEntry ctx key = some e → s.slotOf ctx = some slot →
      bits (s.reg (.osctl slot)) 61 50 ≠ 0 → e.holder = none → s.keyStored ctx key = [r] →
      ∃ t, exec (.keyEntryStall ctx key) s = .next t ∧ t.keyStored ctx key = [] ∧ (t.reg (.osctl slot)).getLsbD 63 = true ∧ t.mem = s.mem
        ∧ (Waits s r.who idx st → st.waiting = some i → st.state = .parked → st.park = some .osenter → (∃ x, st.entering = [⟨r.lane, key, r.seq, x⟩]) →
            r.lane < 32 → s.keyBusy r.who = false → Enters st → ∃ st', t.strands[idx]? = some st'
              ∧ st'.sr.cause = 1#1 ++ 0#7 ++ 0x2A#8 ++ 5#16 ∧ st'.sr.faddr = key ∧ st'.pc = st.sr.handler &&& ~~~3))

/-- R420: a write of OSCTL sets LIMIT and STALLT, and is refused with ERR when it breaks a rule. -/
def Sys2Proof.Claims.OsctlWrites : Prop :=
  ∀ (s : State) (slot : Slot) (v : W64),
    let old := s.reg (.osctl slot)
    let lim := bits v 48 32
    let bad := 65536 < lim ∨ lim < bits old 16 0 ∨ (lim ≠ 0 ∧ (s.reg (.trbase slot)).getLsbD 63 = false) ∨ v.getLsbD 49 = true ∨ bits v 31 17 ≠ 0
    (bad → ∃ t, exec (.osctlWrite slot v) s = .next t ∧ (t.reg (.osctl slot)).getLsbD 62 = true
      ∧ (t.reg (.osctl slot)).extractLsb' 0 62 = old.extractLsb' 0 62 ∧ ∀ r, r ≠ .osctl slot → t.reg r = s.reg r)
    ∧ (¬bad → ∃ t, exec (.osctlWrite slot v) s = .next t ∧ ((∀ r, r ≠ .osctl slot → t.reg r = s.reg r) ∧ t.mem = s.mem)
      ∧ (let now := t.reg (.osctl slot)
         bits now 48 32 = lim ∧ bits now 61 50 = bits v 61 50 ∧ bits now 16 0 = bits old 16 0
         ∧ now.getLsbD 63 = (old.getLsbD 63 && !v.getLsbD 63) ∧ now.getLsbD 62 = (old.getLsbD 62 && !v.getLsbD 62)))

/-- The key table: requests, leaves, grants, withdrawals and OSCTL. -/
def Obligations.SectionTable : Prop :=
  Claims.RequestsReachTheTable ∧ Claims.LeavesAndWithdrawals ∧ Claims.GrantsRetriesStalls ∧ Claims.OsctlWrites
/-! ### Copy queues, rings and records -/

namespace Sys2Proof.Claims

/-- An access of an instruction that makes several one after another: it reads or writes at its place in this package, and its answer is the
bytes (`Claims.SeriesAccesses`). -/
def Reads (i : Instr) (st : Strand) (s : State) (a : W64) (n align : Nat) (paths : List Nat) (t : State) (bs : List Byte) : Prop :=
  s.series i st a align paths (.read n) n = (t, .ok bs)
def Writes (i : Instr) (st : Strand) (s : State) (a : W64) (align : Nat) (paths : List Nat) (bs : List Byte) (t : State) : Prop :=
  ∃ x, s.series i st a align paths (.write bs) bs.length = (t, .ok x)

/-- The header of the ring at `h`, read at its home, obeys Table 1 of R105. -/
def RingAt (i : Instr) (st : Strand) (s : State) (h : W64) (t : State) (r : Ring) : Prop :=
  ∃ bs, Reads i st s h 64 64 [0, 1] t bs ∧ ringOf 0 bs = some r

/-- The word at `a` is at `x` of this package; the checks of its address leave `u` (REF bits of walks). -/
def Finds (s : State) (st : Strand) (a : W64) (n : Nat) (u : State) (x : Nat) : Prop :=
  ∃ far, s.route (st.xreq .read) (s.gangOf st) a n = (u, .ok (.mem x, far))

/-- The strand waits on the word of the address `a`, at `x`: a monitor is on its way to the word's home (R106). -/
def Watches (u t : State) (idx : Nat) (st : Strand) (i : Instr) (p : Park) (a : W64) (x : Nat) (wide : Bool) (cond : BitVec 4) (val : W64) : Prop :=
  t.strands = u.strands.set idx (parkedIn st p i) ∧ t.mem = u.mem
  ∧ t.reqs = u.reqs ++ [homeReq st a u.nextId x (if wide then 8 else 4) (.arm wide cond val)]

/-- The packet held in sixteen w registers; a HALO packet has 6 in bits [15:12] of its first word (R282). -/
def packetBytes (st : Strand) (a : Nat) (halo : Bool) : List Byte :=
  (List.range 16).flatMap (fun j =>
    let x := st.wreg (a + j)
    leBytes 4 (if j = 0 ∧ halo = true then (x &&& ~~~0xF000 ||| 0x6000).toNat else x.toNat))

/-- The records that the lanes append, in ascending lane order (R287, R400): each at the next place of its node's buffer, and in the core's line of
it (R94). -/
def Appended (st : Strand) (ticket : W64) (r : Nat) : List (Nat × Nat) → State → State → Prop
  | [], s, t => t = s
  | (l, k) :: ls, s, t => ∃ x y s1 far, (s.launches.find? (fun z => z.ticket == ticket)).bind (fun z => z.nodes[k]?) = some x
      ∧ x.appended - x.taken < x.cap
      ∧ (let a := x.buf + BitVec.ofNat 64 (x.appended % x.cap * (4 * x.kernel.nodeWords))
         let bs := (List.range x.kernel.nodeWords).flatMap (fun j => leBytes 4 (st.lane (r + j) l).toNat)
         s.placeUniform st a 4 .write = (s1, .ok (.mem y, far))
         ∧ Appended st ticket r ls
          (((s1.homeWrite y bs).l1Effect (homeReq st a 0 y bs.length (.write bs))).modNode ticket k
            (fun (n : Node) => { n with appended := n.appended + 1, firstAt := if n.appended - n.taken = 0 then s1.cycle else n.firstAt })) t)

/-- The slots of the lanes, read in order at their homes in this package, name these nodes (R399). -/
def SlotsName (nodes : Nat) : List (Nat × LaneRes) → State → State → List (Nat × Nat) → Prop
  | [], s, t, l => t = s ∧ l = []
  | (l, r) :: rs, s, t, out => ∃ x a k ks, r = .ok (.mem x) a ∧ out = (l, k) :: ks ∧ slotNode nodes (s.homeRead x 8).2 = some k
      ∧ SlotsName nodes rs (s.homeRead x 8).1 t ks

end Sys2Proof.Claims

/-- R265: one access of an instruction's series, at a home of this package. A read gives the bytes and writes nothing; a write stores its
bytes; an atomic addition, and a compare-and-swap, give the old value and store the new one (R85). (The strand's own accesses to those bytes come
first, R366: here it has none on their way.) -/
def Sys2Proof.Claims.SeriesAccesses : Prop :=
  ∀ (i : Instr) (st : Strand) (s s1 : State) (a : W64) (align x : Nat) (paths : List Nat) (far : Bool), s1.partials = [] → (∀ q ∈ s1.reqs, q.who ≠ st.who) →
    (∀ n, s.placeObject st a align .read paths = (s1, .ok (.mem x, far)) →
      ∃ t, Reads i st s a n align paths t (s1.mem.read x n) ∧ t.mem = s1.mem ∧ t.strands = s1.strands ∧ t.reqs = s1.reqs)
    ∧ (s.placeObject st a align .write paths = (s1, .ok (.mem x, far)) →
      (∀ bs, ∃ t, Writes i st s a align paths bs t ∧ Stored s1 t x bs ∧ t.strands = s1.strands ∧ t.reqs = s1.reqs)
      ∧ (∀ v : W64, ∃ t, s.series i st a align paths (.atomic true 0 v) 8 = (t, .ok (leBytes 8 (s1.mem.nat x 8)))
          ∧ Stored s1 t x (leBytes 8 ((s1.mem.nat x 8 + v.toNat) % 2 ^ 64)) ∧ t.strands = s1.strands)
      ∧ (∀ old new : Nat, old < 2 ^ 64 → new < 2 ^ 64 →
          ∃ t, s.series i st a align paths (.cas 8 (BitVec.ofNat 128 old) (BitVec.ofNat 128 new)) 8 = (t, .ok (leBytes 8 (s1.mem.nat x 8)))
          ∧ Stored s1 t x (leBytes 8 (if s1.mem.nat x 8 = old then new else s1.mem.nat x 8)) ∧ t.strands = s1.strands))

/-- R284: `ringawait` takes the entry at ACQUIRE when its tag is published, removes its lines from the core's L1 and answers with its index and
address; otherwise it waits on the tag. (Here and below, no access waits for a way or a die, or meets an error: R24, R73, R93, R466.) -/
def Sys2Proof.Claims.RingEntriesAreAwaited : Prop :=
  ∀ (px : Pfx) (d a : BitVec 6) (s s1 s2 s3 u : State) (st : Strand) (k x : Nat) (r : Ring) (tag old : List Byte),
    let i : Instr := .ringawait px d a
    let h := st.wpair a.toNat
    let n := r.acquire
    let entry := r.base + BitVec.ofNat 64 (n % 2 ^ r.logn * 2 ^ r.logsz)
    Ready i s st k → st.script = [] → RingAt i st s h s1 r → r.cq = false →
    Reads i st s1 (r.tags + BitVec.ofNat 64 (n % 2 ^ r.logn * 4)) 4 4 [0, 1, 2, 3, 4] s2 tag →
    (leNat tag ≠ (n + 1) % 2 ^ 32 → Finds s2 st (r.tags + BitVec.ofNat 64 (n % 2 ^ r.logn * 4)) 4 u x → u.stalled = s.stalled →
      ∃ t, exec i s = .next t ∧ Watches u t s.cur st i .ring (r.tags + BitVec.ofNat 64 (n % 2 ^ r.logn * 4)) x false 0 (BitVec.ofNat 64 ((n + 1) % 2 ^ 32)))
    ∧ (leNat tag = (n + 1) % 2 ^ 32 → s2.series i st (h + 8) 8 [0, 1] (.cas 8 (BitVec.ofNat 128 n) (BitVec.ofNat 128 (n + 1))) 8 = (s3, .ok old) →
      leNat old = n → s3.stalled = s.stalled →
      ∃ t, exec i s = .next t
        ∧ t.strands = s.strands.set s.cur (settled i k st { st with emptyW := [d.toNat, d.toNat + 1, d.toNat + 2, d.toNat + 3].foldl addTo st.emptyW })
        ∧ t.results.getLast?.map (·.wwrites) = some [(d.toNat, BitVec.ofNat 32 n), (d.toNat + 1, BitVec.ofNat 32 (n / 2 ^ 32)),
            (d.toNat + 2, entry.extractLsb' 0 32), (d.toNat + 3, entry.extractLsb' 32 32)]
        ∧ (∀ l ∈ t.l1, l.core = st.core → l.ctx = st.who.ctx →
            ¬(l.vline.toNat * 128 < (entry.extractLsb' 0 57).toNat + 2 ^ r.logsz ∧ (entry.extractLsb' 0 57).toNat < l.vline.toNat * 128 + 128))
        ∧ t.mem = s3.mem)

/-- R285, R286: `ringrel` stores n + 1 to RELEASE when RELEASE is n, waits while it is below, and takes the ring fault when it is above;
`ringpeek` answers at once with ACQUIRE, whether that entry is published, and the room left. -/
def Sys2Proof.Claims.RingsAreReleased : Prop :=
  ∀ (px : Pfx) (d a b : BitVec 6) (s s1 s2 u : State) (st : Strand) (k x : Nat) (r : Ring) (tag : List Byte),
    let rel : Instr := .ringrel px a b
    let peek : Instr := .ringpeek px d a
    let h := st.wpair a.toNat
    let n := (st.wpair b.toNat).toNat
    let m := r.acquire
    st.script = [] →
    (Ready rel s st k → RingAt rel st s h s1 r → r.cq = false → s1.stalled = s.stalled →
      (n < r.release → exec rel s = .next (s1.takeTrap s.cur ⟨0x21, 0, none, 0, 0, 0⟩ st.pc 0))
      ∧ (r.release < n → Finds s1 st (h + 16) 8 u x → u.stalled = s.stalled →
        ∃ t, exec rel s = .next t ∧ Watches u t s.cur st rel .ring (h + 16) x true 0 (BitVec.ofNat 64 n))
      ∧ (r.release = n → s1.reqs = [] → Writes rel st s1 (h + 16) 8 [0, 1] (leBytes 8 (n + 1)) s2 → s2.stalled = s.stalled →
        ∃ t, exec rel s = .next t ∧ t.strands = s.strands.set s.cur (settled rel k st st) ∧ t.mem = s2.mem))
    ∧ (Ready peek s st k → RingAt peek st s h s1 r → r.cq = false →
      Reads peek st s1 (r.tags + BitVec.ofNat 64 (m % 2 ^ r.logn * 4)) 4 4 [0, 1, 2, 3, 4] s2 tag → s2.stalled = s.stalled →
      ∃ t, exec peek s = .next t ∧ t.mem = s2.mem
        ∧ t.strands = s.strands.set s.cur (settled peek k st { st with emptyW := [d.toNat, d.toNat + 1, d.toNat + 2, d.toNat + 3].foldl addTo st.emptyW })
        ∧ t.results.getLast?.map (·.wwrites) = some [(d.toNat, BitVec.ofNat 32 m), (d.toNat + 1, BitVec.ofNat 32 (m / 2 ^ 32)),
            (d.toNat + 2, if leNat tag = (m + 1) % 2 ^ 32 then 1 else 0),
            (d.toNat + 3, BitVec.ofNat 32 (min 0xFFFFFFFF ((2 ^ r.logn : Nat) - ((r.reserve : Int) - r.release)).toNat))])

/-- R115, R282: `cqput` and `halox` claim an index in the queue of their role, write the packet and its tag, add the entry to the open batch and
answer with the index; while the queue is full they wait on RELEASE. A role that names no enabled queue is the role fault, and a full batch the
batch-limit trap. -/
def Sys2Proof.Claims.PacketsAreSubmitted : Prop :=
  ∀ (px : Pfx) (d a : BitVec 6) (role : BitVec 4) (halo : Bool) (s s1 s2 s3 s4 u : State) (st : Strand) (k y : Nat) (r : Ring) (old : List Byte)
    (g : Gang),
    let i : Instr := if halo then .halox px d a role else .cqput px d a role
    let x := g.roles.getD role.toNat 0
    let die : Die := x.extractLsb' 0 2
    let n : BitVec 6 := x.extractLsb' 2 6
    let good := bits x 63 60 = 5 ∧ s.dieValid die = true ∧ (s.reg (.cqctl die n)).getLsbD 0 = true
    let h : W64 := BitVec.ofNat 64 (bits (s.reg (.cqhdr die n)) 56 6 * 64)
    let index := leNat old
    Ready i s st k → s.gangOf st = some g → st.script = [] → st.posted = 0 →
    (¬good → exec i s = .next (s.takeTrap s.cur ⟨0x20, role.setWidth 16, none, 0, 0, 0⟩ st.pc 0))
    ∧ (good → st.claim = none → 16 ≤ st.openBatch.entries.length → TrapsAt i s st 0x23)
    ∧ (good → st.claim = none → st.openBatch.entries.length < 16 → RingAt i st s h s1 r → r.cq = true → r.logsz = 6 → r.logn ≤ 16 →
      s1.series i st h 8 [0, 1] (.atomic true 0 1) 8 = (s2, .ok old) → index < 2 ^ 63 →
      let claimed := s2.modCur (fun z => { z with claim := some (BitVec.ofNat 63 index) })
      (r.release + 2 ^ r.logn ≤ index → Finds claimed st (h + 16) 8 u y → u.stalled = s.stalled →
        ∃ t, exec i s = .next t ∧ Watches u t s.cur { st with claim := some (BitVec.ofNat 63 index) } i .cqput (h + 16) y true 9
          (BitVec.ofNat 64 (index + 1 - 2 ^ r.logn)))
      ∧ (index < r.release + 2 ^ r.logn →
        Writes i st claimed (r.base + BitVec.ofNat 64 (index % 2 ^ r.logn * 2 ^ r.logsz)) 64 [0, 1, 2, 3, 4] (packetBytes st a.toNat halo) s3 →
        s3.reqs = [] → Writes i st s3 (r.tags + BitVec.ofNat 64 (index % 2 ^ r.logn * 4)) 4 [0, 1, 2, 3, 4] (leBytes 4 ((index + 1) % 2 ^ 32)) s4 → s4.stalled = s.stalled →
        ∃ t, exec i s = .next t ∧ t.mem = s4.mem
          ∧ t.strands = s.strands.set s.cur (settled i k st { st with
              claim := none
              openBatch := { st.openBatch with entries := st.openBatch.entries ++ [⟨die, n, BitVec.ofNat 48 index, false⟩] }
              emptyW := addTo (addTo st.emptyW d.toNat) (d.toNat + 1) })
          ∧ t.handed = s.handed ++ [⟨die, n, BitVec.ofNat 64 index, st.who, s.queueFor st.who.ctx st.who.gang, packetBytes st a.toNat halo⟩]
          ∧ t.results.getLast?.map (·.wwrites) = some [(d.toNat, BitVec.ofNat 32 index), (d.toNat + 1, BitVec.ofNat 32 (index / 2 ^ 32))]))

/-- Series of accesses, rings, and packets submitted. -/
def Obligations.RingsAndPackets : Prop :=
  Claims.SeriesAccesses ∧ Claims.RingEntriesAreAwaited ∧ Claims.RingsAreReleased ∧ Claims.PacketsAreSubmitted

/-- R283: `cseal` seals the open batch under the lowest free number; `cwait` answers for a sealed batch once its entries are complete, and at
once where there is none. -/
def Sys2Proof.Claims.BatchesAreSealed : Prop :=
  ∀ (px : Pfx) (d a : BitVec 6) (s : State) (st : Strand) (k n : Nat) (b : Batch),
    let sealI : Instr := .cseal px d
    let waitI : Instr := .cwait px d a
    let x := st.wreg a.toNat
    let answers := fun (st' : Strand) (status : Word) => ∃ t, exec waitI s = .next t
      ∧ t.strands = s.strands.set s.cur (settled waitI k st { st' with emptyW := addTo st.emptyW d.toNat })
      ∧ t.results.getLast?.map (·.wwrites) = some [(d.toNat, status)] ∧ t.mem = s.mem
    (Ready sealI s st k → st.openBatch.entries = [] → Gives sealI s st k (wWritten st d.toNat 0xFFFFFFFF))
    ∧ (Ready sealI s st k → st.openBatch.entries ≠ [] → n < 4 → st.sealedBatches.getD n none = none →
        (∀ j < n, st.sealedBatches.getD j none ≠ none) →
        Gives sealI s st k { wWritten st d.toNat (BitVec.ofNat 32 n) with
          sealedBatches := tabSet 4 st.sealedBatches n (some { st.openBatch with sealed := true }) none
          openBatch := ⟨[], false, false⟩ })
    ∧ (Ready sealI s st k → st.openBatch.entries ≠ [] → (∀ j < 4, st.sealedBatches.getD j none ≠ none) → TrapsAt sealI s st 0x23)
    ∧ (Ready waitI s st k → bits x 31 2 ≠ 0 ∨ st.sealedBatches.getD (bits x 1 0) none = none → answers st 2)
    ∧ (Ready waitI s st k → bits x 31 2 = 0 → st.sealedBatches.getD (bits x 1 0) none = some b →
        ((∀ e ∈ b.entries, e.done = true) →
          answers { st with sealedBatches := tabSet 4 st.sealedBatches (bits x 1 0) none none } (if b.failed = true then 1 else 0))
        ∧ ((∃ e ∈ b.entries, e.done = false) → ∃ t, exec waitI s = .next t ∧ t.strands = s.strands.set s.cur (parkedIn st .cwait waitI) ∧ t.mem = s.mem))

/-- R287, R400: `emit` reads the slot of every active lane, and appends one record of its node's words for each, in ascending lane order; a lane
whose record would leave the allotment makes it an illegal instruction with nothing appended, and a full buffer parks it. (The registers of the
records are full, R124; no access waits or meets an error.) -/
def Sys2Proof.Claims.RecordsAreEmitted : Prop :=
  ∀ (px : Pfx) (v x : BitVec 8) (b f : BitVec 4) (s s1 s2 s3 : State) (st : Strand) (k : Nat) (lt : Launch) (places : List (Nat × LaneRes))
    (lanes : List (Nat × Nat)),
    let i : Instr := .emit px v x b f
    let fm : LaneForm := { record := st.brec b.toNat, off := f.toNat, index := opA px x k st, align := 8, kind := .read, near := false
                           access := fun _ => .read 8, size := 8, dest := [] }
    let full := fun (l : Nat × Nat) => ∀ n, lt.nodes[l.2]? = some n → ∀ j < n.kernel.nodeWords, v.toNat + j ∉ st.emptyV
    let fits := fun (l : Nat × Nat) => ∀ n, lt.nodes[l.2]? = some n → v.toNat + n.kernel.nodeWords ≤ st.allotment
    Ready i s st k →
    (st.active px = 0 → Gives i s st k st)
    ∧ (st.active px ≠ 0 → recordBad (st.brec b.toNat) = true →
        ∀ l, (st.active px).getLsbD l = true → (∀ j < l, (st.active px).getLsbD j = false) →
        exec i s = .next (s.takeTrap s.cur
          ⟨0x13, 0, some (st.active px), st.priorDone i, elementAddr (st.brec b.toNat) ((opA px x k st l).toNat + f.toNat), 0⟩ st.pc 0))
    ∧ (st.active px ≠ 0 → recordBad (st.brec b.toNat) = false → s.graphOf st = some lt → st.script = [] →
      emitPlaces st fm (lanesOf (st.active px)) s = (s1, places) → SlotsName lt.nodes.length places s1 s2 lanes → s2.reqs = [] →
      ((∀ l ∈ lanes, fits l ∧ full l) → Appended st lt.ticket v.toNat lanes s2 s3 → s3.stalled = s.stalled →
        ∃ t, exec i s = .next t ∧ t.strands = s.strands.set s.cur (settled i k st st) ∧ t.mem = s3.mem ∧ t.launches = s3.launches)
      ∧ ((∃ l ∈ lanes, ¬fits l) → s2.stalled = s.stalled → exec i s = .next (s2.takeTrap s.cur ⟨0x01, 0, none, st.priorDone i, 0, 0⟩ st.pc 0))
      ∧ (∀ l ls n, lanes = l :: ls → (∀ y ∈ lanes, fits y ∧ full y) → s2.stalled = s.stalled → lt.nodes[l.2]? = some n → n.cap ≤ n.appended - n.taken →
          ∃ t st', exec i s = .next t ∧ t.mem = s2.mem ∧ t.strands[s.cur]? = some st' ∧ st'.state = .parked ∧ st'.waiting = some i))

/-- Batches sealed and awaited, and records emitted. -/
def Obligations.BatchesAndRecords : Prop :=
  Claims.BatchesAreSealed ∧ Claims.RecordsAreEmitted
/-! ### The matrix engines -/

namespace Sys2Proof.Claims

/-- What a matrix instruction puts in its entry (R292, R306 to R309): kind, MCW word, operand words, lanes and their row addresses. -/
structure Command where
  kind : MxKind
  mcw : W64
  opa : W64
  opb : W64
  lanes : Word
  rows : List W64

/-- The command of each instruction that enters the reservation table. -/
def commandFor (i : Instr) (st : Strand) : Option Command :=
  match i with
  | .mz _ n => some ⟨.mz, n.setWidth 64, 0, 0, 0, []⟩
  | .mma _ d a b => some ⟨.mma, st.wpair d.toNat, st.wpair a.toNat, st.wpair b.toNat, 0, []⟩
  | .mmaGath _ d a g => some ⟨.gath, st.wpair d.toNat, 0, st.wpair a.toNat, st.mask 0,
      (List.range 32).map (fun l => pair (st.lane (2 * g.toNat) l) (st.lane (2 * g.toNat + 1) l))⟩
  | .mmaImg _ d a b => some ⟨.img, st.wpair d.toNat, st.wpair a.toNat, st.wpair b.toNat, 0, []⟩
  | .mdrain _ a b k n => some ⟨.drain (k.setWidth 3), n.setWidth 64 + (k.setWidth 64 <<< 3), st.wpair a.toNat, (st.wreg b.toNat).setWidth 64, 0, []⟩
  | .mload _ a b k n => some ⟨.load (k.setWidth 3), n.setWidth 64 + (k.setWidth 64 <<< 3), st.wpair a.toNat, (st.wreg b.toNat).setWidth 64, 0, []⟩
  | _ => none

/-- The entry of a command: its segments are all to be fetched, and nothing is held. -/
def Entered (e : MxEntry) (st : Strand) (c : Command) (tile : Nat) : Prop :=
  e.who = some st.who ∧ e.die = st.core.die ∧ e.quad = st.core.quad ∧ e.core = st.core ∧ e.ctx = st.who.ctx ∧ e.gang = st.who.gang
  ∧ e.kind = c.kind ∧ e.mcw = c.mcw ∧ e.opa = c.opa ∧ e.opb = c.opb ∧ e.lanes = c.lanes ∧ e.rows = c.rows ∧ e.tile = tile
  ∧ e.segs = e.segments ∧ (∀ x ∈ e.segs, x.state = .todo) ∧ e.held = [] ∧ e.code = 0 ∧ e.frozen = false ∧ e.via = none ∧ e.chan = none

/-- The bytes that a load holds of a row, in pieces of 128 (R309). -/
def rowHeld (e : MxEntry) (pieces m : Nat) : List Byte :=
  (List.range pieces).flatMap (fun j =>
    ((e.heldAt 0 (e.opa + e.opb * BitVec.ofNat 64 m + BitVec.ofNat 64 (128 * j))).map (fun (v : MxVec) => v.data)).getD [])

/-- The bytes that a drain writes: FP32 as it stands, or rounded to BF16 or FP16 (R309). -/
def drainBytes (s : State) (e : MxEntry) (k : BitVec 3) : List Byte :=
  (List.range 128).flatMap (fun m => (List.range 128).flatMap (fun n =>
    if k = 0 then leBytes 4 (s.tileWord e m n).toNat
    else leBytes 2 (numToFmt (if k = 1 then bf16 else fp16) .rn false (fp32.decode (s.tileWord e m n).toNat)).bits))

/-- The bytes of a tile. -/
def tileBytes (s : State) (d : Die) (q : Quad) (t : Nat) : List Byte := s.mem.read (Config.tileAddr d q t) 65536

/-- Memory outside a tile is as it was. -/
def OutsideTile (s t : State) (d : Die) (q : Quad) (n : Nat) : Prop :=
  ∀ x, x < Config.tileAddr d q n ∨ Config.tileAddr d q n + 65536 ≤ x → t.mem.get x = s.mem.get x

/-- The pieces of memory at these places do not overlap. -/
def Apart (xs : List Nat) (size : Nat) : Prop :=
  ∀ j k, j < k → k < xs.length → xs.getD j 0 + size ≤ xs.getD k 0 ∨ xs.getD k 0 + size ≤ xs.getD j 0

end Sys2Proof.Claims

/-- R293, R294, R299, R303: a matrix command enters its quad's reservation table, behind the checks of R303, R293 and R294 in their order; a
strand that finds the table full parks. Its prior accesses are performed first. (No walk of the checks of gathered rows waits or meets an error.) -/
def Sys2Proof.Claims.MatrixCommandsEnter : Prop :=
  ∀ (i : Instr) (s s1 : State) (st : Strand) (k : Nat) (c : Command) (g : Gang) (t : Nat) (outs : List (Nat × LaneRes)),
    Ready i s st k → commandFor i st = some c →
    let e := commandOf i st
    let acc := (c.mcw.extractLsb' 0 3).toNat
    (s.mayMatrix st = false → TrapsAt i s st 0x01)
    ∧ (s.mayMatrix st = true → s.gangOf st = some g →
      (g.accMap.getD acc none = none → exec i s = .next (s.takeTrap s.cur ⟨0x30, BitVec.ofNat 16 acc, none, 0, 0, 0⟩ st.pc 0))
      ∧ (g.accMap.getD acc none = some t →
        (e.badMcw = true → TrapsAt i s st 0x31)
        ∧ (e.badMcw = false → (∀ f a, s.entryCheck (some g) e = some (f, a) →
            exec i s = .next (s.takeTrap s.cur ⟨f.cls, f.detail, none, 0, a, f.walkent⟩ st.pc 0)))
        ∧ (e.badMcw = false → s.entryCheck (some g) e = none → (c.kind ≠ .gath → s1 = s) →
            (c.kind = .gath → gathLanes st (some g) e (lanesOf (st.mask 0)) s = (s1, outs) ∧ ∀ o ∈ outs, o.2 = .out) → st.posted = 0 → s1.reqs = [] →
            s1.stalled = s.stalled →
          (s1.mxRoom st.core.die st.core.quad = true →
            ∃ u x, exec i s = .next u ∧ u.strands = s.strands.set s.cur (settled i k st st) ∧ u.mem = s1.mem
              ∧ u.mxEntries.length = s.mxEntries.length + 1 ∧ u.mxEntries.getLast? = some x ∧ Entered x st c t)
          ∧ (s1.mxRoom st.core.die st.core.quad = false →
            ∃ u, exec i s = .next u ∧ u.strands = s.strands.set s.cur (parkedIn st .matrix i) ∧ u.mem = s1.mem ∧ u.mxEntries = s.mxEntries))))

/-- R301: the command of a strand that parks for room enters once there is room, and the strand goes on. -/
def Sys2Proof.Claims.WaitingCommandsEnter : Prop :=
  ∀ (i : Instr) (s : State) (st : Strand) (idx : Nat) (c : Command) (g : Gang) (t : Nat),
    Waits s st.who idx st → st.waiting = some i → st.state = .parked → st.isFirmware = false → st.park = some .matrix → commandFor i st = some c →
    s.gangOf st = some g → g.accMap.getD (c.mcw.extractLsb' 0 3).toNat none = some t → s.reqs = [] → s.mxRoom st.core.die st.core.quad = true →
    ∃ u x st', exec (.matrixCommandEnter st.who) s = .next u ∧ Ended u idx st i st' ∧ st'.v = st.v ∧ st'.w = st.w ∧ u.mem = s.mem
      ∧ u.mxEntries.length = s.mxEntries.length + 1 ∧ u.mxEntries.getLast? = some x ∧ Entered x st c t

/-- Matrix commands enter the queue of a strand, at once or after a wait. -/
def Obligations.MatrixCommands : Prop :=
  Claims.MatrixCommandsEnter ∧ Claims.WaitingCommandsEnter

/-- R296 to R298: a segment of an entry is fetched: its vectors are read at their homes and held. A fault that the firmware can mend is posted,
and an answer of unfixable ends the entry with failure code 2, which its strand finds in `msync`. A line that the entry has read already is used as
it was then, so that each line has one instant (R297). -/
def Sys2Proof.Claims.MatrixSegmentsAreFetched : Prop :=
  ∀ (d : Die) (q : Quad) (n seg p : Nat) (s s1 : State) (e : MxEntry) (sg : MxSeg) (vs : List MxVec) (ps : List Nat) (a : W64) (operand : Nat),
    ((s.mxTable d q)[n]? = some e → e.segs[seg]? = some sg → e.frozen = false → s.mxHeldBack e = false → s.segReady e sg = true →
      (sg.state = .todo → (∀ k, e.kind ≠ .drain k) →
        fetchVectors e sg.operand (e.segVectors sg) [] [] (s.paidBy e.ctx e.gang e.die) = (s1, .ok (vs, ps), 0) → s1.mxEntries = s.mxEntries →
        ∃ t y, exec (.matrixFetchSegment d q n seg) s = .next t ∧ t.mem = s1.mem ∧ y ∈ t.mxEntries ∧ y.id = e.id ∧ y.held = e.held ++ vs
          ∧ y.pins = e.pins ++ ps ∧ y.segs = e.segs.set seg { sg with state := .done })
      ∧ (sg.state = .posted p → s.postState p = .unfixable →
        ∃ t, exec (.matrixFetchSegment d q n seg) s = .next t ∧ t.mem = s.mem ∧ (∀ y ∈ t.mxEntries, y.id ≠ e.id)
          ∧ ∀ w idx st, e.who = some w → s.findStrand w = some idx → s.strands[idx]? = some st → st.park = none →
              ∃ st', t.strands[idx]? = some st' ∧ st'.mfail = (if st.mfail = 0 then 2 else st.mfail)))
    ∧ (∀ pl : Place, s.entryPlace e operand .read a (e.vectorAlign operand) = (s1, .ok (.inl pl)) → s1.partials = [] → e.scaledFmt operand = none →
      let lines := linesOf (pl.addr.getD 0) (e.vectorSize operand)
      ∃ t pin v, s.fetchVector e operand a = (t, .ok v pin) ∧ t.mem = s1.mem ∧ v.operand = operand ∧ v.addr = a ∧ v.scale = none
        ∧ v.lines.map (·.addr) = lines
        ∧ (∀ l ∈ v.lines, l ∈ e.held.flatMap (·.lines) ∨ l = ⟨l.addr, s1.mem.read l.addr 128, none⟩)
        ∧ ((∀ l ∈ lines, e.lineHeld l = none) → v.data = s1.mem.read (pl.addr.getD 0) (e.vectorSize operand)))

/-- R173, R174, R290, R300, R309: the ready entry of highest priority takes its effect on its tile. `mz` zeroes it; a load gives it the rows it
holds; an INT8 pass adds, modulo 2^32, the exact products of its vectors; a floating-point pass adds the rounded group sum of R174 to R176. The entry
is then over, and nothing outside the tile has changed. A drain writes its rows to memory. -/
def Sys2Proof.Claims.MatrixEntriesApply : Prop :=
  ∀ (d : Die) (q : Quad) (s s1 : State) (e : MxEntry) (m n : Nat) (ts : List (W64 × Nat)), s.mxNext d q = some e → m < 128 → n < 128 → e.pins = [] → e.tile < 8 →
    let vec := fun (o r : Nat) => (e.operandVecs o).getD r ([], none)
    let ints := fun (o r j : Nat) => (((vec o r).1.getD j 0).toInt)
    let nums := fun (o r f : Nat) => if (vec o r).1 = [] then List.replicate 64 (Num.fin false 0 0) else vectorNums f (vec o r).1 (vec o r).2
    let fa := bits e.mcw 7 4
    let fb := bits e.mcw 11 8
    let gap := if e.mcw.getLsbD 17 then some (bits e.mcw 16 12) else none
    let s0 : State := ({ s with cycle := max s.cycle (s.mxBusy.get 0 (16 * d.toNat + q.toNat)) } : State).paidBy e.ctx e.gang d
    (∀ k, e.kind = .drain k → drainTargets e (e.vectors 0) s0 = (s1, .inl ts) → s1.partials = [] → Apart (ts.map (·.2)) 128 →
      ∃ t, exec (.matrixEntryApply d q) s = .next t ∧ (∀ y ∈ t.mxEntries, y.id ≠ e.id)
        ∧ ∀ j < ts.length, t.mem.read ((ts.map (·.2)).getD j 0) 128 = ((drainBytes s1 e k).drop (128 * j)).take 128)
    ∧ ((∀ k, e.kind ≠ .drain k) → ∃ t, exec (.matrixEntryApply d q) s = .next t ∧ (∀ y ∈ t.mxEntries, y.id ≠ e.id)
      ∧ OutsideTile s t d q e.tile
      ∧ (e.kind = .mz → t.tileWord e m n = 0)
      ∧ (e.kind = .load 0 → t.tileWord e m n = BitVec.ofNat 32 (leNat (((rowHeld e 4 m).drop (4 * n)).take 4)))
      ∧ (e.kind = .load 1 → t.tileWord e m n
          = BitVec.ofNat 32 (numToFmt fp32 .rn false (bf16.decode (leNat (((rowHeld e 2 m).drop (2 * n)).take 2)))).bits)
      ∧ (e.kind = .load 2 → t.tileWord e m n
          = BitVec.ofNat 32 (numToFmt fp32 .rn false (fp16.decode (leNat (((rowHeld e 2 m).drop (2 * n)).take 2)))).bits)
      ∧ (e.isPass = true → fa = 7 →
          t.tileWord e m n = s.tileWord e m n + BitVec.ofInt 32 ((List.range 64).foldl (fun x j => x + ints 0 m j * ints 1 n j) 0))
      ∧ (e.isPass = true → fa ≠ 7 → (vec 1 n).1 ≠ [] →
          t.tileWord e m n = BitVec.ofNat 32 (fAdd fp32 .rn (s.tileWord e m n).toNat
            (groupSum gap ((nums 0 m fa).all Num.isZero || (nums 1 n fb).all Num.isZero) ((nums 0 m fa).zip (nums 1 n fb))).1).bits))

/-- R300: an entry that has been ready for 1,024 cycles has priority 4. -/
def Sys2Proof.Claims.MatrixEntriesAge : Prop :=
  ∀ (d : Die) (q : Quad) (n at_ : Nat) (s : State) (e : MxEntry), (s.mxTable d q)[n]? = some e → e.readyAt = some at_ → e.aged = false →
    exec (.matrixEntryAged d q n) s = .next { s with
      cycle := max s.cycle (at_ + 1024)
      mxEntries := s.mxEntries.map (fun x => if x.id == e.id then { x with aged := true } else x) }
    ∧ (∀ now, ({ e with aged := true } : MxEntry).priority now = 4) ∧ (∀ now, at_ + 1024 ≤ now → e.priority now = 4)

/-- The entries of the matrix queue: segments fetched, entries applied, entries aged. -/
def Obligations.MatrixEntries : Prop :=
  Claims.MatrixSegmentsAreFetched ∧ Claims.MatrixEntriesApply ∧ Claims.MatrixEntriesAge

/-- R304, R305, R311: `malloc` maps the names asked for to the lowest free tiles of the quad, and a newly mapped tile holds zeros; `mfree` unmaps
names once no entry is left on their tiles; `msync` waits for the strand's entries and answers with its failure code. -/
def Sys2Proof.Claims.TilesAreMapped : Prop :=
  ∀ (px : Pfx) (d a : BitVec 6) (s : State) (st : Strand) (k : Nat) (g : Gang),
    let x := st.wreg a.toNat
    let alloc : Instr := .malloc px d a
    let free : Instr := .mfree px a
    let sync : Instr := .msync px d
    let tiles := (List.range 8).filter (fun t => s.tileFree g.die g.quad t)
    let wanted := (List.range 8).filter (fun n => x.getLsbD n)
    let answers := fun (t : State) (status : Word) => exec alloc s = .next t
      ∧ t.strands = s.strands.set s.cur (settled alloc k st { st with emptyW := addTo st.emptyW d.toNat })
      ∧ t.results.getLast?.map (·.wwrites) = some [(d.toNat, status)]
    s.mayMatrix st = true → s.gangOf st = some g → g.accMap.length = 8 →
    (Ready alloc s st k → bits x 31 8 ≠ 0 ∨ (∃ n ∈ wanted, g.accMap.getD n none ≠ none) → ∃ t, answers t 2 ∧ t.gangs = s.gangs ∧ t.mem = s.mem)
    ∧ (Ready alloc s st k → bits x 31 8 = 0 → (∀ n ∈ wanted, g.accMap.getD n none = none) →
      (tiles.length < wanted.length → ∃ t, answers t 1 ∧ t.gangs = s.gangs ∧ t.mem = s.mem)
      ∧ (wanted.length ≤ tiles.length → ∃ t g', answers t 0 ∧ t.gangOf st = some g' ∧ g'.accMap.length = 8
          ∧ (∀ j < wanted.length, g'.accMap.getD (wanted.getD j 0) none = tiles[j]?)
          ∧ (∀ n < 8, n ∉ wanted → g'.accMap.getD n none = g.accMap.getD n none)
          ∧ (∀ j < wanted.length, ∀ y < 65536, t.mem.get (Config.tileAddr g.die g.quad (tiles.getD j 0) + y) = 0)
          ∧ (∀ y, (∀ j < wanted.length, y < Config.tileAddr g.die g.quad (tiles.getD j 0) ∨ Config.tileAddr g.die g.quad (tiles.getD j 0) + 65536 ≤ y) →
              t.mem.get y = s.mem.get y)))
    ∧ (Ready free s st k → s.mfreeReady g x = true → ∃ t g', exec free s = .next t ∧ t.strands = s.strands.set s.cur (settled free k st st)
        ∧ t.gangOf st = some g' ∧ (∀ n < 8, g'.accMap.getD n none = if x.getLsbD n then none else g.accMap.getD n none) ∧ t.mem = s.mem)
    ∧ (Ready free s st k → s.mfreeReady g x = false → ∃ t, exec free s = .next t ∧ t.gangs = s.gangs
        ∧ t.strands = s.strands.set s.cur (parkedIn st .matrix free))
    ∧ (Ready sync s st k → (∀ e ∈ s.mxEntries, e.who ≠ some st.who) →
        Gives sync s st k { wWritten st d.toNat st.mfail with mfail := 0 })
    ∧ (Ready sync s st k → (∃ e ∈ s.mxEntries, e.who = some st.who) → ∃ t, exec sync s = .next t ∧ t.mem = s.mem
        ∧ t.strands = s.strands.set s.cur (parkedIn st .matrix sync))

/-- R312 to R314: `mdrain.frz` writes the tile of a frozen gang to memory, unmaps its name and answers with the owner word, or with 0;
`mload.frz` gives a free tile the bytes and the owner's name. (No access waits for a way or a die, or meets an error.) -/
def Sys2Proof.Claims.FrozenTilesMove : Prop :=
  ∀ (px : Pfx) (d a b : BitVec 6) (n : BitVec 3) (s s1 : State) (st : Strand) (k name : Nat) (xs : List Nat) (g : Gang),
    let out : Instr := .mdrainFrz px d a n
    let in_ : Instr := .mloadFrz px d a b n
    let place := fun kind => s.framePlaces st kind 128 ((List.range 512).map (fun j => st.wpair a.toNat + BitVec.ofNat 64 (128 * j)))
    let owner := st.wreg b.toNat
    s.mayMatrix st = true → s.reqs = [] →
    (Ready out s st k → (∀ h ∈ s.gangs, h.die = st.core.die → h.quad = st.core.quad → h.frozen = true → some n.toNat ∉ h.accMap) →
      Gives out s st k (wWritten st d.toNat 0))
    ∧ (Ready out s st k → s.gangs.find? (fun h => h.die == st.core.die && h.quad == st.core.quad && h.frozen && h.accMap.contains (some n.toNat)) = some g →
      g.accMap.findIdx? (· == some n.toNat) = some name → name < 8 → place .write = (s1, .ok xs) → s1.partials = [] → Apart xs 128 →
      (s1.writePieces st (st.wpair a.toNat) 128 xs (tileBytes s1 g.die g.quad n.toNat)).stalled = s.stalled →
      ∃ t, exec out s = .next t ∧ t.strands = s.strands.set s.cur (settled out k st (wWritten st d.toNat
            (1#1 ++ g.ctxSlot ++ BitVec.ofNat 3 name ++ g.gang)))
        ∧ (∀ j < 512, t.mem.read (xs.getD j 0) 128 = ((tileBytes s1 g.die g.quad n.toNat).drop (128 * j)).take 128)
        ∧ ∀ h ∈ t.gangs, h.ctx = g.ctx → h.gang = g.gang → h.accMap.getD name none = none)
    ∧ (Ready in_ s st k → owner.getLsbD 31 = false ∨ s.tileFree st.core.die st.core.quad n.toNat = false ∨ s.ownerGang owner = none →
      Gives in_ s st k (wWritten st d.toNat 1))
    ∧ (Ready in_ s st k → owner.getLsbD 31 = true → s.tileFree st.core.die st.core.quad n.toNat = true → s.ownerGang owner = some g →
      g.die = st.core.die → g.quad = st.core.quad → g.accMap.getD (bits owner 26 24) none = none → place .read = (s1, .ok xs) → s1.partials = [] →
      (s1.readPieces 128 xs).1.stalled = s.stalled →
      ∃ t, exec in_ s = .next t ∧ t.strands = s.strands.set s.cur (settled in_ k st (wWritten st d.toNat 0))
        ∧ (∀ j < 512, ((tileBytes t g.die g.quad n.toNat).drop (128 * j)).take 128 = s1.mem.read (xs.getD j 0) 128)
        ∧ OutsideTile s1 t g.die g.quad n.toNat
        ∧ ∀ h ∈ t.gangs, h.ctx = g.ctx → h.gang = g.gang → h.accMap.getD (bits owner 26 24) none = some n.toNat)

/-- R313, R314: `mdrain.frzq` writes the frozen entries of a gang as command records, removes them and answers with their number of 32-byte records;
`mload.frzq` enters the entries of records, and refuses too many with 1 and malformed ones with 2. (No access waits or meets an error.) -/
def Sys2Proof.Claims.FrozenEntriesMove : Prop :=
  ∀ (px : Pfx) (d a b : BitVec 6) (s s1 s2 : State) (st : Strand) (k : Nat) (xs : List Nat) (bs : List Byte) (es : List MxEntry),
    let out : Instr := .mdrainFrzq px d a b
    let in_ : Instr := .mloadFrzq px d a b
    let place := fun kind n => s.framePlaces st kind 32 ((List.range n).map (fun j => st.wpair a.toNat + BitVec.ofNat 64 (32 * j)))
    let n := (st.wreg b.toNat).toNat
    let mine := (match s.ownerGang (st.wreg b.toNat) with
      | some g => s.mxEntries.filter (fun (e : MxEntry) => e.die = st.core.die ∧ e.quad = st.core.quad ∧ e.frozen = true ∧ e.ctx = g.ctx ∧ e.gang = g.gang)
      | none => [])
    let records := mine.flatMap s.entryRecords
    s.mayMatrix st = true → s.reqs = [] →
    (Ready out s st k → place .write (records.length / 32) = (s1, .ok xs) → s1.partials = [] → Apart xs 32 →
      (s1.writePieces st (st.wpair a.toNat) 32 xs records).stalled = s.stalled →
      ∃ t, exec out s = .next t ∧ t.strands = s.strands.set s.cur (settled out k st (wWritten st d.toNat (BitVec.ofNat 32 (records.length / 32))))
        ∧ (∀ j < records.length / 32, t.mem.read (xs.getD j 0) 32 = (records.drop (32 * j)).take 32)
        ∧ (∀ e ∈ mine, e ∉ t.mxEntries))
    ∧ (Ready in_ s st k → 288 < n → Gives in_ s st k (wWritten st d.toNat 1))
    ∧ (Ready in_ s st k → n ≤ 288 → place .read n = (s1, .ok xs) → s1.readPieces 32 xs = (s2, bs) → s2.stalled = s.stalled →
      (s2.entriesOfRecords st.core.die st.core.quad n bs = none →
        ∃ t, exec in_ s = .next t ∧ t.strands = s.strands.set s.cur (settled in_ k st (wWritten st d.toNat 2)) ∧ t.mxEntries = s.mxEntries)
      ∧ (s2.entriesOfRecords st.core.die st.core.quad n bs = some es → 32 < (s2.mxTable st.core.die st.core.quad).length + es.length →
        ∃ t, exec in_ s = .next t ∧ t.strands = s.strands.set s.cur (settled in_ k st (wWritten st d.toNat 1)) ∧ t.mxEntries = s.mxEntries)
      ∧ (s2.entriesOfRecords st.core.die st.core.quad n bs = some es → (s2.mxTable st.core.die st.core.quad).length + es.length ≤ 32 →
        ∃ t, exec in_ s = .next t ∧ t.strands = s.strands.set s.cur (settled in_ k st (wWritten st d.toNat 0))
          ∧ t.mxEntries.length = s.mxEntries.length + es.length ∧ (∀ e ∈ s.mxEntries, e ∈ t.mxEntries)))

/-- Tiles mapped and freed, and the moves of a frozen gang's tiles and entries. -/
def Obligations.TilesAndFrozenMatrixState : Prop :=
  Claims.TilesAreMapped ∧ Claims.FrozenTilesMove ∧ Claims.FrozenEntriesMove
/-! ### Rays and light walks -/

namespace Sys2Proof.Claims

/-- A triangle hit of R327 as the result group of `trace` says it (R331, R332). -/
def hitWords (header : W64) (h : Hit) : List Word :=
  [rndRatio .rn h.tri.t h.tri.den, BitVec.ofNat 32 h.index, h.inst, (if h.tri.back then 0xC0000000 else 0x80000000),
    header.extractLsb' 0 32, header.extractLsb' 32 32, h.user, 0]

/-- The result group of a `trace` without a hit: a miss, or a traversal that ended with a code. -/
def missWords (header : W64) (code : Nat) : List Word :=
  [0x7F800000, 0xFFFFFFFF, 0xFFFFFFFF, BitVec.ofNat 32 code, header.extractLsb' 0 32, header.extractLsb' 32 32, 0, 0]

end Sys2Proof.Claims

/-- R324, R332 to R334, R337: the per-lane ray instructions. A strand that has posted stores waits for them; then each active lane's groups are
handed to the unit, and the destination group is empty until every lane has ended. With no active lane nothing happens. -/
def Sys2Proof.Claims.RaysStart : Prop :=
  ∀ (px : Pfx) (d a b : BitVec 8),
    let starts := fun (i : Instr) (kind : RayKind) (na nb nd : Nat) => ∀ (s : State) (st : Strand) (k : Nat), Ready i s st k →
      let rs := (List.range nd).map (fun j => dstOf px d k + j)
      let ga := fun (l : Nat) => (List.range na).map (fun j =>
        if px.extD.ua then st.wreg (a.toNat + j) else st.lane (strided a (seqRpt px).sa.toNat k + j) l)
      let gb := fun (l : Nat) => (List.range nb).map (fun j =>
        if px.extD.ub then st.wreg (b.toNat + j) else st.lane (strided b (seqRpt px).sb.toNat k + j) l)
      (st.active px = 0 → Gives i s st k st)
      ∧ (st.active px ≠ 0 → st.posted ≠ 0 → exec i s = .next (withCur s { st with state := .held, park := some .posted }))
      ∧ (st.active px ≠ 0 → st.posted = 0 → s.reqs = [] →
          ∃ t, exec i s = .next t ∧ t.strands = s.strands.set s.cur (settled i k st { st with emptyV := rs.foldl addTo st.emptyV })
            ∧ t.mem = s.mem
            ∧ t.rayOps = s.rayOps ++ [⟨s.nextId, st.who, st.core, st.who.ctx, st.ctxSlot, kind, dstOf px d k,
                (lanesOf (st.active px)).map (fun l => ⟨l, ga l, gb l, none, none⟩)⟩]
            ∧ t.results = s.results ++ [⟨s.nextId, st.who, rs, [], [], [], [], [], [s.nextId], 0, 0⟩])
    starts (.trace px d a b) .trace 8 2 8 ∧ starts (.traceocc px d a b) .traceocc 8 2 1 ∧ starts (.trres px d a b) .trres 8 8 4
    ∧ starts (.ltwalk px d a b) .ltwalk 4 2 2

/-- R331 to R334, R337: a lane's unit runs to its end in one event. When it was the last lane of its operation, every word of the lane is ready
to be written; else the operation keeps the lane's answer. What the words are, for a traversal that the unit finishes, for an invalid ray, and
for a `trres` without a hit. The table is the core's copy of the context's format table (R318). -/
def Sys2Proof.Claims.RayLanesEnd : Prop :=
  ∀ (s s1 : State) (id : Nat) (lane : BitVec 5) (r : RayOp) (l : RayLane) (table : List W64) (x : Result) (words : List Word) (w : RayWork),
    let light := decide (r.kind = .ltwalk)
    let i : Instr := if light then .lightWalkLaneComplete id lane else .rayLaneComplete id lane
    let s0 := s.paidBy r.ctx r.who.gang r.core.die
    let header := pair (l.b.getD 0 0) (l.b.getD 1 0)
    let env : RayEnv := ⟨engineReq r.ctx r.slot r.core.die r.core.quad .read, table⟩
    (s.rayOps.find? (fun o => o.result == id) = some r → r.lanes.find? (fun y => y.lane == lane.toNat && y.answer.isNone) = some l →
      l.post = none → (light = false → s.rayTables.find? (fun t => t.core == r.core && t.ctx == r.ctx) = some ⟨r.core, r.ctx, table, none⟩) →
      s0.rayLaneRun r l (if light then blankTable else table) = (s1, .ok words) → s1.rayOps = s.rayOps → s1.results = s.results →
      ∃ t, exec i s = .next t ∧ t.mem = s1.mem ∧ t.strands = s1.strands
        ∧ (r.lanes = [l] → s.rayOps = [r] → s.results = [x] → x.id = id →
            t.rayOps = [] ∧ t.results = [{ x with
              vwrites := x.vwrites ++ ((List.range words.length).zip words).map (fun p => (r.dest + p.1, l.lane, p.2)), pending := [] }])
        ∧ ((∃ y ∈ r.lanes, y.lane ≠ l.lane ∧ y.answer = none) → s.rayOps = [r] →
            t.results = s.results ∧ t.rayOps = [{ r with lanes := r.lanes.map (fun y =>
              if y.lane = l.lane then { y with answer := some words, post := none } else y) }]))
    ∧ (r.kind = .trace →
        (rayOf l.a = none → s0.rayLaneRun r l table = (s0, .ok (missWords header 1)))
        ∧ (∀ y, rayOf l.a = some y → s0.traverse env false header y = (s1, .ok w) →
            ∃ t, s0.rayLaneRun r l table = (t, .ok (match w.best with | some h => hitWords header h | none => missWords header 0)))
        ∧ (∀ y n, rayOf l.a = some y → s0.traverse env false header y = (s1, .error (.code n)) →
            s0.rayLaneRun r l table = (s1, .ok (missWords header n))))
    ∧ (r.kind = .traceocc →
        (rayOf l.a = none → s0.rayLaneRun r l table = (s0, .ok [1]))
        ∧ (∀ y, rayOf l.a = some y → s0.traverse env true header y = (s1, .ok w) →
            ∃ t, s0.rayLaneRun r l table = (t, .ok [match w.best with
              | some h => if h.tri.back then 0xC0000000 else 0x80000000 | none => 0])))
    ∧ (r.kind = .trres → (l.b.getD 3 0).getLsbD 31 = false → s0.rayLaneRun r l table = (s0, .ok [0, 0, 0, l.b.getD 3 0]))
    ∧ (r.kind = .ltwalk →
        (∀ p q, s0.lightWalk env.q header l.a = (s1, .ok (p, q)) → s0.rayLaneRun r l table = (s1, .ok [p, q]))
        ∧ (∀ n, s0.lightWalk env.q header l.a = (s1, .error (.code n)) → s0.rayLaneRun r l table = (s1, .ok [0xFFFFFFFE, 0x7FC00000])))

/-- R325, R327: which rays are valid, and the exact triangle test. t, u and v are the solution of o + t d = p0 + u e1 + v e2, here as integers over
the denominator |d · n|; the triangle is hit when u, v ≥ 0, u + v ≤ 1, tmin ≤ t ≤ tcur, and its face (back where d · n > 0) is not culled. -/
def Obligations.TriangleTest : Prop :=
  (∀ g : List Word,
      let bad := fun (w : Word) => unitsOf w = none
      rayOf g = none ↔ (bad (g.getD 0 0) ∨ bad (g.getD 1 0) ∨ bad (g.getD 2 0) ∨ bad (g.getD 4 0) ∨ bad (g.getD 5 0) ∨ bad (g.getD 6 0))
        ∨ realOf (g.getD 3 0) = none ∨ realOf (g.getD 7 0) = none
        ∨ (unitsOf (g.getD 4 0) = some 0 ∧ unitsOf (g.getD 5 0) = some 0 ∧ unitsOf (g.getD 6 0) = some 0)
        ∨ ∃ t0 t1, realOf (g.getD 3 0) = some t0 ∧ realOf (g.getD 7 0) = some t1 ∧ t0.le t1 = false)
  ∧ ∀ (r : Ray) (tcur : Real1) (cull : Nat) (g : List Word) (p0 p1 p2 : Vec3),
    vecOf (g.take 3) = some p0 → vecOf ((g.drop 3).take 3) = some p1 → vecOf ((g.drop 6).take 3) = some p2 →
    let e1 := p1.sub p0
    let e2 := p2.sub p0
    let dn := r.d.dot (e1.cross e2)
    let q : Int := dn.natAbs
    (dn = 0 → triTest r tcur cull g = none)
    ∧ (dn ≠ 0 → ∃ T U V : Int,
        r.o.x * q + T * r.d.x = p0.x * q + U * e1.x + V * e2.x
        ∧ r.o.y * q + T * r.d.y = p0.y * q + U * e1.y + V * e2.y
        ∧ r.o.z * q + T * r.d.z = p0.z * q + U * e1.z + V * e2.z
        ∧ (0 ≤ U ∧ 0 ≤ V ∧ U + V ≤ q ∧ r.tmin.le (.fin T dn.natAbs) = true ∧ (Real1.fin T dn.natAbs).le tcur = true
            ∧ ¬(cull = 1 ∧ 0 < dn) ∧ ¬(cull = 2 ∧ dn < 0) → triTest r tcur cull g = some ⟨T, U, V, dn.natAbs, decide (0 < dn)⟩)
        ∧ (¬(0 ≤ U ∧ 0 ≤ V ∧ U + V ≤ q ∧ r.tmin.le (.fin T dn.natAbs) = true ∧ (Real1.fin T dn.natAbs).le tcur = true
            ∧ ¬(cull = 1 ∧ 0 < dn) ∧ ¬(cull = 2 ∧ dn < 0)) → triTest r tcur cull g = none))

/-! ### Reservoirs and random numbers -/

namespace Sys2Proof.Claims

/-- A per-lane step on the reservoir record in the eight registers of vd (R342): the active lanes' records are replaced, and the conditions of
those lanes are ORed into sr.rsvflags; with no active lane nothing happens. -/
def Records (i : Instr) (d : BitVec 8) (f : Nat → Strand → Nat → Record × BitVec 5) : Prop :=
  ∀ (s : State) (st : Strand) (k : Nat), Ready i s st k →
    let r := dstOf i.px d k
    let act := st.active i.px
    Gives i s st k
      (if act = 0 then st
       else
        let st' := (List.range 8).foldl (fun (x : Strand) j => { x with
          v := x.v.set (r + j) (buildRow (fun l => if act.getLsbD l then (f k st l).1.words.getD j 0 else x.lane (r + j) l))
          emptyV := x.emptyV.filter (· != r + j) }) st
        { st' with sr := { st.sr with rsvflags := st.sr.rsvflags
            ||| (((lanesOf act).map (fun l => (f k st l).2)).foldl (· ||| ·) 0).setWidth 32 } })

/-- The record in eight v registers of a lane, and word `j` of the groups a and b. -/
def recordIn (st : Strand) (r l : Nat) : Record := Record.ofWords ((List.range 8).map (fun j => st.lane (r + j) l))
def wordA (px : Pfx) (a : BitVec 8) (k : Nat) (st : Strand) (j l : Nat) : Word :=
  if px.extD.ua then st.wreg (a.toNat + j) else st.lane (strided a (seqRpt px).sa.toNat k + j) l
def wordB (px : Pfx) (b : BitVec 8) (k : Nat) (st : Strand) (j l : Nat) : Word :=
  if px.extD.ub then st.wreg (b.toNat + j) else st.lane (strided b (seqRpt px).sb.toNat k + j) l

/-- A positive finite FP32 word. -/
def Positive (w : Word) : Prop := ∃ n, unitsOf w = some n ∧ 0 < n

end Sys2Proof.Claims

/-- R344 to R349: the reservoir instructions replace each active lane's record by what `Claims.ReservoirSteps` says; `rsvnrm` is deferred;
`rsvld` and `rsvst` move the 32 bytes as per-lane accesses; `rng` writes h and u of the key and the counter (R340). -/
def Sys2Proof.Claims.ReservoirInstructions : Prop :=
  ∀ (px : Pfx) (d a b x : BitVec 8) (n f : BitVec 4),
    Records (.rsvinit px d) d (fun _ _ _ => (⟨0xFFFFFFFF, 0, 0, 0, 0, 0, 0, 0⟩, 0))
    ∧ Records (.rsvupd px d a b) d (fun k st l => (recordIn st (dstOf px d k) l).update
        (Record.ofWords ((List.range 8).map (fun j => wordA px a k st j l))) (wordB px b k st 0 l))
    ∧ Records (.rsvmrg px d a b) d (fun k st l => (recordIn st (dstOf px d k) l).merge
        (Record.ofWords ((List.range 8).map (fun j => wordA px a k st j l))) (wordB px b k st 0 l) (wordB px b k st 1 l) (wordB px b k st 2 l))
    ∧ (∀ (s : State) (st : Strand) (k : Nat), Ready (.rsvnrm px d) s st k →
        let act := st.active px
        let r := dstOf px d k
        let rs := (List.range 8).map (fun j => r + j)
        let g := fun (l : Nat) => (recordIn st r l).normalise
        (act = 0 → Gives (.rsvnrm px d) s st k st)
        ∧ (act ≠ 0 → exec (.rsvnrm px d) s = .next
            { withCur s (settled (.rsvnrm px d) k st { st with emptyV := rs.foldl addTo st.emptyV }) with
              results := s.results ++ [{ id := s.nextId, who := st.who, vregs := rs, wregs := []
                                         vwrites := (List.range 8).flatMap (fun j => (lanesOf act).map (fun l => (r + j, l, (g l).1.words.getD j 0)))
                                         wwrites := [], mwrites := [], bwrites := [], pending := [], flags := 0
                                         rsvflags := ((lanesOf act).map (fun l => (g l).2)).foldl (· ||| ·) 0 }]
              nextId := s.nextId + 1 }))
    ∧ LanesStart (.rsvld px d x n f) (fun k st =>
        { form px n x (f.toNat + k * (seqRpt px).sb.toNat) .read 32 32 (fun _ => .read 32) (groupOf (dstOf px d k) 32) k st with near := true })
    ∧ LanesStart (.rsvst px d x n f) (fun k st =>
        { form px n x (f.toNat + k * (seqRpt px).sb.toNat) .write 32 32 (fun l => .write (leBytes 32 (st.laneGroup (dstOf px d k) 8 l))) [] k st with
          near := true })
    ∧ (∀ (s : State) (st : Strand) (k : Nat), Ready (.rng px d a b) s st k →
        let r := dstOf px d k
        let act := st.active px
        let row := fun (x : Nat) (g : Nat → Word) => buildRow (fun l => if act.getLsbD l then g l else st.lane x l)
        Gives (.rng px d a b) s st k
          (if act = 0 then st
           else { st with
            v := (st.v.set r (row r (fun l => randomH (opA2 px a k st l) (opB2 px b k st l)))).set (r + 1)
              (row (r + 1) (fun l => randomU (opA2 px a k st l) (opB2 px b k st l)))
            emptyV := (st.emptyV.filter (· != r)).filter (· != r + 1) }))
    ∧ (∀ key c : W64,
        let lo := fun (y : W64) => y.extractLsb' 0 32
        let hi := fun (y : W64) => y.extractLsb' 32 32
        let h0 := lo key ^^^ lo c ^^^ (hi key ^^^ hi c).rotateLeft 16
        let h1 := (h0 ^^^ (h0 >>> 16)) * 0x7A3DE4A5
        let h2 := (h1 ^^^ (h1 >>> 15)) * 0x91E10DA5
        let h := h2 ^^^ (h2 >>> 16)
        randomH key c = h ∧ unitsOf (randomU key c) = some (((h.toNat / 256 : Nat) : Int) * 2 ^ 125))

/-- R343, R347 to R349: what one record becomes. -/
def Sys2Proof.Claims.ReservoirSteps : Prop :=
  (∀ r : Record,
      (∀ n, unitsOf r.wsum = some n → 0 ≤ n → r.clean = ({ r with wsum := if n = 0 then 0 else r.wsum }, 0))
      ∧ (∀ n, unitsOf r.wsum = some n → n < 0 → r.clean = (⟨0xFFFFFFFF, 0, 0, 0, r.m, 0, 0, 0⟩, 4))
      ∧ ((num32 r.wsum).isNan = true → r.clean = (⟨0xFFFFFFFF, 0, 0, 0, r.m, 0, 0, 0⟩, 1))
      ∧ ((num32 r.wsum).isInf = true → r.clean = (⟨0xFFFFFFFF, 0, 0, 0, r.m, 0, 0, 0⟩, 2)))
  ∧ (∀ u : Word,
      (((num32 u).isNan = true ∨ (num32 u).neg = true) → clampDraw u = 0)
      ∧ ((num32 u).isNan = false → (num32 u).neg = false → clampDraw u = if u.toNat < 0x3F800000 then u else 0x3F7FFFFF))
  ∧ (∀ (r c : Record) (u : Word),
      let r0 := r.clean.1
      let f := r.clean.2 ||| (if r0.m = 0xFFFFFFFF then 8 else 0)
      let m := if r0.m = 0xFFFFFFFF then r0.m else r0.m + 1
      let sum := rnAdd r0.wsum c.wsum
      let draw := clampDraw u
      ((num32 c.wsum).isNan = true → r.update c u = ({ r0 with m := m }, f ||| 1))
      ∧ (c.wsum = 0x7F800000 → r.update c u = ({ r0 with m := m }, f ||| 2))
      ∧ ((num32 c.wsum).isNan = false → c.wsum ≠ 0x7F800000 → ¬Positive c.wsum → r.update c u = ({ r0 with m := m }, f ||| 4))
      ∧ (Positive c.wsum → sum = 0x7F800000 → r.update c u = ({ r0 with m := m }, f ||| 2))
      ∧ (Positive c.wsum → sum ≠ 0x7F800000 → numCmp (num32 (rnMul draw sum)) (num32 c.wsum) < 0 →
          r.update c u = (⟨c.id, c.phat, sum, r0.w, m, c.pay0, c.pay1, c.pay2⟩, f))
      ∧ (Positive c.wsum → sum ≠ 0x7F800000 → ¬numCmp (num32 (rnMul draw sum)) (num32 c.wsum) < 0 →
          r.update c u = ({ r0 with m := m, wsum := sum }, f)))
  ∧ (∀ (r q : Record) (ph u cap : Word),
      let r0 := r.clean.1
      let n := min q.m.toNat (if cap = 0 then 2 ^ 32 - 1 else cap.toNat)
      let m : Word := if 2 ^ 32 ≤ r0.m.toNat + n then 0xFFFFFFFF else BitVec.ofNat 32 (r0.m.toNat + n)
      let f := r.clean.2 ||| (if 2 ^ 32 ≤ r0.m.toNat + n then 8 else 0)
      let w := rnMulInt (rnMul ph q.w) (BitVec.ofNat 32 n)
      let sum := rnAdd r0.wsum w
      (q.id = 0xFFFFFFFF → r.merge q ph u cap = ({ r0 with m := m }, f))
      ∧ (q.id ≠ 0xFFFFFFFF → Positive w → sum ≠ 0x7F800000 → numCmp (num32 (rnMul (clampDraw u) sum)) (num32 w) < 0 →
          r.merge q ph u cap = (⟨q.id, ph, sum, r0.w, m, q.pay0, q.pay1, q.pay2⟩, f))
      ∧ (q.id ≠ 0xFFFFFFFF → Positive w → sum ≠ 0x7F800000 → ¬numCmp (num32 (rnMul (clampDraw u) sum)) (num32 w) < 0 →
          r.merge q ph u cap = ({ r0 with m := m, wsum := sum }, f))
      ∧ (q.id ≠ 0xFFFFFFFF → ¬Positive w → (r.merge q ph u cap).1 = { r0 with m := m }))
  ∧ (∀ r : Record,
      let r0 := r.clean.1
      let void := r0.id = 0xFFFFFFFF ∨ unitsOf r0.wsum = some 0 ∨ r0.m = 0 ∨ ¬Positive r0.phat
      let w : Word := BitVec.ofNat 32 (fDiv .rn r0.wsum.toNat (rnMulInt r0.phat r0.m).toNat).bits
      (void → r.normalise = (⟨0xFFFFFFFF, 0, r0.wsum, 0, r0.m, 0, 0, 0⟩, r.clean.2 ||| 16))
      ∧ (¬void → r.normalise = ({ r0 with w := w }, r.clean.2 ||| (if w = 0x7F800000 then 2 else 0))))

/-- The reservoir instructions and their arithmetic. -/
def Obligations.Reservoirs : Prop :=
  Claims.ReservoirInstructions ∧ Claims.ReservoirSteps

/-! ### The Twill engines -/

/-- R288: `twl` reads its descriptor, starts an operation in its quad's engine and answers with its ticket; without a free ticket or engine place
it waits. (No access waits for a way or a die: R73, R466.) `twlwait` answers for a complete operation and frees the ticket, waits for one under way,
and answers 2 for a ticket not held. -/
def Sys2Proof.Claims.TwillTickets : Prop :=
  ∀ (px : Pfx) (d a : BitVec 6) (s s1 s3 : State) (st : Strand) (k n : Nat) (p : Place × Bool) (bs : List Byte) (g : Gang),
    let i : Instr := .twl px d a
    let w : Instr := .twlwait px d a
    let addr := st.wpair a.toNat
    let x := st.wreg a.toNat
    let held := fun (m : Nat) => (st.tickets.getD m none).isSome
    let engine := s1.twills.filter (fun o => o.die == st.core.die && o.quad == st.core.quad)
    (Ready i s st k → s.placeObject st addr 128 .read [0, 1] = (s1, .ok p) → s1.strands = s.strands → s1.cur = s.cur →
      (n < 8 → held n = false → (∀ m < n, held m = true) → engine.length < 64 → st.posted = 0 → st.script = [] → s1.reqs = [] →
        Reads i st s1 addr 128 128 [0, 1] s3 bs → s3.strands = s.strands → s3.cur = s.cur → s3.gangOf st = some g → s3.stalled = s.stalled →
        ∃ t, exec i s = .next t ∧ t.mem = s3.mem
          ∧ t.strands = s.strands.set s.cur (settled i k st { st with
              tickets := tabSet 8 st.tickets n (some ⟨bs, g.kernel.header, false, false⟩) none, emptyW := addTo st.emptyW d.toNat })
          ∧ t.twills = s3.twills ++ [⟨s3.nextId, st.core.die, st.core.quad, st.who, n, st.who.ctx, st.ctxSlot, addr, bs, g.kernel.header, false, 0,
              none, [], false⟩]
          ∧ t.results.getLast?.map (·.wwrites) = some [(d.toNat, BitVec.ofNat 32 n)])
      ∧ ((64 ≤ engine.length ∨ ∀ m < 8, held m = true ∧ ∀ y, st.tickets.getD m none = some y → y.done = false) → s1.stalled = s.stalled →
        ∃ t, exec i s = .next t ∧ t.strands = s.strands.set s.cur (parkedIn st .twl i) ∧ t.mem = s1.mem ∧ t.twills = s1.twills))
    ∧ (Ready w s st k →
      (bits x 31 3 ≠ 0 ∨ held (bits x 2 0) = false → UniLate w s st k [(d.toNat, 2)] 0)
      ∧ (∀ y, bits x 31 3 = 0 → st.tickets.getD (bits x 2 0) none = some y →
          (y.done = true → ∃ t, exec w s = .next t ∧ t.mem = s.mem
            ∧ t.strands = s.strands.set s.cur (settled w k st { st with
                tickets := tabSet 8 st.tickets (bits x 2 0) none none, emptyW := addTo st.emptyW d.toNat })
            ∧ t.results.getLast?.map (·.wwrites) = some [(d.toNat, if y.failed then 1 else 0)])
          ∧ (y.done = false → ∃ t, exec w s = .next t ∧ t.strands = s.strands.set s.cur (parkedIn st .twl w) ∧ t.mem = s.mem)))

/-- R288, R353 to R355, R359: the events of an operation that is neither failed nor frozen. Its start checks the descriptor; a pixel begins with its
candidates, its batch gives each candidate its target value, and its record, the merges in order, is written to OUT; at the end its ticket is
done and a strand that waits for it goes on with its status. -/
def Sys2Proof.Claims.TwillOperations : Prop :=
  ∀ (die : Die) (q : Quad) (n : Nat) (s s1 s2 : State) (o : TwillOp) (g : Gang),
    let s0 := s.paidBy o.ctx o.who.gang die
    let t := twillOf o.descriptor
    let tiles := (List.range (t.ntx * t.nty)).map (fun k => (t.ty0 + k / t.ntx) * (t.width / 16) + t.tx0 + k % t.ntx)
    let becomes := fun (u : State) (o' : TwillOp) => u.twills = [o']
    s.twills = [o] → n = 0 → o.die = die → o.quad = q → s.findGang o.ctx o.who.gang = some g → g.frozen = false → o.fixups = [] →
    (o.started = false → o.failed = false → t.refused die = true →
      ∃ u, exec (.twillOperationStart die q n) s = .next u ∧ becomes u { o with failed := true } ∧ u.mem = s.mem)
    ∧ (∀ e, o.started = false → o.failed = false → t.refused die = false → s0.callEntry o t = (s1, .ok e) → ownedBy o t die tiles s1 = (s2, .ok ()) →
        s2.twills = s.twills →
        ∃ u, exec (.twillOperationStart die q n) s = .next u ∧ becomes u { o with started := true } ∧ u.mem = s2.mem)
    ∧ (∀ w, o.started = true → o.failed = false → o.work = none → o.pixel < t.pixels →
        (s0.modTwill o.id (fun x => { x with pixel := x.pixel + 1 })).pixelBegin { o with pixel := o.pixel + 1 } t
          (t.tx0 * 16 + o.pixel % (t.ntx * 16)) (t.ty0 * 16 + o.pixel / (t.ntx * 16)) = (s1, .ok w) → s1.twills = [{ o with pixel := o.pixel + 1 }] →
        ∃ u, exec (.twillPixel die q n) s = .next u ∧ becomes u { o with pixel := o.pixel + 1, work := some { w with pixel := o.pixel } }
          ∧ u.mem = s1.mem)
    ∧ (∀ (w : TwillWork) (c : TwillCand) x y st cs table, o.failed = false → o.work = some w → c ∈ w.cands → c.ph = none →
        (s.rayTables.find? (fun r => r.core == s.twillCore o && r.ctx == o.ctx)) = some ⟨s.twillCore o, o.ctx, table, none⟩ →
        (x, y) = t.pixel w.pixel →
        s0.callBatch o t (w.cands.map (fun c =>
          let r := Record.ofWords c.rec_
          [r.id, r.pay0, r.pay1, r.pay2, BitVec.ofNat 32 x, BitVec.ofNat 32 y, BitVec.ofNat 32 c.kind, BitVec.ofNat 32 c.index])) = (s1, .ok st) →
        batchPh o t table st 0 w.cands s1 = (s2, .ok cs) → s2.twills = s.twills →
        ∃ u, exec (.twillCallableBatch die q n) s = .next u ∧ becomes u { o with work := some { w with cands := cs } } ∧ u.mem = s2.mem)
    ∧ (∀ (w : TwillWork) x y adr d page, o.started = true → o.failed = false → o.work = some w → (∀ c ∈ w.cands, c.ph ≠ none) → (x, y) = t.pixel w.pixel →
        let a := t.out + BitVec.ofNat 64 ((y / 16 * (t.width / 16) + x / 16) * 8192 + (y % 16 * 16 + x % 16) * 32)
        let merged := w.cands.foldl (fun (r : Record) c =>
          (r.merge (Record.ofWords c.rec_) (c.ph.getD 0) c.draw (BitVec.ofNat 32 t.mcap)).1) (Record.ofWords w.cur)
        let record := if t.norm then merged.normalise.1 else merged
        s0.twillPlace o .write a 32 = (s1, .ok (adr, d, page)) → ownedBy o t d (t.pageTiles (s1.pageSpan o a) t.out a) s1 = (s2, .ok ()) → s2.twills = s.twills →
        (∀ p, page = some p → s2.slotAt p.die p.ctx p.vpn ≠ none) →
        s2.partials = [] →
        ∃ u, exec (.twillPixel die q n) s = .next u ∧ becomes u { o with work := none }
          ∧ Stored s2 u adr (record.words.flatMap (fun v => leBytes 4 v.toNat)))
    ∧ (∀ (idx : Nat) (st : Strand) (px : Pfx) (d a : BitVec 6) (k : Ticket), o.failed = true ∨ (o.started = true ∧ o.work = none ∧ t.pixels ≤ o.pixel) →
        s.strands = [st] → idx = 0 → st.who = o.who → st.tickets.getD o.ticket none = some k → o.ticket < 8 → st.tickets.length = 8 →
        ∃ u, exec (.twillOperationComplete die q n) s = .next u ∧ u.twills = [] ∧ u.mem = s.mem
          ∧ (st.park ≠ some .twl → u.strands = [{ st with
              tickets := tabSet 8 st.tickets o.ticket (some { k with done := true, failed := o.failed }) none }])
          ∧ (st.state = .parked → st.isFirmware = false → st.park = some .twl → st.waiting = some (.twlwait px d a) → bits (st.wreg a.toNat) 2 0 = o.ticket → st.w.length = 64 →
              ∃ st', u.strands = [st'] ∧ st'.state = .waiting ∧ st'.wreg d.toNat = (if o.failed then 1 else 0)
                ∧ st'.tickets.getD o.ticket none = none ∧ st'.pc = st.pc + BitVec.ofNat 64 (4 * seqWords px)))

/-- Twill operations and their tickets. -/
def Obligations.Twill : Prop :=
  Claims.TwillTickets ∧ Claims.TwillOperations

/-! ### Boot, dies, power and the configuration registers -/

namespace Sys2Proof.Claims

/-- One configuration register has a new value, and the other registers, memory, the strands and the gangs stay. -/
def Becomes (s t : State) (r : CReg) (v : W64) : Prop :=
  t.reg r = v ∧ (∀ q, q ≠ r → t.reg q = s.reg q) ∧ t.mem = s.mem ∧ t.strands = s.strands ∧ t.gangs = s.gangs

/-- A write is refused (R4): a bit of a register records it, and nothing else changes. -/
def Refused (i : Instr) (s : State) (r : CReg) (b : Nat) : Prop :=
  ∃ t, exec i s = .next t ∧ Becomes s t r (s.reg r ||| (1 : W64) <<< b)

/-- The stage that the boot runs, or the code that it stopped with (R461). -/
def AtStage (s : State) (n : Nat) : Prop := (s.reg .bootst).getLsbD 30 = false ∧ bits (s.reg .bootst) 7 0 = n
def StoppedWith (s : State) (code : Nat) : Prop := (s.reg .bootst).getLsbD 30 = true ∧ bits (s.reg .bootst) 15 8 = code

/-- Why each position is excluded, after those of a set that are not excluded yet are excluded for a reason. -/
def Excluded (s t : State) (ps : BitVec 4) (why : BitVec 2) : Prop :=
  ∀ p < 4, t.boot.why.getD p 0 = if s.boot.why.getD p 0 = 0 ∧ ps.getLsbD p = true then why else s.boot.why.getD p 0

/-- The modules of a link that are disabled, of those that a training reports: of 8 on the links from a compute die to the cache die, and of 4 on the
others (R11, R13; the order of the links is the model's: log entry 57). -/
def ModulesOff (off : List Nat) (k : Nat) : Nat := min (if k < 4 then 8 else 4) (off.getD k 0)

/-- A count that stays at its greatest value (R469). -/
def satInc (x : W64) : W64 := if x = BitVec.allOnes 64 then x else x + 1

end Sys2Proof.Claims

/-- R461 to R465, R469: the stages of the boot. Module reset and a loss of power leave the reset state, the host's memory, and the flash copy of the
field records; each stage goes on to the next or stops with its code; stage 4 binds the dies that are present; an accepted image starts every
firmware slot. -/
def Obligations.BootStages : Prop :=
  ∀ (s : State) (failC failO fail : BitVec 4) (near far : List Nat) (failCache : Bool) (nonce : List Byte) (digest : BitVec 256) (svn : BitVec 32),
    let fresh := fun (t : State) => t.strands = [] ∧ t.gangs = [] ∧ t.slots = [] ∧ t.cycle = 0 ∧ t.flash = s.flash
      ∧ (∀ a, t.mem.get a = if isHost a then s.mem.get a else 0) ∧ ∀ r, r ≠ .bootst → t.reg r = State.reset.reg r
    let off := (List.range 12).map (fun k => if k < 4 then near.getD k 0 else far.getD (k - 4) 0)
    (∃ t, exec .moduleReset s = .next t ∧ fresh t ∧ t.reg .bootst = 1 ∧ t.records = s.flash)
    ∧ (∃ t, exec .modulePowerLoss s = .next t ∧ fresh t ∧ t.reg .bootst = 0)
    ∧ (AtStage s 1 → ∃ t, exec (.ucieTrainingDone near far) s = .next t ∧ AtStage t 2
        ∧ Excluded s t (BitVec.ofNat 4 ((List.range 4).foldl (fun n p => if 8 ≤ off.getD p 0 then n + 2 ^ p else n) 0)) 3
        ∧ (∀ k < 12, t.boot.linkOff.getD k 0 = ModulesOff off k) ∧ t.boot.ucOff.toNat = ((List.range 12).map (ModulesOff off)).sum
        ∧ t.records.ucoff.toNat = min (2 ^ 64 - 1) (s.records.ucoff.toNat + ((List.range 12).map (ModulesOff off)).sum))
    ∧ (AtStage s 2 → failCache = false → ∃ t, exec (.dieAuthenticationDone failC failO failCache) s = .next t ∧ AtStage t 3
        ∧ Excluded s t failC 1 ∧ t.boot.opticalFailed = failO ∧ ∀ p < 16, t.portsUp.getLsbD p = (s.portsUp.getLsbD p && !failO.getLsbD (p / 4)))
    ∧ (AtStage s 2 → failCache = true → ∃ t, exec (.dieAuthenticationDone failC failO failCache) s = .next t ∧ StoppedWith t 1)
    ∧ (AtStage s 3 → ∃ t, exec (.memoryTrainingDone fail) s = .next t ∧ Excluded s t fail 2
        ∧ ((∀ p < 4, t.boot.why.getD p 0 = 0) → AtStage t 5 ∧ t.reg .vdmap = 0x0FE4)
        ∧ (∀ e < 4, t.boot.why.getD e 0 ≠ 0 → (∀ p < 4, p ≠ e → t.boot.why.getD p 0 = 0) →
            AtStage t 5 ∧ bits (t.reg .vdmap) 31 8 = 2 ^ e * 16 + 7 ∧ t.phys 1 = (e + 2) % 4 ∧ t.phys 0 = min ((e + 1) % 4) ((e + 3) % 4)
              ∧ t.phys 2 = max ((e + 1) % 4) ((e + 3) % 4)
              ∧ t.reg .cap = BitVec.ofNat 64 (96 + 2 ^ e * 2 ^ 8 + 7 * 2 ^ 12 + s.boot.ucOff.toNat * 2 ^ 16
                  + (t.boot.why.getD e 0).toNat * 2 ^ (32 + 2 * e)))
        ∧ (∀ e < 4, ∀ f < 4, e ≠ f → t.boot.why.getD e 0 ≠ 0 → t.boot.why.getD f 0 ≠ 0 → StoppedWith t 2))
    ∧ (AtStage s 5 → ∃ t, exec .bootgoWrite s = .next t ∧ AtStage t 6)
    ∧ (¬AtStage s 5 → exec .bootgoWrite s = .next s)
    ∧ (AtStage s 6 → s.mem.nat imageAddr 4 ≠ 0x574D5246 → ∃ t, exec .imageVerificationDone s = .next t ∧ StoppedWith t 3 ∧ t.strands = s.strands)
    ∧ (AtStage s 6 → s.acceptImage = some (digest, svn) → ∃ t, exec .imageVerificationDone s = .next t ∧ AtStage t 7
        ∧ (t.reg .bootst).getLsbD 31 = true ∧ t.strands = s.strands ++ s.validDies.flatMap firmwareOf ∧ t.boot.fwDigest = digest ∧ t.boot.svn = svn)
    ∧ (nonce.length = 32 → ∃ t, exec (.nonceWrite nonce) s = .next t ∧ t.boot.nonce = nonce
        ∧ ((s.reg .bootst).getLsbD 31 = true ∨ s.boot.report.length = 256 → (t.boot.report.drop 160).take 32 = nonce)
        ∧ ((s.reg .bootst).getLsbD 31 = false → s.boot.report.length = 256 → t.boot.report.drop 192 = List.replicate 64 0))

/-- R8, R9, R65, R466: a well-formed binding is put in force while no gang is resident, and every position keeps its memory; GO of DIERST begins the
reset of a die, whose pages move; when the die has retrained its firmware slots start, or FAIL is set. -/
def Sys2Proof.Claims.BindingsAndDieResets : Prop :=
  ∀ (s : State) (v : BitVec 32) (d : Die) (ok : Bool) (off : List Nat),
    (bits v 30 16 ≠ 0 ∨ s.gangs ≠ [] ∨ wellBound v.toNat = false → Refused (.vdmapWrite v) s .vdmap 31)
    ∧ (bits v 30 16 = 0 → s.gangs = [] → wellBound v.toNat = true → s.partials = [] →
        ∃ t, exec (.vdmapWrite v) s = .next t ∧ bits (t.reg .vdmap) 15 0 = bits v 15 0
          ∧ (∀ a b : Die, t.dieValid a = true → s.virtAt (t.phys a) = some b → ∀ off < 2 ^ 37,
              t.mem.get (Config.devAddr a off) = s.mem.get (Config.devAddr b off)))
    ∧ (let old := s.reg .dierst
       let x : Die := v.extractLsb' 0 2
       let bad := old.getLsbD 31 = true ∨ bits v 28 2 ≠ 0
         ∨ v.getLsbD 31 = true ∧ (s.dieValid x = false ∨ s.ctxRun ≠ none ∨ (s.reg .pwrctl).getLsbD 31 = true)
       (bad → Refused (.dierstWrite v) s .dierst 30)
       ∧ (¬bad → v.getLsbD 31 = true → ∃ t, exec (.dierstWrite v) s = .next t ∧ t.dieReset = some x ∧ (t.reg .dierst).getLsbD 31 = true
           ∧ ∀ p ∈ t.slots, p.die = x → ∃ m ∈ t.moves, m.die = x ∧ m.ctx = p.ctx ∧ m.vpn = p.vpn))
    ∧ (s.dieReset = some d → (∀ p ∈ s.slots, p.die ≠ d) →
        ∃ t, exec (.dieResetRetrainDone (ok, off)) s = .next t ∧ t.dieReset = none ∧ (t.reg .dierst).getLsbD 31 = false ∧ t.mem = s.mem
          ∧ (∀ k < 12, t.boot.linkOff.getD k 0
              = if k = s.phys d ∨ k = 4 + s.phys d ∨ k = 4 + (s.phys d + 3) % 4 then ModulesOff off k else s.boot.linkOff.getD k 0)
          ∧ bits (t.reg .cap) 22 16 = t.boot.ucOff.toNat
          ∧ (let rest := s.strands.filter (fun st => !(st.isFirmware && st.core.die == d))
             let good := ok = true ∧ off.getD (s.phys d) 0 < 8
             (good → d ∉ t.deadDies ∧ t.strands = rest ++ (if (s.reg .bootst).getLsbD 31 then firmwareOf d else []))
             ∧ (¬good → t.strands = rest ∧ d ∈ t.deadDies ∧ (t.reg .dierst).getLsbD 29 = true)))

/-- R467 to R469: power states, the thermal trip and the field records. -/
def Sys2Proof.Claims.PowerAndRecords : Prop :=
  ∀ (s : State) (v : BitVec 32) (d : Die) (temp : BitVec 9) (amps : Nat) (st : BitVec 4),
    let old := s.reg .pwrctl
    let bad := bits v 28 4 ≠ 0 ∨ 5 ≤ bits v 3 0 ∨ (bits v 3 0 = 4 ∧ s.gangs ≠ []) ∨ old.getLsbD 31 = true
      ∨ (old.getLsbD 29 = true ∧ ∃ d, s.dieValid d = true ∧ bits (s.reg (.therm d)) 23 16 < bits (s.reg (.therm d)) 8 0 + 20)
    (bad → Refused (.pwrctlWrite v) s .pwrctl 30)
    ∧ (¬bad → ∃ t, exec (.pwrctlWrite v) s = .next t ∧ t.clockPending = some (v.extractLsb' 0 4) ∧ (t.reg .pwrctl).getLsbD 31 = true
        ∧ (t.reg .pwrctl).getLsbD 29 = false ∧ t.clock = s.clock)
    ∧ (s.clockPending = some st → ∃ t, exec .clockSwitch s = .next t ∧ t.clockPending = none ∧ bits (t.reg .pwrctl) 3 0 = st.toNat
        ∧ (t.reg .pwrctl).getLsbD 31 = false ∧ t.clock = (match st.toNat with | 0 => 20 | 1 => 16 | 2 => 12 | 3 => 8 | _ => 0))
    ∧ (s.dieValid d = true → bits (s.reg (.therm d)) 23 16 ≤ temp.toNat → ∃ t, exec (.thermalTrip d temp) s = .next t
        ∧ bits (t.reg (.therm d)) 8 0 = temp.toNat ∧ (t.reg (.therm d)).getLsbD 31 = true ∧ (t.reg .pwrctl).getLsbD 29 = true
        ∧ t.clock = min s.clock 5 ∧ t.clockPending = none ∧ t.records.trips = satInc s.records.trips)
    ∧ exec .fieldRecordFlashCopy s = .next { s with flash := s.records }
    ∧ (∃ t, exec (.fieldRecordSample [] amps) s = .next t ∧ t.mem = s.mem
        ∧ (∀ n < 16, t.records.curhist.getD n 0
            = if n = min 15 (amps / 250) then satInc (s.records.curhist.getD n 0) else s.records.curhist.getD n 0)
        ∧ t.records.poweron = if s.clock = 0 then s.records.poweron else satInc s.records.poweron)
    ∧ (s.validDies = [d] → ∃ t, exec (.fieldRecordSample [temp] amps) s = .next t ∧ bits (t.reg (.therm d)) 8 0 = temp.toNat)

/-- Bindings, die resets, power states and field records. -/
def Obligations.DiesAndPower : Prop :=
  Claims.BindingsAndDieResets ∧ Claims.PowerAndRecords

/-- R4, R5: a write of a configuration register is the write that its chapter describes; the registers that no other rule of a write names take
their value whole, keep their read-only fields, or refuse reserved bits. -/
def Obligations.ConfigRegisterWrites : Prop :=
  ∀ (s0 : State) (v : W64) (d : Die) (n : BitVec 4) (k : Slot) (q : Quad) (c : BitVec 6) (e : BitVec 5) (b : BitVec 3),
    let w : BitVec 32 := v.setWidth 32
    let s : State := { s0 with payer := none }
    let write := fun (r : CReg) => exec (.configRegisterWrite r v) s0
    let sets := fun (r : CReg) (x : W64) => ∃ t, write r = .next t ∧ Becomes s t r x
    write .vdmap = exec (.vdmapWrite w) s ∧ write (.memerr d) = exec (.memerrWrite d v) s ∧ write (.fwctl d n) = exec (.fwctlWrite d n w) s
    ∧ write (.trbase k) = exec (.trbaseWrite k v) s ∧ write (.rqbase d) = exec (.readyQueueRegisterWrite false d v) s
    ∧ write (.rqptr d) = exec (.readyQueueRegisterWrite true d v) s ∧ write (.swctl d) = exec (.swctlWrite d v) s
    ∧ write (.ubpart d) = exec (.ubpartWrite d w) s ∧ write (.ubrsv d k) = exec (.ubrsvWrite d k w) s
    ∧ write (.cqctl d c) = exec (.cqctlWrite d c w) s ∧ write (.raytab k) = exec (.raytabWrite k v) s
    ∧ write (.osctl k) = exec (.osctlWrite k v) s ∧ write .uinva = exec (.uinvaWrite v) s ∧ write .dierst = exec (.dierstWrite w) s
    ∧ write .pwrctl = exec (.pwrctlWrite w) s ∧ write (.vat d q e) = exec (.vaultAllocationWrite d q e w) s
    ∧ write .cap = .next s ∧ write .uintstat = .next s
    ∧ sets (.zdown b) (s0.reg (.zdown b) &&& ~~~v)
    ∧ sets (.head d) (BitVec.ofNat 64 (bits v 31 16 * 2 ^ 16 + bits (s0.reg (.head d)) 15 0))
    ∧ (bits v 1 0 = 0 → sets (.hndbase k) v) ∧ (bits v 1 0 ≠ 0 → write (.hndbase k) = .next s)
    ∧ (bits v 38 0 = 0 → sets (.sysmap k) v) ∧ (bits v 38 0 ≠ 0 → write (.sysmap k) = .next s)
    ∧ (bits v 31 20 = 0 → sets .ztmo (w.setWidth 64)) ∧ (bits v 31 20 ≠ 0 → write .ztmo = .next s)
    ∧ (bits v 31 8 = 0 → sets .uinten (w.setWidth 64)) ∧ (bits v 31 8 ≠ 0 → write .uinten = .next s)

/-! ### Errors of memory, links and vaults; windows and allocations -/

namespace Sys2Proof.Claims

/-- An uncorrectable memory error is recorded in MEMERR (R25), with the context whose access met it, and its work discarded (R24): `u` is the machine
after the record, and `fails` what becomes of an access of no context. -/
def MemoryError (i : Instr) (s : State) (d : Die) (kind off : Nat) (ctx : BitVec 12) (fails : State → State) : Prop :=
  ∃ u, exec i s = .next (if ctx = 0xFFF then fails u else u.discardError ctx) ∧ u.records.memunc = satInc s.records.memunc
    ∧ ((s.reg (.memerr d)).getLsbD 63 = false →
        u.reg (.memerr d) = BitVec.ofNat 64 (2 ^ 63 + kind * 2 ^ 60 + ctx.toNat * 2 ^ 48 + off / 32 * 32))
    ∧ ((s.reg (.memerr d)).getLsbD 63 = true → bits (u.reg (.memerr d)) 47 40 = min 255 (bits (s.reg (.memerr d)) 47 40 + 1)
        ∧ bits (u.reg (.memerr d)) 39 0 = bits (s.reg (.memerr d)) 39 0)

end Sys2Proof.Claims

/-- R22 to R25: a memory attempt that completes fills or cleans its sector; one that fails its CRC is tried again, and after nine attempts it is an
uncorrectable error, as a bad code at once is; MEMERR is cleared by writing one to VALID. An attempt is made for a sector that the L2 does not hold,
or holds dirty (R72); a retry that succeeds counts with the corrected bits (R23, R469). -/
def Sys2Proof.Claims.MemoryAttemptsComplete : Prop :=
  ∀ (s : State) (d : Die) (off : BitVec 37) (ctx : BitVec 12) (v : W64),
    let a := Config.devAddr d off.toNat
    let rd := fun (o : MemOutcome) => Instr.gddr7ReadComplete d off o ctx
    let wr := fun (o : MemOutcome) => Instr.gddr7WriteComplete d off o ctx
    let tries := fun (s : State) (w : Bool) => s.memTries.get 0 (2 * a + if w then 1 else 0)
    let sector := a % 128 / 32
    let corr := fun (again : Bool) => if again then satInc s.records.memcorr else s.records.memcorr
    let missing := ∀ l, s.l2Line (lineOf a) = some l → l.valid.getLsbD sector = false
    let dirty := ∃ l, s.l2Line (lineOf a) = some l ∧ l.dirty.getLsbD sector = true
    let filled := fun (t : State) => t.mem = s.mem ∧ ∃ l ∈ t.l2, l.line = lineOf a ∧ l.valid.getLsbD sector = true
    let lost := fun (u : State) => u.failFetch a
    (s.dieValid d = true → off.toNat < Config.populated → off.toNat % 32 = 0 →
      (missing →
        (s.partials = [] → (s.l2Alloc (lineOf a)).isSome = true →
          (∃ t, exec (rd .ok) s = .next t ∧ filled t ∧ t.records.memcorr = corr (decide (tries s false ≠ 0)))
          ∧ (∃ t, exec (rd .corrected) s = .next t ∧ filled t ∧ t.records.memcorr = corr true))
        ∧ (tries s false < 8 → ∃ t, exec (rd .crcFail) s = .next t ∧ tries t false = tries s false + 1 ∧ t.mem = s.mem ∧ t.records = s.records)
        ∧ (tries s false = 8 → MemoryError (rd .crcFail) s d 0 off.toNat ctx lost)
        ∧ MemoryError (rd .eccUncorrectable) s d 2 off.toNat ctx lost
        ∧ MemoryError (rd .codeUncorrectable) s d 3 off.toNat ctx lost)
      ∧ (dirty →
        (∃ t, exec (wr .ok) s = .next t ∧ t.mem = s.mem ∧ (∀ l ∈ t.l2, l.line = lineOf a → l.dirty.getLsbD sector = false)
          ∧ t.records.memcorr = corr (decide (tries s true ≠ 0)))
        ∧ (tries s true < 8 → ∃ t, exec (wr .crcFail) s = .next t ∧ tries t true = tries s true + 1 ∧ t.mem = s.mem ∧ t.l2 = s.l2)
        ∧ (tries s true = 8 → MemoryError (wr .crcFail) s d 1 off.toNat ctx id)
        ∧ MemoryError (wr .eccUncorrectable) s d 2 off.toNat ctx id)
      ∧ (¬missing → ∀ o, exec (rd o) s = .next s) ∧ (¬dirty → ∀ o, exec (wr o) s = .next s))
    ∧ (bits v 39 37 = 0 → bits v 4 0 = 0 → v.getLsbD 63 = true → ∃ t, exec (.memerrWrite d v) s = .next t
        ∧ Becomes s t (.memerr d) (s.reg (.memerr d) &&& 0x7FFF00FFFFFFFFFF))
    ∧ (bits v 39 37 ≠ 0 ∨ bits v 4 0 ≠ 0 ∨ v.getLsbD 63 = false → exec (.memerrWrite d v) s = .next s)

/-- R12, R88, R93: a flit that fails its CRC is replayed, and the sixteenth failure in a row discards the work of its context; an access to a vault is
performed at its bank, and an uncorrectable word discards the work of its context. -/
def Sys2Proof.Claims.LinkAndVaultAccesses : Prop :=
  ∀ (s : State) (link : BitVec 4) (again : Bool) (ctx : BitVec 12) (id : Nat) (r : Req),
    let n := if again then s.linkFails.get 0 link.toNat + 1 else 1
    (∃ u : State, exec (.ucieFlitCrcFail link again ctx) s = .next (if n < 16 ∨ ctx = 0xFFF then u else u.discardError ctx)
      ∧ u.mem = s.mem ∧ u.strands = s.strands ∧ u.records.ucreplay = satInc s.records.ucreplay ∧ u.linkFails.get 0 link.toNat = n % 16)
    ∧ (s.reqs.find? (fun q => q.id == id) = some r → isVault r.addr = true → blocked s.reqs r = false →
      (∀ data, r.access = .write data → s.vaultWaits = [] → s.partials = [] →
        ∃ t, exec (.vaultAccess id .ok) s = .next t ∧ Stored s t r.addr data ∧ ∀ q ∈ t.reqs, q.id ≠ id)
      ∧ (∀ m, r.access = .read m → r.path ≠ 0 → r.path ≠ 4 → s.vaultWaits = [] → s.partials = [] →
        ∃ t, exec (.vaultAccess id .ok) s = .next t ∧ t.mem = s.mem ∧ t.results = (s.answer id r.reply (s.mem.read r.addr m)).results
          ∧ ∀ q ∈ t.reqs, q.id ≠ id)
      ∧ (r.access.special = false → exec (.vaultAccess id .uncorrectable) s
          = .next (({ s with reqs := s.reqs.filter (fun x => x.id != id) } : State).discardError r.ctx)))

/-- Memory attempts, links and vaults, with and without errors. -/
def Obligations.MemoryAndLinkErrors : Prop :=
  Claims.MemoryAttemptsComplete ∧ Claims.LinkAndVaultAccesses

/-- R29, R90: writes of a window's control and bounds, and of a vault's allocation table. A window is enabled with its bounds in order and its ranges
apart; the write is complete when the sideband of its lines is dropped. A new allocation reads as zero. -/
def Sys2Proof.Claims.WindowsAndAllocations : Prop :=
  ∀ (s : State) (d : Die) (n : BitVec 4) (v : BitVec 32) (x : W64) (q : Quad) (e : BitVec 5),
    let old := s.reg (.fwctl d n)
    let waits := s.pendingWrites.contains (.fwctl d n) = true
    let bad := bits v 30 5 ≠ 0 ∨ (old.getLsbD 4 = true ∧ v.getLsbD 4 = true ∧ bits v 3 0 ≠ bits old 3 0)
      ∨ (old.getLsbD 4 = false ∧ v.getLsbD 4 = true ∧ s.windowOk d n (bits v 3 0) = false)
    let size := bits v 16 8
    let base := bits v 7 0
    let clash := ∃ k : BitVec 5, k ≠ e ∧ (s.reg (.vat d q k)).getLsbD 31 = true
      ∧ base < bits (s.reg (.vat d q k)) 7 0 + bits (s.reg (.vat d q k)) 16 8
      ∧ bits (s.reg (.vat d q k)) 7 0 < base + size
    let badVat := bits v 30 29 ≠ 0 ∨ 256 < base + size ∨ (v.getLsbD 31 = true ∧ (size = 0 ∨ clash))
    (¬waits → bad → Refused (.fwctlWrite d n v) s (.fwctl d n) 31)
    ∧ (¬waits → ¬bad → ∃ t, exec (.fwctlWrite d n v) s = .next t ∧ bits (t.reg (.fwctl d n)) 30 0 = bits v 30 0 ∧ t.mem = s.mem
        ∧ (old.getLsbD 4 ≠ v.getLsbD 4 → t.pendingWrites = .fwctl d n :: s.pendingWrites)
        ∧ (old.getLsbD 4 = v.getLsbD 4 → t.pendingWrites = s.pendingWrites))
    ∧ (bits (s.reg (.fwlimit d n)) 36 16 < bits (s.reg (.fwbase d n)) 36 16 → ∀ fmt, s.windowOk d n fmt = false)
    ∧ (waits → ∃ t, exec (.fwctlEnableComplete d n) s = .next t ∧ t.pendingWrites = s.pendingWrites.filter (· != CReg.fwctl d n) ∧ t.mem = s.mem
        ∧ ∀ l ∈ t.l2, isDevice l.line = true → dieOf l.line = d → l.pins = 0 → bits (s.reg (.fwbase d n)) 36 16 * 65536 ≤ offOf l.line →
            bits (s.reg (.fwbase d n)) 36 16 ≤ bits (s.reg (.fwlimit d n)) 36 16 →
            offOf l.line < (bits (s.reg (.fwlimit d n)) 36 16 + 1) * 65536 → l.sideband = none)
    ∧ (¬waits → ((s.reg (.fwctl d n)).getLsbD 4 = true ∨ bits x 63 37 ≠ 0 ∨ bits x 15 0 ≠ 0 → Refused (.fwBoundsWrite .base d n x) s (.fwctl d n) 31)
        ∧ ((s.reg (.fwctl d n)).getLsbD 4 = false → bits x 63 37 = 0 → bits x 15 0 = 0 →
            ∃ t, exec (.fwBoundsWrite .base d n x) s = .next t ∧ Becomes s t (.fwbase d n) x))
    ∧ (badVat → exec (.vaultAllocationWrite d q e v) s = .next { s with vatErrors := (d, q, e) :: s.vatErrors })
    ∧ (¬badVat → ∃ t, exec (.vaultAllocationWrite d q e v) s = .next t ∧ t.reg (.vat d q e) = v.setWidth 64
        ∧ (∀ a, t.mem.get a = if v.getLsbD 31 = true ∧ (s.reg (.vat d q e)).getLsbD 31 = false ∧ Config.vaultAddr d q (base * 65536) ≤ a
            ∧ a < Config.vaultAddr d q (base * 65536) + size * 65536 then 0 else s.mem.get a))

/-! ### Translation roots, rounds, frames and the unbacked partition -/

/-- R40, R42: a write of TRBASE enables a root in populated memory under a context that no other slot has, or is refused; the walk of a strand's
fetch ends with its leaf installed, or with the strand's fetch fault. -/
def Sys2Proof.Claims.RootsAndWalks : Prop :=
  ∀ (s s1 : State) (k : Slot) (v : W64) (n : Nat) (st : Strand) (f : AFault) (x : Place × Leaf),
    let old := s.reg (.trbase k)
    let bad := (old.getLsbD 63 = true ∧ ∃ g ∈ s.gangs, g.ctxSlot = k)
      ∨ (v.getLsbD 63 = true ∧ (s.dieValid (v.extractLsb' 37 2) = false ∨ Config.populated < bits v 36 21 * 0x200000 + 0x200000))
      ∨ (v.getLsbD 63 = true ∧ (bits v 59 48 = 0xFFF
          ∨ ∃ j, j ≠ k ∧ (s.reg (.trbase j)).getLsbD 63 = true ∧ bits (s.reg (.trbase j)) 59 48 = bits v 59 48))
      ∨ bits v 61 60 ≠ 0 ∨ bits v 47 39 ≠ 0 ∨ bits v 20 0 ≠ 0
    (bad → Refused (.trbaseWrite k v) s (.trbase k) 62)
    ∧ (¬bad → ∃ t, exec (.trbaseWrite k v) s = .next t ∧ Becomes s t (.trbase k)
        (if v.getLsbD 62 = true ∨ old.getLsbD 62 = false then v &&& ~~~((1 : W64) <<< 62) else v ||| (1 : W64) <<< 62))
    ∧ (s.strands[n]? = some st → st.state = .active → bits st.pc 63 60 = 0 ∨ bits st.pc 63 60 = 1 ∨ bits st.pc 63 60 = 4 → bits st.pc 59 57 = 0 →
        (s.translate st.fetchReq (bits st.pc 56 0) = (s1, .ok x) → exec (.walkComplete n) s = .next s1)
        ∧ (s.translate st.fetchReq (bits st.pc 56 0) = (s1, .bad f) → s1.strands = s.strands →
            exec (.walkComplete n) s = .next (s1.takeTrap n ⟨0x04, f.cls.setWidth 16, none, 0, st.pc, f.walkent⟩ st.pc (rptstateNow st))))

/-- R45, R47 to R49: a round reaches an agent, which drops its entries of the covered pages; the agent acknowledges once the accesses that used them
are performed; the round of a strand, or of the host, is complete with the last acknowledgement. Rounds of peers run in the order in which they came. -/
def Sys2Proof.Claims.RoundsRun : Prop :=
  ∀ (s : State) (r : Round) (d : Die) (a : Agent) (mark : Nat) (rest : List Agent),
    s.rounds = [r] → s.isAgent a = true →
    let cov := fun (c : BitVec 12) (v n : Nat) => match r.kind.toNat with
      | 0 => c == r.ctx && decide (v < r.vpn.toNat + r.count) && decide (r.vpn.toNat < v + n)
      | 1 => c == r.ctx
      | _ => true
    ((∀ x ∈ r.received, x.1 ≠ a) → ∃ t, exec (.invalidationRoundReceive r.id a) s = .next t
        ∧ t.rounds = [{ r with received := r.received ++ [(a, s.nextId)] }] ∧ t.mem = s.mem ∧ t.strands = s.strands
        ∧ (a = .die d →
            (∀ e ∈ t.coreTlb, e.1.die = d → ¬cov e.2.ctx (e.2.vpn.toNat * 65536 / 2 ^ levelShift e.2.level * 2 ^ (levelShift e.2.level - 16))
              (2 ^ (levelShift e.2.level - 16)) = true)
            ∧ (∀ l ∈ t.l1, l.core.die = d → ¬cov l.ctx (l.vline.toNat / 512) 1 = true)
            ∧ (∀ l ∈ t.icache, l.die = d → ¬cov l.ctx (l.vline.toNat / 512) 1 = true)))
    ∧ (r.received.find? (fun x => x.1 == a) = some (a, mark) → a ∉ r.acked → s.reqs = [] → s.peerReqs = [] → s.channels = [] →
        ∃ t, exec (.roundAgentAcknowledge r.id a) s = .next t ∧ t.rounds = [{ r with acked := r.acked ++ [a] }] ∧ t.mem = s.mem)
    ∧ (a ∈ r.acked → a ∉ r.counted → r.counted = rest →
        (rest.length + 1 < s.validDies.length + 1 ∨ r.peers ≠ [] →
          ∃ t, exec (.roundAckReceive r.id a) s = .next t ∧ t.rounds = [{ r with counted := rest ++ [a] }] ∧ t.strands = s.strands)
        ∧ (rest.length + 1 = s.validDies.length + 1 → r.peers = [] → r.by_ = .host →
          ∃ t, exec (.roundAckReceive r.id a) s = .next t ∧ t.rounds = [] ∧ (t.reg .uinva).getLsbD 63 = false
            ∧ (t.reg .uinva).getLsbD 46 = true)
        ∧ (∀ w st i, rest.length + 1 = s.validDies.length + 1 → r.peers = [] → r.by_ = .strand w → s.strands = [st] → st.who = w →
            st.park = some .round → st.state = .held → st.waiting = some i →
            ∃ t st', exec (.roundAckReceive r.id a) s = .next t ∧ t.rounds = [] ∧ t.strands = [st'] ∧ st'.state = .active
              ∧ st'.waiting = none ∧ st'.pc = st.pc + BitVec.ofNat 64 (4 * seqWords i.px)))

/-- Translation roots, walks and invalidation rounds. -/
def Obligations.TranslationAndRounds : Prop :=
  Claims.RootsAndWalks ∧ Claims.RoundsRun

/-- R50 to R55: the sweeper examines one frame at a time: an assigned frame's age is reset where it was referenced and raised where it was not; a free
frame is zeroed and pushed while the ready queue is short, unless its own entry lies in it and was not zero, so that the compare fails (R51); the
control registers are refused while the sweeper runs. A count that falls below LOW sets LOWEV. -/
def Sys2Proof.Claims.FramesAreSwept : Prop :=
  ∀ (s : State) (d : Die) (v : W64) (ptr : Bool),
    let on := (s.reg (.swctl d)).getLsbD 0 = true
    let hand := s.hands.get 0 d.toNat
    let a := Config.devAddr d (bits (s.reg (.ftbase d)) 36 16 * 65536 + hand * 8)
    let e : W64 := BitVec.ofNat 64 (s.mem.nat a 8)
    let tail := bits (s.reg (.rqptr d)) 31 0
    let count := (tail + 2 ^ 32 - bits (s.reg (.rqptr d)) 63 32) % 2 ^ 32
    let ring := Config.devAddr d (bits (s.reg (.rqbase d)) 36 12 * 4096 + tail % 2 ^ (bits (s.reg (.rqbase d)) 3 0 + 10) * 4)
    let frame := Config.devAddr d (hand * 65536)
    let age := bits e 51 49
    (on → s.partials = [] → ∃ t, exec (.sweeperExamine d) s = .next t ∧ t.hands.get 0 d.toNat = (hand + 1) % 1572864
      ∧ (bits e 47 45 = 2 → e.getLsbD 48 = true → Stored s t a (leBytes 8 (e &&& 0xFFF0FFFFFFFFFFFF).toNat))
      ∧ (bits e 47 45 = 2 → e.getLsbD 48 = false →
          Stored s t a (leBytes 8 ((e &&& 0xFFF1FFFFFFFFFFFF) ||| BitVec.ofNat 64 (min 7 (age + 1) * 2 ^ 49)).toNat))
      ∧ (bits e 47 45 = 0 → count < bits (s.reg (.swctl d)) 47 32 → (a + 8 ≤ frame ∨ frame + 65536 ≤ a) →
          bits (t.reg (.rqptr d)) 31 0 = (tail + 1) % 2 ^ 32 ∧ t.mem.nat ring 4 = hand % 2 ^ 32
          ∧ ∀ x, frame ≤ x → x < frame + 65536 → (x < a ∨ a + 8 ≤ x) → (x < ring ∨ ring + 4 ≤ x) → t.mem.get x = 0)
      ∧ (bits e 47 45 = 0 → count < bits (s.reg (.swctl d)) 47 32 → frame ≤ a → a + 8 ≤ frame + 65536 → e ≠ 0 → bits (t.reg (.rqptr d)) 31 0 = tail)
      ∧ (bits e 47 45 ≠ 2 → (bits e 47 45 = 0 → bits (s.reg (.swctl d)) 47 32 ≤ count) → t.mem = s.mem))
    ∧ (let bad := bits v 60 48 ≠ 0 ∨ bits v 7 1 ≠ 0
         ∨ (on ∧ v.getLsbD 0 = true ∧ bits v 47 8 ≠ bits (s.reg (.swctl d)) 47 8)
         ∨ (¬on ∧ v.getLsbD 0 = true ∧ (bits v 15 8 = 0 ∨ bits v 47 32 ≤ bits v 31 16 ∨ 2 ^ (bits (s.reg (.rqbase d)) 3 0 + 10) < bits v 47 32
             ∨ 6 < bits (s.reg (.rqbase d)) 3 0
             ∨ Config.populated < bits (s.reg (.rqbase d)) 36 12 * 4096 + 4 * 2 ^ (bits (s.reg (.rqbase d)) 3 0 + 10)
             ∨ Config.populated < bits (s.reg (.ftbase d)) 36 16 * 65536 + 8 * 1572864))
       (bad → Refused (.swctlWrite d v) s (.swctl d) 61)
       ∧ (¬bad → ∃ t x, exec (.swctlWrite d v) s = .next t ∧ Becomes s t (.swctl d) x ∧ bits x 47 0 = bits v 47 0))
    ∧ (on ∨ (ptr = false ∧ (bits v 63 37 ≠ 0 ∨ bits v 11 4 ≠ 0)) → Refused (.readyQueueRegisterWrite ptr d v) s (.swctl d) 61)
    ∧ (¬on → (ptr = false → bits v 63 37 = 0 ∧ bits v 11 4 = 0) →
        let r : CReg := if ptr then .rqptr d else .rqbase d
        let low := bits (s.reg (.swctl d)) 31 16
        let after := (bits v 31 0 + 2 ^ 32 - bits v 63 32) % 2 ^ 32
        ∃ t, exec (.readyQueueRegisterWrite ptr d v) s = .next t ∧ t.reg r = v ∧ (∀ q, q ≠ r → q ≠ .swctl d → t.reg q = s.reg q)
          ∧ t.reg (.swctl d) = (if ptr = true ∧ low ≤ count ∧ after < low then s.reg (.swctl d) ||| (1 : W64) <<< 63 else s.reg (.swctl d))
          ∧ t.mem = s.mem ∧ t.strands = s.strands ∧ t.gangs = s.gangs)

/-- R59, R60, R64: the unbacked partition and its reservations. Fewer pages take effect at once, more when the ways they take are empty; a
reservation is within the partition, and a shrink below what is used stays busy until pages have moved. UBSTAT's WAIT is cleared by one. -/
def Sys2Proof.Claims.PartitionsAndReservations : Prop :=
  ∀ (s : State) (d : Die) (k : Slot) (v : BitVec 32) (pages : Nat),
    let old := s.reg (.ubpart d)
    let asked := bits v 27 16
    let total := fun (but : Option Slot) => ((List.range 16).map (BitVec.ofNat 4)).foldl (fun n (j : Slot) =>
      if but = some j then n else n + bits (s.reg (.ubrsv d j)) 27 16) 0
    let badPart := bits v 30 28 ≠ 0 ∨ bits v 15 12 ≠ 0 ∨ 3072 < asked ∨ asked < total none
    let used := bits (s.reg (.ubrsv d k)) 11 0
    let badRsv := bits v 29 28 ≠ 0 ∨ bits v 15 12 ≠ 0 ∨ (s.reg (.ubrsv d k)).getLsbD 30 = true ∨ bits old 27 16 < total (some k) + asked
      ∨ ((s.reg (.trbase k)).getLsbD 63 = false ∧ asked ≠ 0)
    (badPart → Refused (.ubpartWrite d v) s (.ubpart d) 31)
    ∧ (¬badPart → asked ≤ bits old 27 16 → ∃ t, exec (.ubpartWrite d v) s = .next t ∧ bits (t.reg (.ubpart d)) 27 16 = asked ∧ t.mem = s.mem
        ∧ bits (t.reg (.ubpart d)) 11 0 = asked - (s.slots.filter (fun p => p.die == d)).length)
    ∧ (¬badPart → bits old 27 16 < asked → ∃ t, exec (.ubpartWrite d v) s = .next t ∧ (d, asked) ∈ t.resizes
        ∧ bits (t.reg (.ubpart d)) 27 16 = bits old 27 16 ∧ t.mem = s.mem)
    ∧ (s.resizes = [(d, pages)] → pages ≤ 3072 → s.partials = [] → (∀ l ∈ s.l2, l.slice / 4 = s.phys d → l.way < (pages + 255) / 256 → l.pins = 0) →
        ∃ t, exec (.ubpartResizeComplete d) s = .next t ∧ bits (t.reg (.ubpart d)) 27 16 = pages ∧ t.resizes = [] ∧ t.mem = s.mem
          ∧ ∀ l ∈ t.l2, l.slice / 4 = s.phys d → (pages + 255) / 256 ≤ l.way)
    ∧ (badRsv → Refused (.ubrsvWrite d k v) s (.ubrsv d k) 31)
    ∧ (¬badRsv → ∃ t, exec (.ubrsvWrite d k v) s = .next t ∧ bits (t.reg (.ubrsv d k)) 27 16 = asked ∧ t.mem = s.mem
        ∧ (used ≤ asked → t.moves = s.moves ∧ (t.reg (.ubrsv d k)).getLsbD 30 = false)
        ∧ (asked < used → (t.reg (.ubrsv d k)).getLsbD 30 = true))
    ∧ (bits v 30 16 ≠ 0 → Refused (.ubstatWrite d v) s (.ubpart d) 31)
    ∧ (bits v 30 16 = 0 → ∃ t, exec (.ubstatWrite d v) s = .next t
        ∧ Becomes s t (.ubstat d) (if v.getLsbD 31 then 0 else s.reg (.ubstat d) &&& 0x80000000))

/-- Format windows, vault allocations, L2 partitions and reservations. -/
def Obligations.WindowsAndReservations : Prop :=
  Claims.WindowsAndAllocations ∧ Claims.PartitionsAndReservations

/-- R63, R64: a page that waits for a frame takes the next one of the target's ready queue: its written lines are copied there and its slot is free;
with an empty queue it goes on waiting. -/
def Sys2Proof.Claims.FramesAreAssignedLate : Prop :=
  ∀ (s : State) (d f : Die) (ctx : BitVec 12) (vpn : BitVec 41) (m : PageMove) (p : PageSlot),
    let head := bits (s.reg (.rqptr f)) 63 32
    let count := (bits (s.reg (.rqptr f)) 31 0 + 2 ^ 32 - head) % 2 ^ 32
    let ring := Config.devAddr f (bits (s.reg (.rqbase f)) 36 12 * 4096 + head % 2 ^ (bits (s.reg (.rqbase f)) 3 0 + 10) * 4)
    let fr := s.mem.nat ring 4 % 2 ^ 21
    let dst := Config.devAddr f (fr * 65536)
    let leaf := Config.devAddr p.leafDie p.leafOff.toNat
    let entry := Config.devAddr f (bits (s.reg (.ftbase f)) 36 16 * 65536 + fr * 8)
    s.moves = [m] → m.die = d → m.ctx = ctx → m.vpn = vpn → m.target = f →
    s.slots.find? (fun x => x.die == d && x.ctx == ctx && x.vpn == vpn) = some p → s.reqs = [] → s.partials = [] →
    (count = 0 → ∃ t, exec (.lateFrameAssignment d ctx vpn) s = .next t ∧ t.slots = s.slots ∧ t.moves = s.moves ∧ t.mem = s.mem
        ∧ (t.reg (.ubstat f)).getLsbD 31 = true)
    ∧ (count ≠ 0 → ∃ t, exec (.lateFrameAssignment d ctx vpn) s = .next t ∧ t.moves = []
        ∧ (∀ x ∈ t.slots, ¬(x.die = d ∧ x.ctx = ctx ∧ x.vpn = vpn))
        ∧ bits (t.reg (.rqptr f)) 63 32 = (head + 1) % 2 ^ 32
        ∧ (isDevice dst = true → leaf + 8 ≤ dst ∨ dst + 65536 ≤ leaf → entry + 8 ≤ dst ∨ dst + 65536 ≤ entry →
            ∀ i < 512, p.written.getLsbD i = true → ∀ j < 128,
              t.mem.get (dst + 128 * i + j) = s.mem.get (Config.pageAddr d ctx vpn + 128 * i + j)))

/-- Page frames swept and assigned. -/
def Obligations.FramesAndSweeps : Prop :=
  Claims.FramesAreSwept ∧ Claims.FramesAreAssignedLate

/-! ### The host link -/

/-- R24, R457, R459: a host read, write or atomic of populated device memory is performed at its home and answered; one of an address that is not
populated is answered in error, counted, and touches nothing. GO of UINVA starts a round for the host. -/
def Obligations.HostAccesses : Prop :=
  ∀ (s : State) (dpa x : W64) (n : Nat) (data : List Byte) (wide : Bool) (op : BitVec 4) (v : W64),
    let a := dpa.toNat
    let fails := fun (i : Instr) (bs : List Byte) => ∃ t, exec i s = .next t ∧ t.hostOut = s.hostOut ++ [(bs, true)] ∧ t.mem = s.mem
      ∧ t.records.hosterr = satInc s.records.hosterr
    let good := fun (m : Nat) => s.dpaValid a m = true ∧ s.l2Ready a m = true ∧ s.deadDies = [] ∧ s.partials = []
    let m := if wide then 8 else 4
    let w := s.mem.nat a m
    (s.dpaValid a n = false → fails (.hostRead dpa n) (List.replicate n 0xFF))
    ∧ (good n → ∃ t, exec (.hostRead dpa n) s = .next t ∧ t.hostOut = s.hostOut ++ [(s.mem.read a n, false)] ∧ t.mem = s.mem)
    ∧ (s.dpaValid a data.length = false → fails (.hostWrite dpa data) [])
    ∧ (good data.length → ∃ t, exec (.hostWrite dpa data) s = .next t ∧ t.hostOut = s.hostOut ++ [([], false)] ∧ Stored s t a data)
    ∧ (op.toNat ≤ 9 → s.dpaValid a m = false → fails (.hostAtomic dpa wide op x) [])
    ∧ (op.toNat ≤ 9 → good m → ∃ t, exec (.hostAtomic dpa wide op x) s = .next t ∧ t.hostOut = s.hostOut ++ [(leBytes m w, false)]
        ∧ Stored s t a (leBytes m (opValue (8 * m) op w (x.toNat % 2 ^ (8 * m)))))
    ∧ (let count := bits (s.reg .uinvb) 20 0
       let kind : BitVec 2 := v.extractLsb' 60 2
       let bad := (s.reg .uinva).getLsbD 63 = true ∨ bits v 45 41 ≠ 0
         ∨ (v.getLsbD 63 = true ∧ (kind = 3 ∨ (kind = 0 ∧ (count = 0 ∨ 2 ^ 20 < count))))
       (bad → Refused (.uinvaWrite v) s .uinva 62)
       ∧ (¬bad → v.getLsbD 63 = true → ∃ t peers, exec (.uinvaWrite v) s = .next t ∧ (t.reg .uinva).getLsbD 63 = true
           ∧ t.rounds = s.rounds ++ [{ id := s.nextId, by_ := .host, kind := kind, ctx := v.extractLsb' 47 12, vpn := v.extractLsb' 0 41
                                       count := count, pod := v.getLsbD 59, received := [], acked := [], counted := [], peers := peers }]
           ∧ (v.getLsbD 59 = false → peers = [])))

/-! ### The copy engines -/

namespace Sys2Proof.Claims

/-- The channel's segment `n` is in a state, and holds no place of a translation. -/
def segIs (c : Channel) (n : Nat) (x : CopySeg) (st : SegState) : Channel :=
  { c with segs := c.segs.set n { x with state := st, src := none, dest := none, got := [] } }

/-- A channel whose packet has failed with a code: the segments that have not begun are given up (R119). -/
def failed (c : Channel) (code : Nat) : Channel :=
  { c with
    code := code
    segs := c.segs.map (fun y => match y.state with
      | .todo | .checked _ => { y with state := .done, void := true, src := none, dest := none }
      | _ => y) }

/-- `i` at `s` halts the queue of the failed channel `c` from the state `u` (R119): the code and the index are recorded in its ring header and HALT is
set; a fault on the header that is posted is waited for, and another sets HDRF too. `last` is what else becomes of the channel. -/
def Halts (i : Instr) (s u : State) (c : Channel) (last : Channel → Channel) : Prop :=
  ∀ (v : State) (r : Step1), ({ u with channels := [c] } : State).haltRecord c.haltKey (c.xreq .write) c.header c.code c.index.toNat = (v, r) →
    v.channels = [c] →
    let halted := fun (t : State) => t.channels = [last { c with halted := true }] ∧ (t.reg (.cqctl c.die c.queue)).getLsbD 30 = true ∧ t.mem = v.mem
    (∀ b, r = .ok b → ∃ t, exec i s = .next t ∧ halted t)
    ∧ (∀ f, r = .bad f → f.posts = false → ∃ t, exec i s = .next t ∧ halted t ∧ (t.reg (.cqctl c.die c.queue)).getLsbD 29 = true)
    ∧ (∀ f, r = .bad f → f.posts = true → ∃ t k, exec i s = .next t ∧ t.channels = [last { c with post := some k, postFor := 3 }]
        ∧ ∃ y ∈ t.posts, y.id = k ∧ y.cls = f.cls ∧ y.addr = c.header)

end Sys2Proof.Claims

/-- R106 to R108: the queue registers, and an engine that takes the entry at ACQUIRE of an enabled queue when its tag is published: ACQUIRE counts on,
and the packet is on the lowest free channel; a monitor is armed on the tag of an entry that is not published. -/
def Sys2Proof.Claims.CopyEntriesAreTaken : Prop :=
  ∀ (die : Die) (n : BitVec 6) (v : BitVec 32) (s s1 s2 s3 s4 : State) (x : Nat) (far : Bool) (head tag pkt : List Byte) (r : Ring),
    let old := s.reg (.cqctl die n)
    let ctx : BitVec 12 := old.extractLsb' 14 12
    let slots := (List.range 16).map (BitVec.ofNat 4)
    let key := AgentKey.copyQueue die n
    let q := s.cqReq die n .read
    let header : W64 := BitVec.ofNat 64 (bits (s.reg (.cqhdr die n)) 56 6 * 64)
    let held := s.channels.filter (fun c => c.die == die && c.queue == n)
    let refused := bits v 28 26 ≠ 0 ∨ bits v 9 1 ≠ 0 ∨ (old.getLsbD 0 = true ∧ v.getLsbD 0 = true ∧ bits v 25 10 ≠ bits old 25 10)
      ∨ (v.getLsbD 0 = true ∧ old.getLsbD 0 = false
          ∧ ∀ k ∈ slots, ¬((s.reg (.trbase k)).getLsbD 63 = true ∧ bits (s.reg (.trbase k)) 59 48 = bits v 25 14))
    (s.pendingWrites.contains (.cqctl die n) = false →
      (refused → Refused (.cqctlWrite die n v) s (.cqctl die n) 31)
      ∧ (¬refused → s.agentBusy key = false → ∃ t, exec (.cqctlWrite die n v) s = .next t ∧ bits (t.reg (.cqctl die n)) 25 0 = bits v 25 0
          ∧ (v.getLsbD 30 = true → bits (t.reg (.cqctl die n)) 30 29 = 0) ∧ t.mem = s.mem
          ∧ (old.getLsbD 0 = true → v.getLsbD 0 = false → (∃ c ∈ held, c.complete = false) → t.pendingWrites = s.pendingWrites ++ [.cqctl die n])))
    ∧ ((∀ c ∈ held, c.complete = true) → s.agentBusy key = false →
        ∃ t, exec (.cqDisableComplete die n) s = .next t ∧ t.pendingWrites = s.pendingWrites.filter (· != .cqctl die n) ∧ t.mem = s.mem)
    ∧ (s.dieValid die = true → old.getLsbD 0 = true → old.getLsbD 30 = false → s.channels = [] → s.queueWaits = [] → s.armed = [] →
        (s.workFor ctx none die).agent key q none header 64 (.read 64) 64 = (s1, .ok head) →
        ringOf 0 head = some r → r.cq = true → r.logsz = 6 → r.logn ≤ 16 →
        let entry := r.acquire % 2 ^ r.logn
        s1.agent key q none (r.tags + BitVec.ofNat 64 (entry * 4)) 4 (.read 4) 4 = (s2, .ok tag) → s1.regs = s.regs → s2.regs = s.regs →
        (leNat tag ≠ (r.acquire % 2 ^ 32 + 1) % 2 ^ 32 →
          exec (.copyEntryTake die n) s
            = .next ((s2.endScript key).armAgent key q (r.tags + BitVec.ofNat 64 (entry * 4)) false 1 (BitVec.ofNat 64 (leNat tag))))
        ∧ (leNat tag = (r.acquire % 2 ^ 32 + 1) % 2 ^ 32 →
            s2.agent key q none (r.base + BitVec.ofNat 64 (entry * 2 ^ r.logsz)) 64 (.read 64) 64 = (s3, .ok pkt) →
            s3.regs = s.regs → s3.route { q with kind := .write } none (header + 8) 8 = (s4, .ok (.mem x, far)) → s4.channels = [] → s4.partials = [] →
            ∃ t c, exec (.copyEntryTake die n) s = .next t ∧ t.channels = [c] ∧ c.die = die ∧ c.ch = 0 ∧ c.queue = n
              ∧ c.index = BitVec.ofNat 64 r.acquire ∧ c.packet = pkt ∧ c.started = false ∧ c.code = 0
              ∧ Stored s4 t x (leBytes 8 (r.acquire + 1))))

/-- R109, R110, R113, R119: a packet that breaks a check of code 1 or 2 halts its queue; another starts with its segments; when all of them are done its
notification adds 1 to its word, and the entry is complete: marked in its batch, and released in index order. -/
def Sys2Proof.Claims.CopyPacketsStartAndEnd : Prop :=
  ∀ (die : Die) (ch : BitVec 4) (s0 s1 s2 : State) (c : Channel) (adr : Nat) (far : Bool) (b1 b2 : List Byte),
    let p := copyPacket c.packet
    let s := s0.paidByChannel c
    let marked : State := { s with
      channels := [{ c with complete := true }]
      strands := s.strands.map (fun st => st.markBatch die c.queue c.index false)
      launches := s.launches.map (fun l => { l with waits := l.waits.filter (fun w => w != (die, c.queue, c.index)) }) }
    s0.channels = [c] → c.die = die → c.ch = ch → c.post = none → c.complete = false →
    (c.started = false → c.code = 0 → c.halted = false → c.segs = [] → s0.armed = [] →
      (p.code1 = true → Halts (.copyPacketStart die ch) s0 s (failed c 1) id)
      ∧ (p.code1 = false → p.code2 c.by_.isSome = true → Halts (.copyPacketStart die ch) s0 s (failed c 2) id)
      ∧ (p.code1 = false → p.code2 c.by_.isSome = false → p.ring = false → p.kind ≠ 5 →
          ∃ t, exec (.copyPacketStart die ch) s0 = .next t ∧ t.mem = s0.mem
            ∧ t.channels = [{ c with started := true, dst := p.dst, segs := p.segments p.dst }]))
    ∧ (c.started = true → c.code = 0 → (∀ y ∈ c.segs, y.state = .done) → s0.peerReqs = [] → p.kind ≠ 5 ∨ c.applied = true →
      (c.published = false → c.ring = none → (∀ y ∈ c.segs, (List.range y.len).all (fun i => !c.readsByte p (flatKey (p.dstAt c.dst y.row y.off) + i)) = true) →
        ∃ t, exec (.copyPacketComplete die ch) s0 = .next t ∧ t.channels = [{ c with published := true }] ∧ t.mem = s0.mem)
      ∧ (c.published = true → c.notified = false → p.ntf = 1 → p.notify.toNat % 8 = 0 → c.by_.isSome = true → s.vaultHeld c p.notify = false →
          s.route (c.xreq .write) (s.channelGang c) p.notify 8 = (s1, .ok (.mem adr, far)) → s1.channels = [c] → s1.partials = [] →
          ∃ t, exec (.copyPacketComplete die ch) s0 = .next t ∧ t.channels = [{ c with notified := true }]
            ∧ Stored s1 t adr (leBytes 8 ((s1.mem.nat adr 8 + 1) % 2 ^ 64)))
      ∧ (c.published = true → c.notified = true → (s.reg (.cqctl die c.queue)).getLsbD 29 = false →
          marked.agent c.key (c.xreq .read) none (c.header + 16) 8 (.read 8) 8 = (s1, .ok b1) → leNat b1 = c.index.toNat →
          s1.agent c.key (c.xreq .write) none (c.header + 16) 8 (.write (leBytes 8 (c.index.toNat + 1))) 8 = (s2, .ok b2) →
          s2.channels = marked.channels → s2.strands = marked.strands → (∀ st ∈ s.strands, st.park ≠ some .cwait) →
          ∃ t, exec (.copyPacketComplete die ch) s0 = .next t ∧ t.channels = [] ∧ t.mem = s2.mem
            ∧ t.strands.length = s.strands.length
            ∧ ∀ st ∈ t.strands, ∀ e ∈ st.openBatch.entries, e.die = die → e.queue = c.queue → e.index.toNat = c.index.toNat → e.done = true))

/-- R104, R110, R117, R118: a segment whose places are known moves its bytes and no others; a fault that is posted sets it aside, another fails the
packet with code 3; an unfixable answer fails it too, and after a fix the segment is issued again. -/
def Sys2Proof.Claims.CopySegmentsMove : Prop :=
  ∀ (die : Die) (ch : BitVec 4) (n k b : Nat) (s0 s1 : State) (c : Channel) (x : CopySeg) (src : Option (Nat × Bool)) (far : Bool) (f : AFault)
    (a : W64) (q : Post),
    let p := copyPacket c.packet
    let s := s0.paidByChannel c
    let bytes := fun (u : State) => (List.range x.len).map (fun i =>
      let j := x.off + i
      match src with
      | some (y, _) => if x.from_ ≤ j ∧ j < x.from_ + x.sourced then u.mem.get (y + (j - x.from_)) else if p.kind = 2 then p.args.getD (j % 4) 0 else 0
      | none => if p.kind = 2 then p.args.getD (j % 4) 0 else 0)
    let place := (src.map (fun y => (Place.mem y.1, y.2)), ((Place.mem b, far) : Place × Bool))
    let apart := ∀ i < x.len, c.readsByte p (flatKey (p.dstAt c.dst x.row x.off) + i) = false
    s0.channels = [c] → c.die = die → c.ch = ch → c.started = true → c.code = 0 → c.segs[n]? = some x → p.kind ≠ 3 → p.kind ≠ 6 →
    s.segHeld c p x = false → c.stuck = false → c.post = none → c.halted = false →
    (x.state = .todo → x.dest = none →
      (s.segPlaces c p x = (s1, .ok place, a) → apart → s1.channels = [c] → s1.partials = [] → s1.l2Ready b x.len = true →
        (∀ y, src = some y → s1.l2Ready y.1 x.len = true) →
        ∃ t, exec (.copySegment die ch n) s0 = .next t ∧ t.channels = [segIs c n x .done] ∧ Stored s1 t b (bytes s1))
      ∧ (s.segPlaces c p x = (s1, .bad f, a) → f.posts = true → s1.channels = [c] → s1.copyFixups die < 64 →
        ∃ t id, exec (.copySegment die ch n) s0 = .next t ∧ t.channels = [segIs c n x (.posted id)] ∧ ∃ y ∈ t.posts, y.id = id ∧ y.addr = a
          ∧ y.cls = f.cls)
      ∧ (s.segPlaces c p x = (s1, .bad f, a) → f.posts = false → s1.channels = [c] → Halts (.copySegment die ch n) s0 s1 (failed c 3) id))
    ∧ (x.state = .posted k → c.segs = [x] → s.posts = [q] → q.id = k → n = 0 →
      (q.state = .unfixable → Halts (.copyFixupReplay die ch) s0 (s.dropPost k) (failed c 3) (fun y => { y with
        segs := [{ x with state := .done, void := true, src := none, dest := none, got := [] }] }))
      ∧ (q.state = .fixed →
          let c1 := segIs c 0 x .todo
          ({ s.dropPost k with channels := [c1] } : State).segPlaces c1 p x = (s1, .ok place, a) → apart → s1.channels = [c1] →
          s1.partials = [] → s1.l2Ready b x.len = true → (∀ y, src = some y → s1.l2Ready y.1 x.len = true) →
          ∃ t, exec (.copyFixupReplay die ch) s0 = .next t ∧ t.channels = [segIs c 0 x .done] ∧ Stored s1 t b (bytes s1)))

/-- R112, R310, R436: a COPYMMA packet whose copy is done and published enters its command in the table of the quad that holds its gang, or fails with
code 7; the ANSWER word of a posting reaches the engine that posted it, which watches the word until then. -/
def Sys2Proof.Claims.CopyCommandsAndAnswers : Prop :=
  ∀ (die : Die) (ch : BitVec 4) (q : Quad) (s0 : State) (c : Channel) (g : Gang) (tile e : Nat) (x : Post),
    let s := s0.paidByChannel c
    let p := copyPacket c.packet
    let side := p.mcw.getLsbD 3
    let entry : MxEntry := {
      id := 0, die := g.die, quad := g.quad, who := none, chan := some c.id
      via := if bits c.dst 63 60 = 2 ∨ bits c.dst 63 60 = 3 then c.by_.map (fun w => (if side then 1 else 0, w.gang)) else none
      core := ⟨g.die, g.quad, 0⟩, ctx := c.ctx, slot := c.slot
      gang := g.gang, tile := tile, kind := .mma, mcw := p.mcw, opa := if side then p.other else c.dst, opb := if side then c.dst else p.other
      lanes := 0, rows := [], segs := [], held := [], pins := [], code := 0, aged := false, frozen := false, readyAt := none }
    (s0.channels = [c] → c.die = die → c.ch = ch → p.kind = 5 → c.code = 0 → c.started = true → (∀ y ∈ c.segs, y.state = .done) → c.command = none →
      c.post = none → c.published = true → s.findGang c.ctx p.gang = some g → g.frozen = false → s.mxRoom g.die g.quad = true →
      g.kernel.matrix = true → g.tileOf (mcwAcc p.mcw) = some tile →
      (s.entryCheck (some g) entry = none →
        ∃ t, exec (.copymmaCommandIssue die ch) s0 = .next t ∧ t.channels = [{ c with command := some s.nextId }] ∧ t.mem = s.mem
          ∧ ∃ y ∈ t.mxEntries, y.id = s.nextId ∧ y.opa = entry.opa ∧ y.opb = entry.opb ∧ y.via = entry.via ∧ y.tile = tile ∧ y.mcw = p.mcw
            ∧ y.chan = some c.id)
      ∧ (s.entryCheck (some g) entry ≠ none → c.halted = false → Halts (.copymmaCommandIssue die ch) s0 s (failed c 7) id))
    ∧ (s0.posts = [x] → x.die = die → x.quad = q → x.state = .pending e → x.code < 1536 →
      (s0.fixUsable die q = false → exec (.fixupAnswer die q 0) s0 = .next { s0.disarm x.waiter with posts := [{ x with state := .unfixable }] })
      ∧ (s0.fixUsable die q = true →
        (s0.isArmed x.waiter = true → exec (.fixupAnswer die q 0) s0 = .next s0)
        ∧ (s0.isArmed x.waiter = false → s0.partials = [] → s0.mem.nat e 4 ≠ 0 → ∃ t, exec (.fixupAnswer die q 0) s0 = .next t ∧ t.mem = s0.mem
            ∧ t.posts = [{ x with state := if s0.mem.nat e 4 = 1 then .fixed else .unfixable }])
        ∧ (s0.isArmed x.waiter = false → s0.partials = [] → s0.mem.nat e 4 = 0 →
            exec (.fixupAnswer die q 0) s0 = .next ((s0.homeNat e 4).1.armAt x.waiter 0 (.mem e) false 1 0))))

/-- The copy engine, from its ring entries to its packets and their answers. -/
def Obligations.CopyEngine : Prop :=
  Claims.CopyEntriesAreTaken ∧ Claims.CopyPacketsStartAndEnd ∧ Claims.CopySegmentsMove ∧ Claims.CopyCommandsAndAnswers
/-! ### Launches, budgets and scheduling -/

namespace Sys2Proof.Claims

/-- A launch entry in hand, with the status its signal carries, if it is refused or a NOP, and whether only its release is left. -/
def entryInHand (n : BitVec 6) (ctx : BitVec 12) (slot : Slot) (header : W64) (index : Nat) (p : List Byte) (status : Option Nat) (finished : Bool) :
    LaunchTaken :=
  { queue := n, ctx := ctx, slot := slot, header := header, index := index, packet := p, post := none, unfixable := 0, status := status, finished := finished }

/-- Executing `i` at `s` ends with the release of the entry in hand `x` from the state `u` (R389): ACQUIRE and then RELEASE of its ring are moved past
it, where they lie in this package's memory, and the entry is in hand no more. -/
def Releases (i : Instr) (s u : State) (x : LaunchTaken) : Prop :=
  ∀ (v w : State) (a b : Nat) (f g : Bool),
    let q := u.agentReq x.ctx x.slot .write
    let next := leBytes 8 (x.index + 1)
    let u1 : State := { u.endScript (.launchQueue x.queue) with taken := [x] }
    (u.reg (.lqctl x.queue)).getLsbD 27 = false → u1.route q none (x.header + 8) 8 = (v, .ok (.mem a, f)) →
    (v.homeWrite a next).route q none (x.header + 16) 8 = (w, .ok (.mem b, g)) → w.partials = [] →
    ∃ t, exec i s = .next t ∧ t.taken = [] ∧ t.launches = u.launches ∧ t.lbars = u.lbars ∧ Stored w t b next

end Sys2Proof.Claims

/-- R389 to R393, R398: the launch queue registers, and an agent that takes the published entry at ACQUIRE. A malformed packet and a NOP end at once,
and a launch whose structures are good is in the table with the lowest free run of gang numbers; the entry is released in either case. A monitor is
armed on the tag of an entry that is not published. -/
def Sys2Proof.Claims.LaunchEntriesAreTaken : Prop :=
  ∀ (n : BitVec 6) (v : BitVec 32) (s s1 s2 s3 s4 s5 : State) (base : Nat) (r : Ring) (head tag p : List Byte) (k : Kernel) (roles : List W64),
    let old := s.reg (.lqctl n)
    let slots := (List.range 16).map (BitVec.ofNat 4)
    let ctx : BitVec 12 := old.extractLsb' 14 12
    let key := AgentKey.launchQueue n
    let q := s.lqReq n .read
    let header : W64 := BitVec.ofNat 64 (bits (s.reg (.lqhdr n)) 56 6 * 64)
    let i := r.acquire
    let hand := entryInHand n ctx q.slot header i p
    let refused := v.getLsbD 26 = true ∨ bits v 13 1 ≠ 0
      ∨ (old.getLsbD 0 = true ∧ v.getLsbD 0 = true ∧ (bits v 25 14 ≠ bits old 25 14 ∨ v.getLsbD 28 ≠ old.getLsbD 28))
      ∨ (v.getLsbD 0 = true ∧ old.getLsbD 0 = false
          ∧ ∀ k ∈ slots, ¬((s.reg (.trbase k)).getLsbD 63 = true ∧ bits (s.reg (.trbase k)) 59 48 = bits v 25 14))
    (s.pendingWrites.contains (.lqctl n) = false →
      (refused → Refused (.lqctlWrite n v) s (.lqctl n) 31)
      ∧ (¬refused → s.agentBusy key = false → ∃ t, exec (.lqctlWrite n v) s = .next t ∧ bits (t.reg (.lqctl n)) 28 28 = bits v 28 28 ∧ t.mem = s.mem
          ∧ bits (t.reg (.lqctl n)) 25 0 = bits v 25 0
          ∧ (old.getLsbD 0 = true → v.getLsbD 0 = false → (∃ x ∈ s.taken, x.queue = n) → t.pendingWrites = s.pendingWrites ++ [.lqctl n])))
    ∧ (s.validDies ≠ [] → old.getLsbD 0 = true → old.getLsbD 30 = false → s.launches.length < 256 → s.queueWaits = [] → s.armed = [] → s.taken = [] →
        (s.workFor ctx none s.agentDie).agent key q none header 64 (.read 64) 64 = (s1, .ok head) → s1.regs = s.regs →
        ringOf 0 head = some r → r.cq = false → r.logsz = 6 → r.logn ≤ 16 →
        s1.agent key q none (r.tags + BitVec.ofNat 64 (i % 2 ^ r.logn * 4)) 4 (.read 4) 4 = (s2, .ok tag) → s2.regs = s.regs →
        (leNat tag ≠ (i % 2 ^ 32 + 1) % 2 ^ 32 → s2.taken = [] → ∃ t, exec (.launchEntryTake n) s = .next t ∧ t.taken = [] ∧
          t = (s2.endScript key).armAgent key q (r.tags + BitVec.ofNat 64 (i % 2 ^ r.logn * 4)) false 1 (BitVec.ofNat 64 (leNat tag)))
        ∧ (leNat tag = (i % 2 ^ 32 + 1) % 2 ^ 32 →
          s2.agent key q none (r.base + BitVec.ofNat 64 (i % 2 ^ r.logn * 2 ^ r.logsz)) 64 (.read 64) 64 = (s3, .ok p) →
          s3.regs = s.regs → s3.taken = [] →
          let u : State := { s3.endScript key with taken := [hand none false] }
          (u.launchBad p = true → lpSignal p = 0 → Releases (.launchEntryTake n) s u (hand (some 1) true))
          ∧ (u.launchBad p = false → lpKind p = 0 → lpSignal p = 0 → Releases (.launchEntryTake n) s u (hand (some 0) true))
          ∧ (u.launchBad p = false → lpKind p = 1 → launchStructures key (u.agentReq ctx q.slot .read) p u = (s4, .ok k roles []) →
            s4.taken = u.taken → s4.accept (hand none false) k roles [] = some s5 → Releases (.launchEntryTake n) s s5 (hand none true))))
    ∧ (s4.lowestBase ctx (bits (lpGangs p) 23 0) = some base → s4.launches.length < 256 → s4.lbars.length < 64 →
        ∃ t l, s4.accept (hand none false) k roles [] = some t ∧ t.launches = s4.launches ++ [l] ∧ l.ticket = s4.ticketNext
          ∧ t.ticketNext = s4.ticketNext + 1 ∧ l.queue = n ∧ l.ctx = ctx ∧ l.packet = p ∧ l.kernel = k ∧ l.n = bits (lpGangs p) 23 0 ∧ l.next = 0
          ∧ l.base = base ∧ l.status = 0
          ∧ t.lbars = (if k.lbar = true then s4.lbars ++ [(s4.ticketNext, ⟨0, 0, 0⟩)] else s4.lbars))

/-- R378 to R380, R384, R395, R396: the next gang of a launch is placed on a quad of an allowed die where it fits: its strands wait for admission
at the kernel's entry. The gangs of a co-resident launch are placed together, or the launch is refused. -/
def Sys2Proof.Claims.GangsArePlaced : Prop :=
  ∀ (s : State) (l : Launch) (d : Die) (q : Quad) (cs : List (BitVec 2)) (vault : Option (BitVec 5 × Nat)) (rest : List Die),
    let placed := fun (t : State) (d : Die) (q : Quad) (cs : List (BitVec 2)) => ∃ g fresh, t.gangs = s.gangs ++ [g] ∧ t.strands = s.strands ++ fresh
      ∧ g.ctx = l.ctx ∧ g.gang = BitVec.ofNat 24 ((l.base + l.next) % 0xFFFFFF) ∧ g.ticket = l.ticket ∧ g.die = d ∧ g.quad = q ∧ g.cores = cs
      ∧ g.kernel = l.kernel ∧ g.frozen = false ∧ g.gangBar = ⟨l.kernel.strands * l.kernel.wgs, 0, 0⟩
      ∧ (∀ st ∈ fresh, st.who.ctx = l.ctx ∧ st.who.gang = g.gang ∧ st.state = .waiting ∧ st.pc = l.kernel.header + BitVec.ofNat 64 l.kernel.entry
          ∧ st.allotment = l.kernel.vregs ∧ st.live = BitVec.allOnes 32 ∧ st.core.die = d ∧ st.core.quad = q ∧ st.core.core ∈ cs
          ∧ st.sr.mode = .user ∧ ∀ r j, st.lane r j = 0)
    let budget := (s.exhausted l.queue) = false ∧ ¬((s.reg (.lqctl l.queue)).getLsbD 29 = true ∧ (s.reg (.lqctl l.queue)).getLsbD 28 = true)
    s.launches = [l] → l.next < l.n → l.nodes = [] → l.closing = none →
    (l.kernel.lbar = false → budget → s.dieValid d = true → ⟨d, q, 0⟩ ∉ s.stopped → lpAff l.packet = 0 → d ∈ s.launchDies l.packet →
      s.betterDie l d = false → l.lastOn = [] → s.fits l.slot l.ctx d q l.kernel = some (cs, vault) →
      ∃ t, exec (.gangPlacement d q) s = .next t ∧ placed t d q cs ∧ t.launches.map (·.next) = [l.next + 1])
    ∧ (l.kernel.lbar = true → budget → lpAff l.packet = 0 → l.ctx ∉ s.ctxHeld →
      (l.n = 1 → s.launchDies l.packet = d :: rest → s.fits l.slot l.ctx d 0 l.kernel = some (cs, vault) →
        ∃ t, exec (.coResidentPlacement l.ticket) s = .next t ∧ placed t d 0 cs ∧ t.launches.map (·.next) = [1])
      ∧ ((∀ e ∈ s.launchDies l.packet, ∀ q, s.fits l.slot l.ctx e q l.kernel = none) → lpSignal l.packet = 0 →
        ∃ t, exec (.coResidentPlacement l.ticket) s = .next t ∧ t.launches = [] ∧ t.gangs = s.gangs ∧ t.strands = s.strands ∧ t.mem = s.mem))

/-- R387, R398: a gang whose strands have all ended retires: its strands, its number, its vault run and its counters are free, and its launch counts
it; a launch all of whose gangs have retired leaves the table with its signal, which adds 1 and its status to the signal word. -/
def Sys2Proof.Claims.GangsRetireAndLaunchesEnd : Prop :=
  ∀ (s s1 : State) (g : Gang) (l : Launch) (adr : Nat) (far : Bool),
    let mine := fun (w : Who) => w.ctx = g.ctx ∧ w.gang = g.gang
    (s.gangs = [g] → s.launches = [l] → l.ticket = g.ticket → g.isNode = false → lpRel l.packet = false → g.frozen = false →
      (∀ st ∈ s.strands, mine st.who → st.state = .ended) → (∀ e ∈ s.mxEntries, ¬(e.ctx = g.ctx ∧ e.gang = g.gang)) →
      (∀ o ∈ s.twills, ¬mine o.who) → s.vaultPackets g = false → s.reqs = [] →
      ∃ t, exec (.gangRetirement g.ctx g.gang) s = .next t ∧ t.gangs = [] ∧ (∀ st ∈ t.strands, ¬mine st.who ∧ st ∈ s.strands)
        ∧ (∀ st ∈ s.strands, ¬mine st.who → st ∈ t.strands) ∧ t.launches = [{ l with retired := l.retired + 1 }] ∧ t.mem = s.mem
        ∧ (∀ n, g.vat = some n → t.reg (.vat g.die g.quad n) = 0))
    ∧ (s.launches = [l] → s.rootOf l.slot l.ctx ≠ none → l.n ≤ l.next → (∀ g ∈ s.gangs, g.ticket ≠ l.ticket) → s.swapped = [] → l.nodeGangs = 0 →
      (∀ x ∈ l.nodes, x.appended ≤ x.taken) → l.waits = [] → s.peerReqs = [] → l.closing = none → s.scripts = [] →
      (lpSignal l.packet = 0 → ∃ t, exec (.launchCompletion l.ticket) s = .next t ∧ t.launches = [] ∧ t.mem = s.mem
          ∧ ∀ e ∈ t.lbars, e.1 ≠ l.ticket)
      ∧ (lpSignal l.packet ≠ 0 → lpAddrBad (lpSignal l.packet) 8 = false →
          s.route (s.agentReq l.ctx l.slot .write) none (lpSignal l.packet) 8 = (s1, .ok (.mem adr, far)) → s1.launches = [l] → s1.partials = [] →
          ∃ t, exec (.launchCompletion l.ticket) s = .next t ∧ t.launches = []
            ∧ Stored s1 t adr (leBytes 8 ((s1.mem.nat adr 8 + 1 + l.status * 2 ^ 32) % 2 ^ 64))))

/-- Launch entries taken, gangs placed and retired. -/
def Obligations.LaunchesAndGangs : Prop :=
  Claims.LaunchEntriesAreTaken ∧ Claims.GangsArePlaced ∧ Claims.GangsRetireAndLaunchesEnd

/-- R394, R401 to R403: a charge is subtracted from its queue's budget, whose strands are held once it is gone; a refill adds its amount up to twice
of it; a die's headroom is its limit less its charge rate (how the rate rounds is left open: log entry 42); a node's timer makes its records due. -/
def Sys2Proof.Claims.BudgetsAndHeadroom : Prop :=
  ∀ (s : State) (n k : Nat) (c : Charge) (q : BitVec 6) (d : Die) (l : Launch) (x : Node) (node : BitVec 12),
    let left := (s.reg (.lqbud c.queue)).toInt - c.amount
    let enforced := fun (q : BitVec 6) => (s.reg (.lqctl q)).getLsbD 28 = true
    let amount : Int := (bits (s.reg (.lqref q)) 47 0 : Nat) * 1000000
    (s.charges[n]? = some c → -2 ^ 63 ≤ left → ∃ t, exec (.jouleCharge n) s = .next t ∧ (t.reg (.lqbud c.queue)).toInt = left
        ∧ t.charges = s.charges.eraseIdx n ∧ t.mem = s.mem
        ∧ (enforced c.queue → left ≤ 0 → (t.reg (.lqctl c.queue)).getLsbD 29 = true
            ∧ ∀ (i : Nat) (st : Strand), s.strands[i]? = some st → st.state = .active → s.queueOf st = some c.queue →
                ∃ st' : Strand, t.strands[i]? = some st' ∧ st'.state = .waiting)
        ∧ ((¬enforced c.queue ∨ 0 < left) → t.strands = s.strands))
    ∧ (bits (s.reg (.lqref q)) 63 48 = 0 → exec (.budgetRefill q) s = .next s)
    ∧ (bits (s.reg (.lqref q)) 63 48 ≠ 0 → amount < 2 ^ 62 → ∃ t, exec (.budgetRefill q) s = .next t ∧ t.mem = s.mem
        ∧ (t.reg (.lqbud q)).toInt = min ((s.reg (.lqbud q)).toInt + amount) (2 * amount)
        ∧ t.cycle = max s.cycle (s.refills.get 0 q.toNat + bits (s.reg (.lqref q)) 63 48 * 1000 * s.clock / 20))
    ∧ (s.dieValid d = true → ∃ t, exec (.headPublish d) s = .next t ∧ t.cycle = max s.cycle (s.headAt.get 0 d.toNat + 1000)
        ∧ t.dieCharges.get 0 d.toNat = 0 ∧ t.mem = s.mem ∧ t.strands = s.strands
        ∧ (let num := s.dieCharges.get 0 d.toNat * s.clock
           let limit := bits (s.reg (.head d)) 31 16
           bits (t.reg (.head d)) 15 0 = limit - num / 5000000000 ∨ bits (t.reg (.head d)) 15 0 = limit - (num + 4999999999) / 5000000000))
    ∧ (s.launches = [l] → l.nodes = [x] → node = 0 → x.taken < x.appended → k = max s.cycle (x.firstAt + x.timer * 500 * s.clock / 20) →
        exec (.nodeTimerExpiry l.ticket node) s = .next { s with cycle := k, launches := [{ l with nodes := [{ x with due := true }] }] })

/-- R405 to R412: at the end of an epoch a core's budget follows its losses; the oldest waiting strand that fits is admitted; a strand that has waited
32,768 cycles and does not fit has the strand admitted last dropped for it. -/
def Sys2Proof.Claims.StrandsAreScheduled : Prop :=
  ∀ (s : State) (c : CoreId) (i : Nat) (st a w : Strand),
    let budget := coreGet s.budgets 2048 c
    let losses := coreGet s.losses 0 c
    let threshold := (coreGet s.thresholds 256 c).toNat
    (∃ t, exec (.epochEnd c) s = .next t ∧ t.cycle = max s.cycle ((coreGet s.epochs 0 c + 1) * 4096) ∧ t.mem = s.mem
        ∧ coreGet t.losses 0 c = 0 ∧ t.strands.length = s.strands.length
        ∧ (threshold < losses → coreGet t.budgets 2048 c = max (budget - budget / 4) 256)
        ∧ (losses ≤ threshold / 4 → coreGet t.budgets 2048 c = min (budget + 128) 2048)
        ∧ (threshold / 4 < losses → losses ≤ threshold → coreGet t.budgets 2048 c = budget))
    ∧ (s.nextAdmission c = some i → s.strands[i]? = some st →
        (∃ t, exec (.strandAdmission c) s = .next t ∧ t.mem = s.mem ∧ t.admissions = s.admissions + 1
          ∧ t.strands = s.strands.set i { st with state := .active, admission := st.admission + 1, order := s.admissions + 1, issueSince := s.cycle, spell := s.nextId
                                                  leaseSeen := true, leasePeak := max st.leasePeak (s.measured st) })
        ∧ st.core = c ∧ st.state = .waiting ∧ s.fitsActive st = true
        ∧ ∀ (j : Nat) (x : Strand), s.strands[j]? = some x → x.core = c → x.state = .waiting → s.budgetHeld x = false → s.staggered x = false → s.fitsActive x = true →
            st.waitSince < x.waitSince ∨ (st.waitSince = x.waitSince ∧ st.slot ≤ x.slot))
    ∧ (s.strands = [a, w] → a.core = c → w.core = c → a.isFirmware = false → w.isFirmware = false → a.state = .active → w.state = .waiting →
        s.budgetHeld w = false → s.staggered w = false → budget < a.leaseLines + w.leaseLines →
        ∃ t, exec (.forcedRotation c) s = .next t ∧ t.cycle = max s.cycle (w.waitSince + 32768) ∧ t.mem = s.mem
          ∧ t.strands = [{ a with state := .waiting, waitSince := max s.cycle (w.waitSince + 32768) }, w])

/-- Budgets, headroom, and which strand runs. -/
def Obligations.BudgetsAndScheduling : Prop :=
  Claims.BudgetsAndHeadroom ∧ Claims.StrandsAreScheduled

/-! ### Context commands -/

namespace Sys2Proof.Claims

/-- A context command is under way (R438): its number, the context of its slot, and its gang; nothing of it has ended or waits for an answer. -/
def Commanded (s : State) (op : Nat) (ctx : BitVec 12) (slot : Slot) (gang : BitVec 24) : Prop :=
  (∃ kind, s.ctxRun = some ⟨none, none, kind⟩) ∧ bits (s.reg .ctxcmd) 59 56 = op ∧ bits (s.reg .ctxcmd) 55 52 = slot.toNat
  ∧ bits (s.reg .ctxcmd) 51 28 = gang.toNat ∧ (s.reg (.trbase slot)).getLsbD 63 = true ∧ bits (s.reg (.trbase slot)) 59 48 = ctx.toNat

/-- The command has its outcome. -/
def Outcome (t : State) (good : Bool) : Prop := t.ctxRun.bind (·.outcome) = some good

end Sys2Proof.Claims

/-- R386, R438, R439: freeze stops every strand of the gang where it stands (one inside a repeat of a handler goes on to its end) and is complete when all
have; thaw lets the gang go on; a command on a gang that is not there fails; a command that has its outcome clears BUSY and is recorded. -/
def Sys2Proof.Claims.ContextsFreezeAndThaw : Prop :=
  ∀ (s : State) (ctx : BitVec 12) (slot : Slot) (gang : BitVec 24) (g : Gang) (good : Bool) (kind : Nat),
    let mine := fun (st : Strand) => st.who.ctx = ctx ∧ st.who.gang = gang
    gang ≠ 0xFFFFFF →
    (Commanded s 1 ctx slot gang → s.findGang ctx gang = none →
        ∃ r, exec .ctxFreeze s = .next { s with ctxRun := some r } ∧ r.outcome = some false)
    ∧ (Commanded s 1 ctx slot gang → s.findGang ctx gang = some g → (∀ e ∈ s.lbars, e.1 ≠ g.ticket) →
        ∃ t, exec .ctxFreeze s = .next t ∧ t.mem = s.mem ∧ t.strands.length = s.strands.length
          ∧ (∀ h ∈ t.gangs, h.ctx = ctx → h.gang = gang → h.frozen = true)
          ∧ (∀ (i : Nat) (st : Strand), s.strands[i]? = some st → ¬mine st → t.strands[i]? = some st)
          ∧ (∀ st ∈ t.strands, mine st → st.state = .frozen ∨ st.state = .ended ∨ (st.state = .active ∧ st.sr.hnd = true ∧ st.rptAt ≠ 0))
          ∧ ((∀ st ∈ s.strands, mine st → ¬(st.state = .active ∧ st.sr.hnd = true ∧ st.rptAt ≠ 0)) → Outcome t true))
    ∧ (Commanded s 2 ctx slot gang → s.findGang ctx gang = some g → (∀ e ∈ s.lbars, e.1 ≠ g.ticket) → g.frozen = true → s.partials = [] →
        (∀ st ∈ s.strands, mine st → st.before ≠ .frozen) →
        ∃ t, exec .ctxThaw s = .next t ∧ Outcome t true ∧ t.mem = s.mem ∧ (∀ h ∈ t.gangs, h.ctx = ctx → h.gang = gang → h.frozen = false)
          ∧ ∀ st ∈ t.strands, mine st → st.state ≠ .frozen)
    ∧ (s.ctxRun = some ⟨some good, none, kind⟩ → bits (s.reg .ctxcmd) 55 52 = slot.toNat → (bits (s.reg .ctxcmd) 59 56 ≠ 7 ∨ good = false) →
        ∃ t, exec .ctxCommandDone s = .next t ∧ (t.reg .ctxcmd).getLsbD 63 = false ∧ t.ctxRun = none ∧ t.mem = s.mem ∧ t.strands = s.strands
          ∧ ((s.reg (.ctxstat slot)).getLsbD 63 = false →
              (t.reg (.ctxstat slot)).getLsbD 63 = true ∧ bits (t.reg (.ctxstat slot)) 62 60 = (if good then 4 else 6)))

/-- R438 to R444: swap out writes the image of a frozen gang and frees what it held; swap in places it again; save writes the context's state and takes
it out of the package; restore brings it back; kill discards the context's work, its page slots and its root. -/
def Sys2Proof.Claims.ContextsAreSavedAndRestored : Prop :=
  ∀ (s s1 s2 : State) (ctx : BitVec 12) (slot : Slot) (gang : BitVec 24) (g : Gang) (img h bs : List Byte) (x m k : Nat),
    let q := (s.agentReq ctx slot .read).system
    let part := fun (off : Nat) => s.saveAddr + BitVec.ofNat 64 (num h off 8)
    (Commanded s 3 ctx slot gang → s.findGang ctx gang = some g → g.frozen = true →
        (let u := (s.finishClaims g).settleGang g
         u.gangQuiet g = true → u.gangImage g = (s1, img) → areaOf (engineReq ctx slot g.die g.quad .write).system u.saveAddr img.length s1 = (s2, .ok [(x, m)]) →
         img.length ≤ m → s2.partials = [] →
         ∃ t, exec .ctxSwapOut s = .next t ∧ Stored s2 t x img ∧ (ctx, gang, g.ticket) ∈ t.swapped ∧ (s2.ctxRun.isSome = true → Outcome t true)
           ∧ (∀ y ∈ t.gangs, ¬(y.ctx = g.ctx ∧ y.gang = g.gang)) ∧ ∀ st ∈ t.strands, ¬(st.who.ctx = g.ctx ∧ st.who.gang = g.gang)))
    ∧ (Commanded s 4 ctx slot gang → s.swapInAt false ctx slot s.saveAddr = (s1, .ok g) → g ∈ s1.gangs → (∀ e ∈ s1.lbars, e.1 ≠ g.ticket) →
        ∃ t, exec .ctxSwapIn s = .next t ∧ (s1.ctxRun.isSome = true → Outcome t true)
          ∧ ∃ y ∈ t.gangs, y.ctx = g.ctx ∧ y.gang = g.gang ∧ y.die = g.die ∧ y.quad = g.quad ∧ y.frozen = false)
    ∧ (Commanded s 4 ctx slot gang → s.swapInAt false ctx slot s.saveAddr = (s1, .fail) →
        ∃ r, exec .ctxSwapIn s = .next { s with ctxRun := some r } ∧ r.outcome = some false)
    ∧ (Commanded s 5 ctx slot gang → s.saveContext ctx slot = (s1, .ok ()) → s1.ctxRun.isSome = true →
        ∃ t, exec .ctxSave s = .next t ∧ Outcome t true ∧ (t.reg (.trbase slot)).getLsbD 63 = false ∧ t.mem = s1.mem
          ∧ (∀ l ∈ t.launches, l.ctx = ctx → l.closing ≠ none) ∧ (∀ r ∈ t.regions, r.ctx ≠ ctx) ∧ (∀ e ∈ t.keys, e.ctx ≠ ctx))
    ∧ (Commanded s 6 ctx slot gang → readArea q s.saveAddr 128 s = (s1, .ok h) → saveClear h = true → num h 0 4 = 0x56415343 → num h 4 4 = 1 → num h 8 4 = ctx.toNat →
        num h 16 4 = 0 → num h 20 4 = k → num h 24 4 = 0 → num h 28 4 = 0 → num h 32 4 = 0 → num h 36 4 = 0 →
        readArea q (part 48) (32 * k) s1 = (s2, .ok bs) → (recordsOf bs 32 k).all regionClear = true → s2.ctxRun.isSome = true →
        ∃ t, exec .ctxRestore s = .next t ∧ Outcome t true ∧ t.mem = s2.mem
          ∧ t.regions = s2.regions ++ (List.range k).map (fun i =>
              ⟨ctx, BitVec.ofNat 57 (num bs (32 * i) 8), BitVec.ofNat 57 (num bs (32 * i + 8) 8), num bs (32 * i + 16) 1⟩))
    ∧ (Commanded s 6 ctx slot gang → readArea q s.saveAddr 128 s = (s1, .ok h) → num h 0 4 ≠ 0x56415343 →
        ∃ r, exec .ctxRestore s = .next { s with ctxRun := some r } ∧ r.outcome = some false)
    ∧ (Commanded s 7 ctx slot gang → ∃ t, exec .ctxKill s = .next t ∧ (t.reg (.trbase slot)).getLsbD 63 = false ∧ (∀ p ∈ t.slots, p.ctx ≠ ctx)
        ∧ (∀ l ∈ t.launches, l.ctx = ctx → l.closing ≠ none) ∧ (∀ r ∈ t.rayOps, r.ctx ≠ ctx) ∧ (∀ y ∈ t.twills, y.ctx ≠ ctx))

/-- Contexts frozen, thawed, saved and restored. -/
def Obligations.ContextSwitches : Prop :=
  Claims.ContextsFreezeAndThaw ∧ Claims.ContextsAreSavedAndRestored

/-! ### The Zotan fabric, and RAYTAB -/

namespace Sys2Proof.Claims

/-- A packet of a KIND for this package that keeps R446, from a package that is not declared down. -/
def Received (s : State) (kind : Nat) (h : BitVec 256) (p : List Byte) : Prop :=
  bits h 21 18 = kind ∧ bits h 8 0 = s.package ∧ payloadFits h p = true ∧ s.isDown (hdrSrc h) = false ∧ packetBad h p = false

/-- A request for `n` bytes that the home serves now (R450): the requester is enabled, the bytes are memory of a valid die, and the L2 has a way for
their lines. A port leads back to the requester. -/
def Served (s : State) (h : BitVec 256) (n : Nat) : Prop :=
  (s.reg (.zroute (hdrSrc h))).getLsbD 30 = true ∧ s.dpaValid (bits h 83 45) n = true ∧ s.portsTo (hdrSrc h) ≠ [] ∧ s.deadDies = []
    ∧ s.memFails = [] ∧ s.partials = [] ∧ ({ s with payer := none } : State).l2Ready (bits h 83 45) n = true

/-- The last packet sent answers the packet `h`: it goes to its sender under its tag and context. -/
def Replied (s t : State) (h : BitVec 256) (kind cls : Nat) (p : List Byte) : Prop :=
  ∃ x, t.zsent.getLast? = some x ∧ x.payload = p ∧ bits x.header 8 0 = bits h 17 9 ∧ bits x.header 17 9 = s.package ∧ bits x.header 21 18 = kind
    ∧ bits x.header 37 22 = bits h 37 22 ∧ bits x.header 111 100 = bits h 111 100 ∧ bits x.header 99 92 = cls

end Sys2Proof.Claims

/-- R446, R447, R450, R452: requests of peers at this package's homes. Each is performed at its home and answered; a requester that ZROUTE does not
enable gets class 0x16, and an address that is no memory 0x14. A packet that breaks R446 is dropped and counted; one from a package that is down is
dropped. -/
def Sys2Proof.Claims.PeerRequestsAreServed : Prop :=
  ∀ (s : State) (h : BitVec 256) (p : List Byte),
    let a := bits h 83 45
    let op := BitVec.ofNat 4 (bits h 91 84)
    let x := leNat p
    let kinds : List (Nat × Instr) := [(0, .zotanReadRequest h p), (1, .zotanPostedWrite h p), (2, .zotanPostedReduction h p), (3, .zotanAtomic h p),
      (4, .zotanReadReply h p), (5, .zotanWriteAck h p), (6, .zotanFaultReply h p), (7, .zotanInvalidationRound h p), (8, .zotanRoundAck h p),
      (9, .zotanDownDeclaration h p), (10, .zotanMonitorArm h p), (11, .zotanMonitorWake h p), (12, .zotanMonitorCancel h p)]
    (Received s 0 h p → Served s h (bits h 44 38 + 1) → ∃ t, exec (.zotanReadRequest h p) s = .next t ∧ t.mem = s.mem
      ∧ Replied s t h 4 0 (s.mem.read a (bits h 44 38 + 1)))
    ∧ (Received s 1 h p → Served s h p.length → ∃ t, exec (.zotanPostedWrite h p) s = .next t ∧ Stored s t a p ∧ Replied s t h 5 0 [0])
    ∧ (∀ n tag pr, Received s 2 h p → redRow (bits h 91 84) (bits h 115 112) (bits h 119 116) = some (n, tag, pr) →
        Served s h (if pr then 2 * n else n) → ∃ t, exec (.zotanPostedReduction h p) s = .next t ∧ Replied s t h 5 0 [0]
          ∧ (∀ y, y < a ∨ a + (if pr then 2 * n else n) ≤ y → t.mem.get y = s.mem.get y)
          ∧ (bits h 91 84 ≤ 9 → Stored s t a (leBytes n (opValue (8 * n) op (s.mem.nat a n) x))))
    ∧ (∀ n cas, Received s 3 h p → atomRow (bits h 91 84) (bits h 115 112) (bits h 119 116) = some (n, cas) → Served s h n →
        ∃ t, exec (.zotanAtomic h p) s = .next t ∧ Replied s t h 4 0 (s.mem.read a n)
          ∧ Stored s t a (leBytes n (if cas then (if s.mem.nat a n = leNat (p.take n) then leNat (p.drop n) else s.mem.nat a n)
              else opValue (8 * n) op (s.mem.nat a n) x)))
    ∧ (∀ k i, (k, i) ∈ kinds → k ≤ 1 → Received s k h p → s.portsTo (hdrSrc h) ≠ [] →
        ((s.reg (.zroute (hdrSrc h))).getLsbD 30 = false → ∃ t, exec i s = .next t ∧ t.mem = s.mem ∧ Replied s t h 6 0x16 [])
        ∧ ((s.reg (.zroute (hdrSrc h))).getLsbD 30 = true → s.dpaValid a (if k = 0 then bits h 44 38 + 1 else p.length) = false →
            ∃ t, exec i s = .next t ∧ t.mem = s.mem ∧ Replied s t h 6 0x14 []))
    ∧ (∀ k i, (k, i) ∈ kinds → bits h 21 18 = k → bits h 8 0 = s.package → payloadFits h p = true →
        (s.isDown (hdrSrc h) = true → exec i s = .next { s with payer := none })
        ∧ (s.isDown (hdrSrc h) = false → packetBad h p = true →
            exec i s = .next { s with payer := none, records := { s.records with zdrop := satInc s.records.zdrop } }))
    ∧ (13 ≤ bits h 21 18 → bits h 8 0 = s.package → payloadFits h p = true → s.isDown (hdrSrc h) = false →
        exec (.zotanReservedPacket h p) s = .next { s with payer := none, records := { s.records with zdrop := satInc s.records.zdrop } })

/-- R452: monitors of peers. An arm whose condition holds is woken at once; else it makes an entry and is acknowledged, or is refused when its set is
full. A cancel frees the entry and wakes its waiter; a wake is brought to the strand that it names. -/
def Sys2Proof.Claims.PeerMonitors : Prop :=
  ∀ (s : State) (h : BitVec 256) (p : List Byte) (m : Monitor),
    let a := bits h 83 45
    let n := if armWide p then 8 else 4
    let w := armWho (hdrCtx h) p
    let v := s.mem.nat a n
    let holds := monHolds (armWide p) (armCond p) (armVal p) v
    let place := s.homeSlot a
    (Received s 10 h p → Served s h n → (hdrSrc h).toNat ≠ s.package →
      (holds = true → ∃ t, exec (.zotanMonitorArm h p) s = .next t ∧ t.mem = s.mem ∧ t.monitors = s.monitors
        ∧ ∃ x, t.zsent.getLast? = some x ∧ bits x.header 21 18 = 11 ∧ bits x.header 8 0 = bits h 17 9
          ∧ x.payload = leBytes 8 v ++ leBytes 5 (waiterCode w) ++ List.replicate 19 0)
      ∧ (∀ way, holds = false → s.monitorWay place.1 (place.2 % 1024) = some way →
          ∃ t, exec (.zotanMonitorArm h p) s = .next t ∧ t.mem = s.mem ∧ Replied s t h 5 0 [0]
            ∧ t.monitors = s.monitors ++ [⟨place.1, place.2 % 1024, way, a, armWide p, armCond p, armVal p, hdrCtx h, hdrSrc h, w, false⟩])
      ∧ (holds = false → s.monitorWay place.1 (place.2 % 1024) = none →
          ∃ t, exec (.zotanMonitorArm h p) s = .next t ∧ t.mem = s.mem ∧ Replied s t h 5 0 [1] ∧ t.monitors = s.monitors
            ∧ t.records.monovf = satInc s.records.monovf))
    ∧ (Received s 12 h p → s.monitors.find? (fun y => y.pkg == hdrSrc h && y.ctx == hdrCtx h && y.who == w && y.addr == a) = some m →
        s.partials = [] → s.portsTo (hdrSrc h) ≠ [] → (hdrSrc h).toNat ≠ s.package →
        ∃ t, exec (.zotanMonitorCancel h p) s = .next t ∧ t.mem = s.mem ∧ m ∉ t.monitors ∧ (∀ y ∈ s.monitors, y ≠ m → y ∈ t.monitors)
          ∧ ∃ x, t.zsent.getLast? = some x ∧ bits x.header 21 18 = 11 ∧ bits x.header 8 0 = bits h 17 9
            ∧ x.payload = leBytes 8 (s.mem.nat a m.size) ++ leBytes 5 (waiterCode m.who) ++ [1] ++ List.replicate 18 0)
    ∧ (let u := waiterOf (hdrCtx h) (bytesAt p 8 5 % 2 ^ 35)
       Received s 11 h p → (∃ y ∈ s.peerArms, y.who = u ∧ y.pkg = hdrSrc h) →
        ∃ t, exec (.zotanMonitorWake h p) s = .next t ∧ t.mem = s.mem ∧ t.wakes = s.wakes ++ [⟨u, BitVec.ofNat 64 (bytesAt p 0 8)⟩]
          ∧ (∀ y ∈ t.peerArms, y.who ≠ u) ∧ ∀ y ∈ s.peerArms, y.who ≠ u → y ∈ t.peerArms)

/-- Requests and monitors of peers, served at this package. -/
def Obligations.PeerTraffic : Prop :=
  Claims.PeerRequestsAreServed ∧ Claims.PeerMonitors

/-- R228, R374, R452, R453: answers to this package's requests. A read's bytes go to the instruction that asked for them; the answer of a posted
request makes one fewer outstanding; a fault answer of a posted request is recorded in sr.rfault, and that of an arm is the remote-load fault. -/
def Sys2Proof.Claims.PeerAnswersArrive : Prop :=
  ∀ (s : State) (h : BitVec 256) (p : List Byte) (r : PeerReq) (w : Who) (i : Nat) (st : Strand),
    s.requestOf h = some r → r.engine = none → r.agent = none → r.who = some w → s.findStrand w = some i → s.strands[i]? = some st →
    let rest := s.peerReqs.filter (· != r)
    let asked : State := { s with payer := none, peerReqs := rest }
    (Received s 4 h p → r.posted = false → r.kind = 0 →
      (r.script = true → ∃ t st', exec (.zotanReadReply h p) s = .next t ∧ t.mem = s.mem ∧ t.peerReqs = rest ∧ t.strands = s.strands.set i st'
        ∧ st'.script = st.script ++ [(scriptKey r.dst r.dpa 0, p)] ∧ st'.v = st.v ∧ st'.w = st.w ∧ st'.pc = st.pc)
      ∧ (r.script = false → r.reply ≠ none → st.remote = none →
          exec (.zotanReadReply h p) s = .next (asked.answer 0 r.reply p)))
    ∧ (r.posted = true → r.script = false → r.reply = none →
        (Received s 5 h p → r.kind ≠ 10 → ∃ t st', exec (.zotanWriteAck h p) s = .next t ∧ t.mem = s.mem ∧ t.peerReqs = rest
          ∧ t.strands = s.strands.set i st' ∧ st'.posted = st.posted - 1 ∧ st'.sr = st.sr
          ∧ (st.state = .held → st.park = some .posted → st'.state = .active))
        ∧ (Received s 6 h p → ∃ t st', exec (.zotanFaultReply h p) s = .next t ∧ t.mem = s.mem ∧ t.peerReqs = rest
            ∧ t.strands = s.strands.set i st' ∧ st'.posted = st.posted - 1
            ∧ (st.sr.rfault.getLsbD 63 = false → bits st'.sr.rfault 63 62 = 2 ∧ bits st'.sr.rfault 61 53 = r.dst.toNat
                ∧ bits st'.sr.rfault 52 48 = bits h 96 92)
            ∧ (st.sr.rfault.getLsbD 63 = true → st'.sr.rfault = st.sr.rfault ||| 0x4000000000000000)))
    ∧ (r.kind = 10 → r.posted = false →
        (Received s 5 h p → bytesAt p 0 1 % 2 = 0 → exec (.zotanWriteAck h p) s = .next asked)
        ∧ (Received s 5 h p → bytesAt p 0 1 % 2 = 1 → st.park = some (.waitc none) → (∀ y ∈ s.peerArms, y.who = w → y.cancelled = false) →
            ∃ t, exec (.zotanWriteAck h p) s = .next t ∧ t.strands = s.strands.set i { st with park := some (.rearm (s.cycle + 1024) none) })
        ∧ (Received s 6 h p → st.awaitsWake = true → exec (.zotanFaultReply h p) s
            = .next (State.takeTrap { asked with peerArms := s.peerArms.filter (fun y => y.who != w) } i
                ⟨0x19, (hdrClass h).setWidth 16, none, 0, r.va, 0⟩ st.pc 0)))

/-- R445, R448, R449, R454, R455: rounds, down declarations, ports and routes. -/
def Sys2Proof.Claims.RoundsPortsAndDownDeclarations : Prop :=
  ∀ (s : State) (h : BitVec 256) (p : List Byte) (tag : BitVec 16) (r : PeerReq) (port : BitVec 4) (again : Bool) (d : BitVec 9) (v : BitVec 32),
    let declared := fun (i : Instr) (d : BitVec 9) =>
      s.isDown d = false → d.toNat ≠ s.package → (∀ y ∈ s.peerReqs, y.dst = d → y.engine = none ∧ y.agent = none ∧ y.posted = true ∧ y.who = none) →
      (∀ y ∈ s.peerArms, y.pkg ≠ d) → s.rounds = [] →
      ∃ t, exec i s = .next t ∧ t.isDown d = true ∧ (t.reg (.zroute d)).getLsbD 31 = false ∧ (∀ y ∈ t.peerReqs, y.dst ≠ d)
        ∧ (∀ y ∈ t.monitors, y.pkg ≠ d) ∧ t.mem = s.mem ∧ (∀ q, q ≠ d → t.reg (.zroute q) = s.reg (.zroute q))
        ∧ (∀ q, q ≠ d → t.isDown q = s.isDown q)
    let n := if again then s.portFails.get 0 port.toNat + 1 else 1
    let busy := ∃ k, (s.reg (.trbase k)).getLsbD 63 = true
    (Received s 9 h p → declared (.zotanDownDeclaration h p) (BitVec.ofNat 9 (bytesAt p 0 2)))
    ∧ (s.peerReqs.find? (fun y => y.tag == tag) = some r → declared (.zotanRequestTimeout tag) r.dst)
    ∧ (s.peerReqs.find? (fun y => y.tag == tag) = some r → s.isDown r.dst = true → bits (s.reg .ztmo) 19 0 ≠ 0 → s.clock = 20 →
        exec (.zotanRequestTimeout tag) s
          = .next { s with payer := none, cycle := max s.cycle (r.sent + bits (s.reg .ztmo) 19 0 * 1000) })
    ∧ (Received s 7 h p → ∃ t y, exec (.zotanInvalidationRound h p) s = .next t ∧ t.rounds = s.rounds ++ [y] ∧ y.by_ = .peer (hdrSrc h) (hdrTag h)
        ∧ y.kind.toNat = leNat p % 4 ∧ y.ctx.toNat = leNat p / 4 % 2 ^ 12 ∧ y.vpn.toNat = leNat p / 2 ^ 14 % 2 ^ 41
        ∧ y.count = leNat p / 2 ^ 55 % 2 ^ 21 ∧ y.peers = [] ∧ t.mem = s.mem ∧ t.strands = s.strands)
    ∧ (∀ y, Received s 8 h p → s.rounds = [y] → y.peers = [(hdrSrc h, hdrTag h)] →
        ∃ t, exec (.zotanRoundAck h p) s = .next t ∧ t.mem = s.mem ∧ ∀ z ∈ t.rounds, z.peers = [])
    ∧ (s.portsUp.getLsbD port.toNat = true →
        (n < 16 → exec (.zotanFlitCrcFail port again) s = .next { s with
            payer := none
            portFails := s.portFails.set port.toNat n
            records := { s.records with zreplay := satInc s.records.zreplay } })
        ∧ (16 ≤ n → s.livePeers = [] → ∃ t, exec (.zotanFlitCrcFail port again) s = .next t
            ∧ (∀ q < 16, t.portsUp.getLsbD q = (s.portsUp.getLsbD q && decide (q ≠ port.toNat))) ∧ t.records.zreplay = satInc s.records.zreplay)
        ∧ (s.livePeers = [] → ∃ t, exec (.zotanPortDown port) s = .next t ∧ t.mem = s.mem ∧ t.strands = s.strands
            ∧ ∀ q < 16, t.portsUp.getLsbD q = (s.portsUp.getLsbD q && decide (q ≠ port.toNat))))
    ∧ (s.portsUp.getLsbD port.toNat = false → s.boot.opticalFailed.getLsbD (port.toNat / 4) = false →
        ∃ t, exec (.zotanPortUp port) s = .next t ∧ t.mem = s.mem ∧ t.strands = s.strands
          ∧ (∀ q < 16, t.portsUp.getLsbD q = (s.portsUp.getLsbD q || decide (q = port.toNat)))
          ∧ ∀ y ∈ s.peerReqs, bits (s.reg (.zroute y.dst)) 15 0 / 2 ^ port.toNat % 2 = 1 → y.dst ∈ t.routeStale)
    ∧ (d ∈ s.routeStale → (∀ y ∈ s.peerReqs, y.dst ≠ d) → ∃ t, exec (.routeRecompute d) s = .next t ∧ d ∉ t.routeStale ∧ t.mem = s.mem
        ∧ ∀ q ∈ s.routeStale, q ≠ d → q ∈ t.routeStale)
    ∧ (bits v 30 9 ≠ 0 ∨ busy → Refused (.zpkgWrite v) s .zpkg 31)
    ∧ (bits v 30 9 = 0 → ¬busy → ∃ t, exec (.zpkgWrite v) s = .next t ∧ t.package = bits v 8 0 ∧ ∀ q, q ≠ CReg.zpkg → t.reg q = s.reg q)

/-- Answers of peers, rounds, ports and down declarations. -/
def Obligations.FabricEvents : Prop :=
  Claims.PeerAnswersArrive ∧ Claims.RoundsPortsAndDownDeclarations

/-- R318: a write of RAYTAB is refused while its slot has a resident gang, with a reserved bit set, or with EN set and the top bits of the base set. -/
def Sys2Proof.Claims.RaytabWrites : Prop :=
  ∀ (s : State) (k : Slot) (v : W64),
    let bad := s.slotBusy k = true ∨ (v.getLsbD 63 = true ∧ bits v 59 57 ≠ 0) ∨ bits v 61 60 ≠ 0 ∨ bits v 6 0 ≠ 0
    (bad → Refused (.raytabWrite k v) s (.raytab k) 62)
    ∧ (¬bad → ∃ t, exec (.raytabWrite k v) s = .next t ∧ Becomes s t (.raytab k)
        (if v.getLsbD 62 then v &&& ~~~((1 : W64) <<< 62) else v ||| (s.reg (.raytab k) &&& ((1 : W64) <<< 62))))

/-- The ray instructions, their lanes, and RAYTAB. -/
def Obligations.RayInstructions : Prop :=
  Claims.RaysStart ∧ Claims.RayLanesEnd ∧ Claims.RaytabWrites
end

