-- ==== Sys2Proof/Laws/Memory.lean ====
section
/-! SUPPORT. Memory: its canonical form in plain terms, that every operation over it keeps the form, and what is read back after each. -/

namespace Sys2Proof.Machine

open Sys2Proof

/-! ### The canonical form -/

/-- The form in two parts: no listed byte is 0, and addresses rise. -/
theorem Memory.wf_iff (m : Memory) : m.wf = true ↔ (∀ c ∈ m, c.2 ≠ 0) ∧ m.Pairwise (fun c d => c.1 < d.1) := by
  induction m with
  | nil => simp [Memory.wf]
  | cons c l ih =>
    cases l with
    | nil => simp [Memory.wf]
    | cons d r =>
      simp only [Memory.wf, Bool.and_eq_true, bne_iff_ne, decide_eq_true_eq, ih, List.forall_mem_cons, List.pairwise_cons]
      constructor
      · rintro ⟨⟨h0, h1⟩, ⟨h2, h3⟩, h4, h5⟩
        exact ⟨⟨h0, h2, h3⟩, ⟨h1, fun x hx => Nat.lt_trans h1 (h4 x hx)⟩, h4, h5⟩
      · rintro ⟨⟨h0, h2, h3⟩, ⟨h1, -⟩, h4, h5⟩
        exact ⟨⟨h0, h1⟩, ⟨h2, h3⟩, h4, h5⟩

@[simp] theorem Memory.wf_nil : Memory.wf [] = true := rfl

theorem State.reset_mem_wf : State.reset.mem.wf = true := rfl

/-- What is left of a memory keeps the form. -/
theorem Memory.wf_filter {m : Memory} (h : m.wf = true) (p : Host.Cell → Bool) : Memory.wf (m.filter p) = true := by
  rw [Memory.wf_iff] at *
  exact ⟨fun c hc => h.1 c (List.mem_filter.1 hc).1, h.2.filter p⟩

/-- Two memories, the second above the first. -/
theorem Memory.wf_append {m n : Memory} (hm : m.wf = true) (hn : n.wf = true) (h : ∀ c ∈ m, ∀ d ∈ n, c.1 < d.1) : Memory.wf (m ++ n) = true := by
  rw [Memory.wf_iff] at *
  exact ⟨fun c hc => (List.mem_append.1 hc).elim (hm.1 c) (hn.1 c), List.pairwise_append.2 ⟨hm.2, hn.2, h⟩⟩

theorem cellsOf_bounds {a : Nat} {bs : List Byte} {c : Host.Cell} (h : c ∈ cellsOf a bs) : a ≤ c.1 ∧ c.1 < a + bs.length := by
  induction bs generalizing a with
  | nil => simp [cellsOf] at h
  | cons b bs ih =>
    simp only [cellsOf] at h
    split at h
    · have := ih h; simp only [List.length_cons]; omega
    · rcases List.mem_cons.1 h with rfl | h
      · simp
      · have := ih h; simp only [List.length_cons]; omega

theorem cellsOf_wf (a : Nat) (bs : List Byte) : (cellsOf a bs).wf = true := by
  induction bs generalizing a with
  | nil => rfl
  | cons b bs ih =>
    simp only [cellsOf]
    split
    · exact ih _
    · rename_i hb
      have h := (Memory.wf_iff _).1 (ih (a + 1))
      rw [Memory.wf_iff]
      refine ⟨?_, List.pairwise_cons.2 ⟨fun c hc => ?_, h.2⟩⟩
      · intro c hc
        rcases List.mem_cons.1 hc with rfl | hc
        · simpa using hb
        · exact h.1 c hc
      · have := cellsOf_bounds hc; simp only; omega

/-- A write keeps the form. -/
theorem Memory.put_wf {m : Memory} (h : m.wf = true) (a : Nat) (bs : List Byte) : (m.put a bs).wf = true := by
  refine Memory.wf_append (Memory.wf_append (Memory.wf_filter h _) (cellsOf_wf a bs) ?_) (Memory.wf_filter h _) ?_
  · intro c hc d hd
    have := cellsOf_bounds hd
    have := (List.mem_filter.1 hc).2
    simp only [decide_eq_true_eq] at this
    omega
  · intro c hc d hd
    have hd := (List.mem_filter.1 hd).2
    simp only [decide_eq_true_eq] at hd
    rcases List.mem_append.1 hc with hc | hc
    · have := (List.mem_filter.1 hc).2
      simp only [decide_eq_true_eq] at this
      omega
    · have := cellsOf_bounds hc; omega

theorem Memory.putNat_wf {m : Memory} (h : m.wf = true) (a n x : Nat) : (m.putNat a n x).wf = true := Memory.put_wf h a _

theorem Memory.zero_wf {m : Memory} (h : m.wf = true) (a n : Nat) : (m.zero a n).wf = true := Memory.wf_filter h _

/-! ### Reading back -/

@[simp] theorem Memory.get_nil (x : Nat) : Memory.get [] x = 0 := rfl

theorem Memory.get_cons (c : Host.Cell) (m : Memory) (x : Nat) : Memory.get (c :: m) x = if c.1 = x then c.2 else m.get x := by
  by_cases h : c.1 = x <;> simp [Memory.get, h]

/-- The byte where no cell is listed. -/
theorem Memory.get_of_none {m : Memory} {x : Nat} (h : ∀ c ∈ m, c.1 ≠ x) : m.get x = 0 := by
  induction m with
  | nil => rfl
  | cons c l ih =>
    rw [Memory.get_cons, if_neg (h c List.mem_cons_self)]
    exact ih fun d hd => h d (List.mem_cons_of_mem c hd)

/-- A read of one memory in front of another that lists no cell there. -/
theorem Memory.get_append_left {m n : Memory} {x : Nat} (h : ∀ c ∈ n, c.1 ≠ x) : Memory.get (m ++ n) x = m.get x := by
  induction m with
  | nil => exact Memory.get_of_none h
  | cons c l ih => rw [List.cons_append, Memory.get_cons, Memory.get_cons, ih]

theorem Memory.get_append_right {m n : Memory} {x : Nat} (h : ∀ c ∈ m, c.1 ≠ x) : Memory.get (m ++ n) x = n.get x := by
  induction m with
  | nil => rfl
  | cons c l ih =>
    rw [List.cons_append, Memory.get_cons, if_neg (h c List.mem_cons_self)]
    exact ih fun d hd => h d (List.mem_cons_of_mem c hd)

/-- A read of what is left when the filter looks at addresses only. -/
theorem Memory.get_filter (m : Memory) (p : Nat → Bool) (x : Nat) :
    Memory.get (m.filter (fun c => p c.1)) x = if p x = true then m.get x else 0 := by
  induction m with
  | nil => simp
  | cons c l ih =>
    rw [List.filter_cons]
    by_cases hc : c.1 = x
    · subst hc
      by_cases hp : p c.1 = true
      · simp only [hp, if_true, Memory.get_cons]
      · rw [if_neg hp, ih, if_neg hp, if_neg hp]
    · rw [Memory.get_cons, if_neg hc, ← ih]
      split
      · rw [Memory.get_cons, if_neg hc]
      · rfl

theorem cellsOf_get (a : Nat) (bs : List Byte) (x : Nat) :
    (cellsOf a bs).get x = if a ≤ x ∧ x < a + bs.length then bs.getD (x - a) 0 else 0 := by
  induction bs generalizing a with
  | nil => simp only [cellsOf, Memory.get_nil, List.length_nil]; rw [if_neg (by omega)]
  | cons b bs ih =>
    have tail : x ≠ a → (if a + 1 ≤ x ∧ x < a + 1 + bs.length then bs.getD (x - (a + 1)) 0 else (0 : Byte))
        = if a ≤ x ∧ x < a + (b :: bs).length then (b :: bs).getD (x - a) 0 else 0 := by
      intro h
      by_cases hx : a + 1 ≤ x ∧ x < a + 1 + bs.length
      · rw [if_pos hx, if_pos (by simp only [List.length_cons]; omega)]
        obtain ⟨k, rfl⟩ : ∃ k, x = a + (k + 1) := ⟨x - a - 1, by omega⟩
        rw [show a + (k + 1) - (a + 1) = k by omega, show a + (k + 1) - a = k + 1 by omega, List.getD_cons_succ]
      · rw [if_neg hx, if_neg (by simp only [List.length_cons]; omega)]
    by_cases hb : b == 0
    · rw [cellsOf, if_pos hb, ih]
      by_cases h : x = a
      · subst h
        rw [if_neg (by omega), if_pos (by simp), Nat.sub_self, List.getD_cons_zero]
        exact (eq_of_beq hb).symm
      · exact tail h
    · rw [cellsOf, if_neg hb, Memory.get_cons]
      by_cases h : x = a
      · subst h
        rw [if_pos rfl, if_pos (by simp), Nat.sub_self, List.getD_cons_zero]
      · rw [if_neg (Ne.symm h), ih, tail h]

/-- A byte after a write: the byte written, or the byte before. -/
theorem Memory.get_put (m : Memory) (a : Nat) (bs : List Byte) (x : Nat) :
    (m.put a bs).get x = if a ≤ x ∧ x < a + bs.length then bs.getD (x - a) 0 else m.get x := by
  have low : Memory.get (m.filter (fun c => decide (c.1 < a))) x = if x < a then m.get x else 0 := by
    rw [Memory.get_filter m (fun y => decide (y < a)) x]; simp only [decide_eq_true_eq]
  have high : Memory.get (m.filter (fun c => decide (a + bs.length ≤ c.1))) x = if a + bs.length ≤ x then m.get x else 0 := by
    rw [Memory.get_filter m (fun y => decide (a + bs.length ≤ y)) x]; simp only [decide_eq_true_eq]
  have inLow : ∀ c ∈ m.filter (fun c => decide (c.1 < a)), c.1 < a := fun c hc => by simpa using (List.mem_filter.1 hc).2
  have inHigh : ∀ c ∈ m.filter (fun c => decide (a + bs.length ≤ c.1)), a + bs.length ≤ c.1 := fun c hc => by simpa using (List.mem_filter.1 hc).2
  unfold Memory.put
  rcases Nat.lt_trichotomy x a with h | h | h
  · rw [List.append_assoc, Memory.get_append_left, low, if_pos h, if_neg (by omega)]
    intro c hc
    rcases List.mem_append.1 hc with hc | hc
    · have := cellsOf_bounds hc; omega
    · have := inHigh c hc; omega
  all_goals
    by_cases hx : x < a + bs.length
    · rw [Memory.get_append_left (fun c hc => by have := inHigh c hc; omega),
        Memory.get_append_right (fun c hc => by have := inLow c hc; omega), cellsOf_get]
      rw [if_pos (by omega), if_pos (by omega)]
    · rw [Memory.get_append_right, high, if_pos (by omega), if_neg (by omega)]
      intro c hc
      rcases List.mem_append.1 hc with hc | hc
      · have := inLow c hc; omega
      · have := cellsOf_bounds hc; omega

/-- A byte after a range is zeroed. -/
theorem Memory.get_zero (m : Memory) (a n x : Nat) : (m.zero a n).get x = if a ≤ x ∧ x < a + n then 0 else m.get x := by
  unfold Memory.zero
  rw [Memory.get_filter m (fun y => decide (y < a) || decide (a + n ≤ y)) x]
  by_cases h : a ≤ x ∧ x < a + n
  · rw [if_pos h, if_neg (by simp; omega)]
  · rw [if_neg h, if_pos (by simp; omega)]

@[simp] theorem Memory.read_length (m : Memory) (a n : Nat) : (m.read a n).length = n := by simp [Memory.read]

@[simp] theorem leBytes_length (n x : Nat) : (leBytes n x).length = n := by
  induction n generalizing x with
  | zero => rfl
  | succ n ih => simp [leBytes, ih]

theorem leNat_leBytes (n x : Nat) : leNat (leBytes n x) = x % 256 ^ n := by
  induction n generalizing x with
  | zero => simp [leBytes, leNat, Nat.mod_one]
  | succ n ih =>
    rw [leBytes, leNat, ih, BitVec.toNat_ofNat, show (256 : Nat) ^ (n + 1) = 256 * 256 ^ n from Nat.pow_succ', Nat.mod_mul]

/-- What was written is read back. -/
theorem Memory.read_put (m : Memory) (a : Nat) (bs : List Byte) : (m.put a bs).read a bs.length = bs := by
  refine List.ext_getElem (by simp) fun i h1 h2 => ?_
  simp only [Memory.read, List.getElem_map, List.getElem_range, Memory.get_put]
  rw [if_pos (by omega), show a + i - a = i by omega, List.getD_eq_getElem _ _ h2]

/-- A read apart from what was written. -/
theorem Memory.read_put_apart (m : Memory) (a b n : Nat) (bs : List Byte) (h : b + n ≤ a ∨ a + bs.length ≤ b) : (m.put a bs).read b n = m.read b n := by
  simp only [Memory.read]
  refine List.map_congr_left fun i hi => ?_
  have := List.mem_range.1 hi
  rw [Memory.get_put, if_neg (by omega)]

/-! ### The memory of a package under another binding (R9) -/

theorem Memory.range_bounds {m : Memory} {a n : Nat} {c : Host.Cell} (h : c ∈ m.range a n) : c.1 < n := by
  obtain ⟨d, hd, rfl⟩ := List.mem_map.1 h
  have := (List.mem_filter.1 hd).2
  simp only [Bool.and_eq_true, decide_eq_true_eq] at this
  simp only; omega

theorem Memory.range_wf {m : Memory} (h : m.wf = true) (a n : Nat) : Memory.wf (m.range a n) = true := by
  have hf := (Memory.wf_iff _).1 (Memory.wf_filter h (fun c => decide (a ≤ c.1) && decide (c.1 < a + n)))
  rw [Memory.wf_iff]
  refine ⟨fun c hc => ?_, List.pairwise_map.2 (hf.2.imp_of_mem fun {x y} hx _ hxy => ?_)⟩
  · obtain ⟨d, hd, rfl⟩ := List.mem_map.1 hc; exact hf.1 d hd
  · have := (List.mem_filter.1 hx).2
    simp only [Bool.and_eq_true, decide_eq_true_eq] at this
    simp only; omega

theorem shiftCells_wf {m : Memory} (h : m.wf = true) (a : Nat) : Memory.wf (shiftCells m a) = true := by
  rw [Memory.wf_iff] at *
  refine ⟨fun c hc => ?_, List.pairwise_map.2 (h.2.imp fun {x y} hxy => ?_)⟩
  · obtain ⟨d, hd, rfl⟩ := List.mem_map.1 hc; exact h.1 d hd
  · simp only; omega

/-- Blocks laid out one above another. -/
theorem Memory.wf_flatMap {α : Type} {l : List α} {f : α → Memory} (hw : ∀ x ∈ l, (f x).wf = true)
    (hr : l.Pairwise (fun x y => ∀ c ∈ f x, ∀ d ∈ f y, c.1 < d.1)) : Memory.wf (l.flatMap f) = true := by
  induction l with
  | nil => rfl
  | cons x l ih =>
    rw [List.flatMap_cons]
    rw [List.pairwise_cons] at hr
    refine Memory.wf_append (hw x List.mem_cons_self) (ih (fun y hy => hw y (List.mem_cons_of_mem x hy)) hr.2) fun c hc d hd => ?_
    obtain ⟨y, hy, hd⟩ := List.mem_flatMap.1 hd
    exact hr.1 y hy c hc d hd

/-- A binding put in force keeps the form. -/
theorem State.rebindMem_wf {s : State} (h : s.mem.wf = true) (t : State) : (s.rebindMem t).wf = true := by
  have block : ∀ (o : Option Die) (p : Nat),
      Memory.wf (match o with | some d => s.mem.range (Config.devAddr d 0) (2 ^ 37) | none => s.mem.range (parkBase p) (2 ^ 37)) = true
      ∧ ∀ c : Host.Cell, (c ∈ (match o with | some d => s.mem.range (Config.devAddr d 0) (2 ^ 37) | none => s.mem.range (parkBase p) (2 ^ 37))) →
        c.1 < 2 ^ 37 := by
    intro o p
    cases o with
    | none => exact ⟨Memory.range_wf h _ _, fun (c : Host.Cell) hc => Memory.range_bounds hc⟩
    | some d => exact ⟨Memory.range_wf h _ _, fun (c : Host.Cell) hc => Memory.range_bounds hc⟩
  have shifted : ∀ (l : Memory) (a : Nat) (c : Host.Cell), (∀ x ∈ l, x.1 < 2 ^ 37) → c ∈ shiftCells l a → a ≤ c.1 ∧ c.1 < a + 2 ^ 37 := by
    intro l a c hl hc
    obtain ⟨x, hx, rfl⟩ := List.mem_map.1 hc
    have := hl x hx
    simp only; omega
  have dies : ∀ d ∈ [(0 : Die), 1, 2, 3], ∀ c ∈ (if t.dieValid d then
      shiftCells (match s.virtAt (t.phys d) with | some e => s.mem.range (Config.devAddr e 0) (2 ^ 37) | none => s.mem.range (parkBase (t.phys d)) (2 ^ 37))
        (Config.devAddr d 0) else []), d.toNat * 2 ^ 37 ≤ c.1 ∧ c.1 < d.toNat * 2 ^ 37 + 2 ^ 37 := by
    intro d _ c hc
    split at hc
    · have := shifted _ _ c (block _ _).2 hc
      simpa [Config.devAddr] using this
    · simp at hc
  have parked : ∀ p ∈ [0, 1, 2, 3], ∀ c ∈ (if (t.virtAt p).isSome then [] else
      shiftCells (match s.virtAt p with | some e => s.mem.range (Config.devAddr e 0) (2 ^ 37) | none => s.mem.range (parkBase p) (2 ^ 37)) (parkBase p)),
      2 ^ 40 + p * 2 ^ 37 ≤ c.1 ∧ c.1 < 2 ^ 40 + p * 2 ^ 37 + 2 ^ 37 := by
    intro p _ c hc
    split at hc
    · simp at hc
    · exact shifted _ _ c (block _ _).2 hc
  have diesTop : ∀ c ∈ [(0 : Die), 1, 2, 3].flatMap (fun d => if t.dieValid d then
      shiftCells (match s.virtAt (t.phys d) with | some e => s.mem.range (Config.devAddr e 0) (2 ^ 37) | none => s.mem.range (parkBase (t.phys d)) (2 ^ 37))
        (Config.devAddr d 0) else []), c.1 < 2 ^ 39 := by
    intro c hc
    obtain ⟨d, hd, hc⟩ := List.mem_flatMap.1 hc
    have h1 := dies d hd c hc
    have h2 := d.isLt
    omega
  have parkedIn : ∀ c ∈ [0, 1, 2, 3].flatMap (fun p => if (t.virtAt p).isSome then [] else
      shiftCells (match s.virtAt p with | some e => s.mem.range (Config.devAddr e 0) (2 ^ 37) | none => s.mem.range (parkBase p) (2 ^ 37)) (parkBase p)),
      2 ^ 40 ≤ c.1 ∧ c.1 < 2 ^ 40 + 2 ^ 39 := by
    intro c hc
    obtain ⟨p, hp, hc⟩ := List.mem_flatMap.1 hc
    have h1 := parked p hp c hc
    have h2 : p ≤ 3 := by fin_cases hp <;> simp
    omega
  have midIn : ∀ c ∈ s.mem.filter (fun c => decide (2 ^ 39 ≤ c.1) && decide (c.1 < 2 ^ 40)), 2 ^ 39 ≤ c.1 ∧ c.1 < 2 ^ 40 := fun c hc => by
    simpa using (List.mem_filter.1 hc).2
  unfold State.rebindMem
  refine Memory.wf_append (Memory.wf_append (Memory.wf_append (Memory.wf_flatMap ?_ ?_) (Memory.wf_filter h _) ?_)
    (Memory.wf_flatMap ?_ ?_) ?_) (Memory.wf_filter h _) ?_
  · intro d _
    split
    · exact shiftCells_wf (block _ _).1 _
    · rfl
  · simp only [List.pairwise_cons, List.mem_cons, List.not_mem_nil, or_false, forall_eq_or_imp, forall_eq]
    refine ⟨⟨?_, ?_, ?_⟩, ⟨?_, ?_⟩, ?_, ?_⟩
    all_goals first
      | (intro c hc d hd
         have h1 := dies _ (by decide) c hc
         have h2 := dies _ (by decide) d hd
         simp at h1 h2; omega)
      | simp
  · intro c hc d hd
    have := diesTop c hc; have := midIn d hd; omega
  · intro p _
    split
    · rfl
    · exact shiftCells_wf (block _ _).1 _
  · simp only [List.pairwise_cons, List.mem_cons, List.not_mem_nil, or_false, forall_eq_or_imp, forall_eq]
    refine ⟨⟨?_, ?_, ?_⟩, ⟨?_, ?_⟩, ?_, ?_⟩
    all_goals first
      | (intro c hc d hd
         have h1 := parked _ (by decide) c hc
         have h2 := parked _ (by decide) d hd
         omega)
      | simp
  · intro c hc d hd
    have h2 := parkedIn d hd
    rcases List.mem_append.1 hc with hc | hc
    · have := diesTop c hc; omega
    · have := midIn c hc; omega
  · intro c hc d hd
    have h2 : 2 ^ 40 + 2 ^ 39 ≤ d.1 := by simpa using (List.mem_filter.1 hd).2
    rcases List.mem_append.1 hc with hc | hc
    · rcases List.mem_append.1 hc with hc | hc
      · have := diesTop c hc; omega
      · have := midIn c hc; omega
    · have := parkedIn c hc; omega

end Sys2Proof.Machine
end

