-- ==== Sys2Proof/Laws/Home.lean ====
section
/-! SUPPORT. What an access at a home can do (R72, R79, R82, R83, R363): with no partial copy, a read changes no byte and a write changes the bytes
written; and every access keeps the canonical form of memory. -/

namespace Sys2Proof.Machine

open Sys2Proof

/-- Nothing but caches, charges, messages, monitors and page slots differs: every byte, partial copy, strand, gang and configuration register is
the same. -/
structure Undisturbed (s t : State) : Prop where
  mem : t.mem = s.mem
  partials : t.partials = s.partials
  strands : t.strands = s.strands
  gangs : t.gangs = s.gangs
  regs : t.regs = s.regs

theorem Undisturbed.refl (s : State) : Undisturbed s s := ⟨rfl, rfl, rfl, rfl, rfl⟩

theorem Undisturbed.trans {s t u : State} (h : Undisturbed s t) (k : Undisturbed t u) : Undisturbed s u :=
  ⟨k.mem.trans h.mem, k.partials.trans h.partials, k.strands.trans h.strands, k.gangs.trans h.gangs, k.regs.trans h.regs⟩

/-- A fold of steps each of which disturbs nothing. -/
theorem Undisturbed.foldl {α : Type} {f : State → α → State} (h : ∀ s x, Undisturbed s (f s x)) (l : List α) (s : State) :
    Undisturbed s (l.foldl f s) := by
  induction l generalizing s with
  | nil => exact .refl s
  | cons x l ih => exact (h s x).trans (ih _)

/-! ### Charges, messages, monitors, sidebands -/

theorem State.chargeQueue_undisturbed (s : State) (q : BitVec 6) (die : Die) (fj : Nat) : Undisturbed s (s.chargeQueue q die fj) :=
  ⟨rfl, rfl, rfl, rfl, rfl⟩

theorem State.charge_undisturbed (s : State) (ctx : BitVec 12) (gang : BitVec 24) (die : Die) (fj : Nat) : Undisturbed s (s.charge ctx gang die fj) := by
  unfold State.charge
  split
  · exact s.chargeQueue_undisturbed ..
  · exact .refl s

theorem State.pay_undisturbed (s : State) (fj : Nat) : Undisturbed s (s.pay fj) := by
  unfold State.pay
  split
  · exact s.chargeQueue_undisturbed ..
  · exact .refl s

theorem State.send_undisturbed (s : State) (h : Header) (p : List Byte) : Undisturbed s (s.send h p) := by
  unfold State.send
  split
  · exact .refl s
  · exact (s.pay_undisturbed _).trans ⟨rfl, rfl, rfl, rfl, rfl⟩

theorem State.sendWake_undisturbed (s : State) (m : Monitor) (v : Nat) (c : Bool) : Undisturbed s (s.sendWake m v c) := by
  unfold State.sendWake
  split
  · exact ⟨rfl, rfl, rfl, rfl, rfl⟩
  · exact s.send_undisturbed _ _

theorem State.evalMonitors_undisturbed (s : State) (a n : Nat) : Undisturbed s (s.evalMonitors a n) := by
  refine Undisturbed.foldl (fun s m => ?_) _ s
  split
  · exact (show Undisturbed s { s with monitors := s.monitors.filter (· != m) } from ⟨rfl, rfl, rfl, rfl, rfl⟩).trans (State.sendWake_undisturbed _ _ _ _)
  · exact ⟨rfl, rfl, rfl, rfl, rfl⟩

theorem State.scaleWrite_undisturbed (s : State) (a n : Nat) : Undisturbed s (s.scaleWrite a n) := by
  unfold State.scaleWrite
  split
  · exact .refl s
  · refine Undisturbed.foldl (fun s k => ?_) _ s
    simp only
    split
    · refine Undisturbed.foldl (fun s l => ?_) _ s
      split
      · exact ⟨rfl, rfl, rfl, rfl, rfl⟩
      · exact .refl s
    · exact .refl s

theorem State.markWritten_undisturbed (s : State) (a n : Nat) : Undisturbed s (s.markWritten a n) := by
  unfold State.markWritten
  split
  · exact .refl s
  · exact ⟨rfl, rfl, rfl, rfl, rfl⟩

theorem State.loseSector_undisturbed (s : State) (a n : Nat) : Undisturbed s (s.loseSector a n) := by
  unfold State.loseSector
  split
  · exact .refl s
  · split
    · exact ⟨rfl, rfl, rfl, rfl, rfl⟩
    · exact .refl s

theorem State.stall_undisturbed (s : State) (line : Nat) : Undisturbed s (s.stall line) := ⟨rfl, rfl, rfl, rfl, rfl⟩

theorem State.vaultCode_undisturbed (s : State) (a n : Nat) (w : Bool) : Undisturbed s (s.vaultCode a n w) := by
  unfold State.vaultCode
  split
  · exact .refl s
  · exact ⟨rfl, rfl, rfl, rfl, rfl⟩

theorem State.stallReset_undisturbed (s : State) (a n : Nat) : Undisturbed s (s.stallReset a n) := by
  unfold State.stallReset
  split
  · exact s.stall_undisturbed _
  · exact .refl s

theorem State.payHome_undisturbed (s : State) (a n : Nat) (w : Bool) : Undisturbed s (s.payHome a n w) := by
  unfold State.payHome
  split <;> exact s.pay_undisturbed _

/-- What comes before the lines of an access. -/
theorem State.l2Enter_undisturbed (s : State) (a n : Nat) (w : Bool) :
    Undisturbed s ((((s.loseSector a n).vaultCode a n w).stallReset a n).payHome a n w) :=
  (((s.loseSector_undisturbed a n).trans (State.vaultCode_undisturbed _ a n w)).trans (State.stallReset_undisturbed _ a n)).trans
    (State.payHome_undisturbed _ a n w)

/-! ### With no partial copy -/

theorem State.combineLine_none {s : State} (h : s.partials = []) (line : Nat) : s.combineLine line = s := by
  have e : ∀ d, s.copyOf line d = none := fun d => by simp [State.copyOf, h]
  simp only [State.combineLine, List.foldl_cons, List.foldl_nil, e]

theorem State.combineRange_none {s : State} (h : s.partials = []) (a n : Nat) : s.combineRange a n = s := by simp [State.combineRange, h]

theorem State.l2Evict_none {s : State} (h : s.partials = []) (l : L2Line) : Undisturbed s (s.l2Evict l) := by
  unfold State.l2Evict
  rw [State.combineLine_none h]
  exact (s.pay_undisturbed _).trans ⟨rfl, rfl, rfl, rfl, rfl⟩

theorem State.l2Alloc_none {s t : State} (h : s.partials = []) {line : Nat} (ht : s.l2Alloc line = some t) : Undisturbed s t := by
  unfold State.l2Alloc at ht
  split at ht
  · cases ht; exact .refl s
  · simp only at ht
    split at ht
    · cases ht; exact ⟨rfl, rfl, rfl, rfl, rfl⟩
    · split at ht
      · cases ht
      · split at ht
        · cases ht; exact (State.l2Evict_none h _).trans ⟨rfl, rfl, rfl, rfl, rfl⟩
        · cases ht; exact ⟨rfl, rfl, rfl, rfl, rfl⟩

theorem State.attach_none {s : State} (h : s.partials = []) (line : Nat) : Undisturbed s (s.attach line).1 := by
  unfold State.attach
  split
  · exact .refl s
  · split
    · exact .refl s
    · simp only [State.combineRange_none h]; exact .refl s

theorem State.plruUse_undisturbed (s : State) (a b c d : Nat) : Undisturbed s (s.plruUse a b c d) := ⟨rfl, rfl, rfl, rfl, rfl⟩

theorem State.l2Access_none {s t : State} (h : s.partials = []) {line a n : Nat} {w : Bool} (ht : s.l2Access line a n w = some t) : Undisturbed s t := by
  unfold State.l2Access at ht
  split at ht
  · cases ht
  · rename_i s1 h1
    have k := State.l2Alloc_none h h1
    split at ht
    · cases ht; exact k
    · simp only at ht
      cases ht
      have key : ∀ (c : Bool) (o : Option Sideband), Undisturbed s1 (if c = true then s1.attach line else (s1, o)).1 := by
        intro c o
        cases c
        · exact .refl s1
        · exact State.attach_none (k.partials.trans h) line
      exact k.trans ⟨(key _ _).mem, (key _ _).partials, (key _ _).strands, (key _ _).gangs, (key _ _).regs⟩

theorem State.l2Touch_none {s : State} (h : s.partials = []) (a n : Nat) (w : Bool) : Undisturbed s (s.l2Touch a n w) := by
  have k := s.l2Enter_undisturbed a n w
  unfold State.l2Touch
  simp only
  split
  · refine k.trans ?_
    have : ∀ (l : List Nat) (u : State), u.partials = [] → Undisturbed u (l.foldl (fun s l => (s.l2Access l a n w).getD (s.stall l)) u) := by
      intro l
      induction l with
      | nil => intro u _; exact .refl u
      | cons x l ih =>
        intro u hu
        rw [List.foldl_cons]
        have step : Undisturbed u ((u.l2Access x a n w).getD (u.stall x)) := by
          cases e : u.l2Access x a n w with
          | none => exact u.stall_undisturbed x
          | some t => exact State.l2Access_none hu e
        exact step.trans (ih _ (step.partials.trans hu))
    exact this _ _ (k.partials.trans h)
  · exact k

/-- A read at the home: the bytes that memory holds, and nothing disturbed. -/
theorem State.homeRead_none {s : State} (h : s.partials = []) (a n : Nat) :
    Undisturbed s (s.homeRead a n).1 ∧ (s.homeRead a n).2 = s.mem.read a n := by
  have k := State.l2Touch_none h a n false
  simp only [State.homeRead, State.combineRange_none (k.partials.trans h)]
  exact ⟨k, by rw [k.mem]⟩

/-- A number read at the home. -/
theorem State.homeNat_none {s : State} (h : s.partials = []) (a n : Nat) :
    Undisturbed s (s.homeNat a n).1 ∧ (s.homeNat a n).2 = s.mem.nat a n := by
  obtain ⟨k, e⟩ := State.homeRead_none h a n
  exact ⟨k, by simp [State.homeNat, e, Memory.nat]⟩

/-- A write at the home: the bytes written, and nothing else. -/
theorem State.homeWrite_none {s : State} (h : s.partials = []) (a : Nat) (data : List Byte) :
    Undisturbed { s with mem := s.mem.put a data } (s.homeWrite a data) := by
  have k := State.l2Touch_none h a data.length true
  simp only [State.homeWrite, State.combineRange_none (k.partials.trans h)]
  refine Undisturbed.trans ?_ (((State.scaleWrite_undisturbed _ a data.length).trans (State.markWritten_undisturbed _ a data.length)).trans
    (State.evalMonitors_undisturbed _ a data.length))
  exact ⟨by simp [k.mem], k.partials, k.strands, k.gangs, k.regs⟩

/-- A number written at the home. -/
theorem State.homePut_none {s : State} (h : s.partials = []) (a n x : Nat) : Undisturbed { s with mem := s.mem.putNat a n x } (s.homePut a n x) :=
  State.homeWrite_none h a _

/-- An element rewritten at the home: the old value, and the new one in its place. -/
theorem State.homeUpdate_none {s : State} (h : s.partials = []) (a n : Nat) (f : Nat → Nat) :
    Undisturbed { s with mem := s.mem.putNat a n (f (s.mem.nat a n)) } (s.homeUpdate a n f).1 ∧ (s.homeUpdate a n f).2 = s.mem.nat a n := by
  obtain ⟨k, e⟩ := State.homeNat_none h a n
  simp only [State.homeUpdate, e, and_true]
  have k2 := State.homePut_none (k.partials.trans h) a n (f (s.mem.nat a n))
  exact ⟨by rw [k2.mem]; simp [k.mem], k2.partials.trans k.partials, k2.strands.trans k.strands, k2.gangs.trans k.gangs, k2.regs.trans k.regs⟩

/-! ### The canonical form -/

/-- A fold of steps each of which keeps the form. -/
theorem foldl_mem_wf {α : Type} {f : State → α → State} (h : ∀ s x, s.mem.wf = true → (f s x).mem.wf = true) (l : List α) {s : State}
    (hs : s.mem.wf = true) : (l.foldl f s).mem.wf = true := by
  induction l generalizing s with
  | nil => exact hs
  | cons x l ih => exact ih (h s x hs)

theorem Undisturbed.wf {s t : State} (h : Undisturbed s t) (hs : s.mem.wf = true) : t.mem.wf = true := by rw [h.mem]; exact hs

theorem State.combineCopy_wf {s : State} (hs : s.mem.wf = true) (c : PartialCopy) : (s.combineCopy c).mem.wf = true := by
  unfold State.combineCopy
  refine (((State.scaleWrite_undisturbed _ _ _).trans (State.evalMonitors_undisturbed _ _ _)).trans (State.pay_undisturbed _ _)).wf ?_
  have soil : ∀ (l : List PartialWord) (u : State), (l.foldl (fun (s : State) w => s.soil (c.line + w.off) w.tag.size) u).mem = u.mem := by
    intro l
    induction l with
    | nil => intro u; rfl
    | cons w l ih => intro u; rw [List.foldl_cons, ih]; rfl
  have : ∀ (l : List PartialWord) (m : Memory), m.wf = true → Memory.wf (l.foldl (fun m w =>
      let a := c.line + w.off
      m.putNat a w.tag.size (w.tag.apply (BitVec.ofNat 64 (m.nat a w.tag.size)) w.val).toNat) m) = true := by
    intro l
    induction l with
    | nil => intro m hm; exact hm
    | cons w l ih => intro m hm; exact ih _ (Memory.putNat_wf hm _ _ _)
  simp only [soil]
  exact this _ _ hs

theorem State.combineLine_wf {s : State} (hs : s.mem.wf = true) (line : Nat) : (s.combineLine line).mem.wf = true := by
  refine foldl_mem_wf (fun s d hs => ?_) _ hs
  split
  · exact State.combineCopy_wf hs _
  · exact hs

theorem State.combineRange_wf {s : State} (hs : s.mem.wf = true) (a n : Nat) : (s.combineRange a n).mem.wf = true := by
  unfold State.combineRange
  split
  · exact hs
  · exact foldl_mem_wf (fun s l hs => State.combineLine_wf hs l) _ hs

theorem State.l2Evict_wf {s : State} (hs : s.mem.wf = true) (l : L2Line) : (s.l2Evict l).mem.wf = true :=
  (State.pay_undisturbed _ _).wf (State.combineLine_wf hs l.line)

theorem State.l2Alloc_wf {s t : State} (hs : s.mem.wf = true) {line : Nat} (ht : s.l2Alloc line = some t) : t.mem.wf = true := by
  unfold State.l2Alloc at ht
  split at ht
  · cases ht; exact hs
  · simp only at ht
    split at ht
    · cases ht; exact hs
    · split at ht
      · cases ht
      · split at ht
        · cases ht; exact State.l2Evict_wf hs _
        · cases ht; exact hs

theorem State.attach_wf {s : State} (hs : s.mem.wf = true) (line : Nat) : (s.attach line).1.mem.wf = true := by
  unfold State.attach
  split
  · exact hs
  · split
    · exact hs
    · exact State.combineRange_wf hs _ _

theorem State.l2Access_wf {s t : State} (hs : s.mem.wf = true) {line a n : Nat} {w : Bool} (ht : s.l2Access line a n w = some t) : t.mem.wf = true := by
  unfold State.l2Access at ht
  split at ht
  · cases ht
  · rename_i s1 h1
    have k := State.l2Alloc_wf hs h1
    split at ht
    · cases ht; exact k
    · simp only at ht
      cases ht
      have key : ∀ (c : Bool) (o : Option Sideband), (if c = true then s1.attach line else (s1, o)).1.mem.wf = true := by
        intro c o
        cases c
        · exact k
        · exact State.attach_wf k line
      exact key _ _

theorem State.l2Touch_wf {s : State} (hs : s.mem.wf = true) (a n : Nat) (w : Bool) : (s.l2Touch a n w).mem.wf = true := by
  have k := (s.l2Enter_undisturbed a n w).wf hs
  unfold State.l2Touch
  simp only
  split
  · refine foldl_mem_wf (fun s l hs => ?_) _ k
    cases e : s.l2Access l a n w with
    | none => exact hs
    | some t => exact State.l2Access_wf hs e
  · exact k

theorem State.homeRead_wf {s : State} (hs : s.mem.wf = true) (a n : Nat) : (s.homeRead a n).1.mem.wf = true :=
  State.combineRange_wf (State.l2Touch_wf hs a n false) a n

theorem State.homeNat_wf {s : State} (hs : s.mem.wf = true) (a n : Nat) : (s.homeNat a n).1.mem.wf = true := State.homeRead_wf hs a n

theorem State.homeWrite_wf {s : State} (hs : s.mem.wf = true) (a : Nat) (data : List Byte) : (s.homeWrite a data).mem.wf = true := by
  unfold State.homeWrite
  refine (((State.scaleWrite_undisturbed _ a data.length).trans (State.markWritten_undisturbed _ a data.length)).trans
    (State.evalMonitors_undisturbed _ a data.length)).wf ?_
  exact Memory.put_wf (State.combineRange_wf (State.l2Touch_wf hs a _ true) a _) a data

theorem State.homePut_wf {s : State} (hs : s.mem.wf = true) (a n x : Nat) : (s.homePut a n x).mem.wf = true := State.homeWrite_wf hs a _

theorem State.homeUpdate_wf {s : State} (hs : s.mem.wf = true) (a n : Nat) (f : Nat → Nat) : (s.homeUpdate a n f).1.mem.wf = true :=
  State.homePut_wf (State.homeNat_wf hs a n) a n _

theorem State.homeCas_wf {s : State} (hs : s.mem.wf = true) (a n old new : Nat) : (s.homeCas a n old new).1.mem.wf = true :=
  State.homeUpdate_wf hs a n _

theorem State.homePair_wf {s : State} (hs : s.mem.wf = true) (a : Nat) (wide : Bool) (x : W64) : (s.homePair a wide x).mem.wf = true :=
  State.homeUpdate_wf hs a _ _

theorem State.partialAdd_wf {s : State} (hs : s.mem.wf = true) (d : Die) (a : Nat) (t : RedTag) (x : W64) : (s.partialAdd d a t x).mem.wf = true := by
  unfold State.partialAdd
  simp only
  split
  · split
    · exact State.combineCopy_wf hs _
    · exact hs
  · exact hs

theorem State.homeReduce_wf {s : State} (hs : s.mem.wf = true) (d : Die) (a : Nat) (t : RedTag) (x : W64) : (s.homeReduce d a t x).mem.wf = true := by
  unfold State.homeReduce
  extract_lets inc
  by_cases c : (isDevice a && !inc && dieOf a != d) = true
  · rw [if_pos c]
    exact State.partialAdd_wf ((s.pay_undisturbed _).wf hs) d a t x
  · rw [if_neg c]
    refine (((State.scaleWrite_undisturbed _ a t.size).trans (State.markWritten_undisturbed _ a t.size)).trans (State.evalMonitors_undisturbed _ a t.size)).wf ?_
    have k := State.l2Touch_wf hs a t.size true
    refine Memory.putNat_wf ?_ a _ _
    show (if inc = true then (s.l2Touch a t.size true).combineRange a t.size else s.l2Touch a t.size true).mem.wf = true
    split
    · exact State.combineRange_wf k a _
    · exact k

end Sys2Proof.Machine
end

