-- ==== Sys2Proof/Laws/Calm.lean ====
section
/-! SUPPORT. When accesses at their homes are performed at once: in a calm state, where no die is dead or under reset, no vault word is upset, no line
is pinned and no partial copy is held, no read or write at a home is held back, and the state stays calm. -/

namespace Sys2Proof.Machine

open Sys2Proof

/-- A change that keeps everything which could hold an access back. -/
structure Hushed (s t : State) : Prop where
  partials : t.partials = s.partials
  regs : t.regs = s.regs
  deadDies : t.deadDies = s.deadDies
  dieReset : t.dieReset = s.dieReset
  upsets : t.vaultUpsets = s.vaultUpsets
  stalled : t.stalled = s.stalled
  pins : (∀ l ∈ s.l2, l.pins = 0) → ∀ l ∈ t.l2, l.pins = 0

theorem Hushed.refl (s : State) : Hushed s s := ⟨rfl, rfl, rfl, rfl, rfl, rfl, id⟩

theorem Hushed.trans {s t u : State} (h : Hushed s t) (k : Hushed t u) : Hushed s u :=
  ⟨k.partials.trans h.partials, k.regs.trans h.regs, k.deadDies.trans h.deadDies, k.dieReset.trans h.dieReset, k.upsets.trans h.upsets,
    k.stalled.trans h.stalled, k.pins ∘ h.pins⟩

theorem Hushed.foldl {α : Type} {f : State → α → State} (h : ∀ s x, Hushed s (f s x)) (l : List α) (s : State) : Hushed s (l.foldl f s) := by
  induction l generalizing s with
  | nil => exact .refl s
  | cons x l ih => exact (h s x).trans (ih _)

/-- A change of other fields. -/
theorem Hushed.same {s t : State} (h1 : t.partials = s.partials) (h2 : t.regs = s.regs) (h3 : t.deadDies = s.deadDies) (h4 : t.dieReset = s.dieReset)
    (h5 : t.vaultUpsets = s.vaultUpsets) (h6 : t.stalled = s.stalled) (h7 : t.l2 = s.l2) : Hushed s t :=
  ⟨h1, h2, h3, h4, h5, h6, fun h => h7 ▸ h⟩

/-- The lines of the L2 rewritten with their pins as they were. -/
theorem Hushed.lines (s : State) (f : L2Line → L2Line) (h : ∀ l, (f l).pins = l.pins) : Hushed s { s with l2 := s.l2.map f } := by
  refine ⟨rfl, rfl, rfl, rfl, rfl, rfl, fun k l hl => ?_⟩
  obtain ⟨x, hx, rfl⟩ := List.mem_map.mp hl
  rw [h]; exact k x hx

theorem State.pay_hushed (s : State) (fj : Nat) : Hushed s (s.pay fj) := by
  unfold State.pay
  split
  · exact .same rfl rfl rfl rfl rfl rfl rfl
  · exact .refl s

theorem State.send_hushed (s : State) (h : Header) (p : List Byte) : Hushed s (s.send h p) := by
  unfold State.send
  split
  · exact .refl s
  · exact (s.pay_hushed _).trans (.same rfl rfl rfl rfl rfl rfl rfl)

theorem State.sendWake_hushed (s : State) (m : Monitor) (v : Nat) (c : Bool) : Hushed s (s.sendWake m v c) := by
  unfold State.sendWake
  split
  · exact .same rfl rfl rfl rfl rfl rfl rfl
  · exact s.send_hushed _ _

theorem State.evalMonitors_hushed (s : State) (a n : Nat) : Hushed s (s.evalMonitors a n) := by
  refine Hushed.foldl (fun s m => ?_) _ s
  split
  · exact (show Hushed s { s with monitors := s.monitors.filter (· != m) } from .same rfl rfl rfl rfl rfl rfl rfl).trans (State.sendWake_hushed _ _ _ _)
  · exact .same rfl rfl rfl rfl rfl rfl rfl

theorem State.dropSideband_hushed (s : State) (v : Die) (lo hi : Nat) : Hushed s (s.dropSideband v lo hi) := by
  refine Hushed.lines s _ (fun l => ?_)
  split
  · split <;> rfl
  · rfl

theorem State.scaleWrite_hushed (s : State) (a n : Nat) : Hushed s (s.scaleWrite a n) := by
  unfold State.scaleWrite
  split
  · exact .refl s
  · refine Hushed.foldl (fun s k => ?_) _ s
    simp only
    split
    · refine Hushed.foldl (fun s l => ?_) _ s
      split
      · exact s.dropSideband_hushed _ _ _
      · exact .refl s
    · exact .refl s

theorem State.markWritten_hushed (s : State) (a n : Nat) : Hushed s (s.markWritten a n) := by
  unfold State.markWritten
  split
  · exact .refl s
  · exact .same rfl rfl rfl rfl rfl rfl rfl

theorem State.payHome_hushed (s : State) (a n : Nat) (w : Bool) : Hushed s (s.payHome a n w) := by
  unfold State.payHome
  split <;> exact s.pay_hushed _

theorem State.l1Stale_hushed (s : State) (c : CoreId) (ctx : BitVec 12) (a : W64) : Hushed s (s.l1Stale c ctx a) := by
  unfold State.l1Stale
  split
  · exact .refl s
  · exact .same rfl rfl rfl rfl rfl rfl rfl

theorem State.attach_hushed {s : State} (h : s.partials = []) (line : Nat) : Hushed s (s.attach line).1 := by
  unfold State.attach
  split
  · exact .refl s
  · split
    · exact .refl s
    · simp only [State.combineRange_none h]; exact .refl s

/-- Nothing holds an access at its home back. -/
structure State.Calm (s : State) : Prop where
  partials : s.partials = []
  deadDies : s.deadDies = []
  dieReset : s.dieReset = none
  upsets : s.vaultUpsets = []
  stalled : s.stalled = []
  pins : ∀ l ∈ s.l2, l.pins = 0
  ways : ∀ v ∈ [(0 : Die), 1, 2, 3], (field (s.reg (.ubpart v)) 27 16 + 255) / 256 < 16

theorem State.Calm.hushed {s t : State} (h : s.Calm) (k : Hushed s t) : t.Calm :=
  ⟨k.partials.trans h.partials, k.deadDies.trans h.deadDies, k.dieReset.trans h.dieReset, k.upsets.trans h.upsets, k.stalled.trans h.stalled,
    k.pins h.pins, fun v hv => by
      have e : t.reg (.ubpart v) = s.reg (.ubpart v) := by simp [State.reg, k.regs]
      exact e ▸ h.ways v hv⟩

/-- The partition leaves a way. -/
theorem State.Calm.partitionWays {s : State} (h : s.Calm) (slice : Nat) : s.partitionWays slice < 16 := by
  unfold State.partitionWays
  split
  next v hv => exact h.ways v (List.mem_of_find?_eq_some hv)
  · decide

/-- A new line, without pins. -/
theorem Hushed.put (s : State) (l : L2Line) (h : l.pins = 0) : Hushed s { s with l2 := s.l2 ++ [l] } :=
  ⟨rfl, rfl, rfl, rfl, rfl, rfl, fun k x hx => by
    rcases List.mem_append.mp hx with hx | hx
    · exact k x hx
    · exact List.mem_singleton.mp hx ▸ h⟩

theorem State.Calm.l2Alloc {s : State} (h : s.Calm) (line : Nat) : ∃ t, s.l2Alloc line = some t ∧ Hushed s t := by
  unfold State.l2Alloc
  split
  · exact ⟨s, rfl, .refl s⟩
  · simp only
    split
    · exact ⟨_, rfl, .put s _ rfl⟩
    · have key : ((List.range 16).filter (fun w => decide (s.partitionWays (s.homeSlot line).1 ≤ w))).all (fun w =>
          (s.l2.filter (fun l => l.slice == (s.homeSlot line).1 && l.set == (s.homeSlot line).2)).any (fun l => l.way == w && decide (l.pins > 0))) = false := by
        rw [List.all_eq_false]
        refine ⟨15, by simp; have := h.partitionWays (s.homeSlot line).1; omega, ?_⟩
        simp only [List.any_eq_true, not_exists, not_and]
        intro l hl
        have := h.pins l (List.mem_of_mem_filter hl)
        simp [this]
      rw [if_neg (by rw [key]; simp)]
      split
      · refine ⟨_, rfl, Hushed.trans ?_ (.put _ _ rfl)⟩
        unfold State.l2Evict
        rw [State.combineLine_none h.partials]
        exact (s.pay_hushed _).trans ⟨rfl, rfl, rfl, rfl, rfl, rfl, fun _ x hx => h.pins x (List.mem_of_mem_filter hx)⟩
      · exact ⟨_, rfl, .put s _ rfl⟩

theorem State.Calm.l2Access {s : State} (h : s.Calm) (line a n : Nat) (w : Bool) : ∃ t, s.l2Access line a n w = some t ∧ Hushed s t := by
  obtain ⟨s1, h1, k⟩ := h.l2Alloc line
  unfold State.l2Access
  rw [h1]
  simp only
  split
  · exact ⟨s1, rfl, k⟩
  · refine ⟨_, rfl, k.trans ?_⟩
    have key : ∀ (c : Bool) (o : Option Sideband), Hushed s1 (if c = true then s1.attach line else (s1, o)).1 := by
      intro c o
      cases c
      · exact .refl s1
      · exact State.attach_hushed (h.hushed k).partials line
    refine (key _ _).trans ((Hushed.lines _ _ (fun l => ?_)).trans (.same rfl rfl rfl rfl rfl rfl rfl))
    split <;> rfl

theorem State.Calm.l2Touch {s : State} (h : s.Calm) (a n : Nat) (w : Bool) : Hushed s (s.l2Touch a n w) := by
  have e : ((s.loseSector a n).vaultCode a n w).stallReset a n = s := by
    simp [State.loseSector, h.deadDies, State.vaultCode, h.upsets, State.stallReset, State.waitsReset, State.dieStopped, h.dieReset]
  unfold State.l2Touch
  simp only [e]
  have k := s.payHome_hushed a n w
  split
  · have : ∀ (l : List Nat) (u : State), u.Calm → Hushed u (l.foldl (fun s l => (s.l2Access l a n w).getD (s.stall l)) u) := by
      intro l
      induction l with
      | nil => exact fun u _ => .refl u
      | cons x l ih =>
        intro u hu
        obtain ⟨t, ht, kt⟩ := hu.l2Access x a n w
        rw [List.foldl_cons, ht]
        exact kt.trans (ih t (hu.hushed kt))
    exact k.trans (this _ _ (h.hushed k))
  · exact k

/-- A read at a home is performed at once. -/
theorem State.Calm.homeRead {s : State} (h : s.Calm) (a n : Nat) : Hushed s (s.homeRead a n).1 := by
  have k := h.l2Touch a n false
  simp only [State.homeRead, State.combineRange_none (h.hushed k).partials]
  exact k

/-- A write at a home is performed at once. -/
theorem State.Calm.homeWrite {s : State} (h : s.Calm) (a : Nat) (data : List Byte) : Hushed s (s.homeWrite a data) := by
  have k := h.l2Touch a data.length true
  simp only [State.homeWrite, State.combineRange_none (h.hushed k).partials]
  refine k.trans (Hushed.trans ?_ (((State.scaleWrite_hushed _ a data.length).trans (State.markWritten_hushed _ a data.length)).trans
    (State.evalMonitors_hushed _ a data.length)))
  exact .same rfl rfl rfl rfl rfl rfl rfl

/-- Pieces written one after another are all performed at once (R312, R313). -/
theorem State.Calm.writePieces {s : State} (h : s.Calm) (st : Strand) (a : W64) (size : Nat) (xs : List Nat) (bs : List Byte) :
    Hushed s (s.writePieces st a size xs bs) := by
  unfold State.writePieces
  generalize (List.range xs.length).zip xs = l
  induction l generalizing s with
  | nil => exact .refl s
  | cons p l ih =>
    have k := (h.homeWrite p.2 ((bs.drop (size * p.1)).take size)).trans (State.l1Stale_hushed _ st.core st.who.ctx (a + BitVec.ofNat 64 (size * p.1)))
    exact k.trans (ih (h.hushed k))

/-- Pieces read one after another are all performed at once. -/
theorem State.Calm.readPieces {s : State} (h : s.Calm) (size : Nat) (xs : List Nat) : Hushed s (s.readPieces size xs).1 := by
  unfold State.readPieces
  generalize ([] : List Byte) = bs
  induction xs generalizing s bs with
  | nil => exact .refl s
  | cons x xs ih =>
    have k := h.homeRead x size
    exact k.trans (ih (h.hushed k) _)

end Sys2Proof.Machine
end

