-- ==== Sys2Proof/Laws/Issue.lean ====
section
/-! SUPPORT. What issuing a sequence can do: one lemma for each verdict of the checks, and the state an iteration leaves that only
changes its strand. -/

namespace Sys2Proof.Machine

open Sys2Proof

theorem State.modStrand_some {s : State} {n : Nat} {st : Strand} (h : s.strands[n]? = some st) (f : Strand → Strand) :
    s.modStrand n f = { s with strands := s.strands.set n (f st) } := by
  simp [State.modStrand, h]

theorem State.modStrand_none {s : State} {n : Nat} (h : s.strands[n]? = none) (f : Strand → Strand) : s.modStrand n f = s := by
  simp [State.modStrand, h]

theorem State.modStrand_modStrand (s : State) (n : Nat) (f g : Strand → Strand) :
    (s.modStrand n f).modStrand n g = s.modStrand n (fun st => g (f st)) := by
  cases h : s.strands[n]? with
  | none => simp [State.modStrand_none h]
  | some st =>
    have hl : n < s.strands.length := by
      rcases Nat.lt_or_ge n s.strands.length with h1 | h1
      · exact h1
      · rw [List.getElem?_eq_none h1] at h; cases h
    rw [State.modStrand_some h, State.modStrand_some h,
      State.modStrand_some (st := f st) (by simp [hl])]
    simp

theorem issue_noStrand {i : Instr} {body : Body} {s : State} (h : s.strands[s.cur]? = none) :
    issue i body s = .fault .noStrand := by simp [issue, h]

theorem issue_go {i : Instr} {body : Body} {s : State} {st : Strand} {k : Nat} (h : s.strands[s.cur]? = some st)
    (ho : st.owed = none) (hv : verdict i st = .go k) (hq : (body k s).1.stalled = s.stalled) :
    issue i body s = .next (finish i s.cur k st (body k s).1 (body k s).2) := by
  simp [issue, h, owedOr, ho, hv, hq]

/-- An iteration that has met an access which cannot be performed now (R73, R466): the strand is held, and the rest is undone. -/
theorem issue_held {i : Instr} {body : Body} {s : State} {st : Strand} {k : Nat} (h : s.strands[s.cur]? = some st)
    (ho : st.owed = none) (hv : verdict i st = .go k) (hq : (body k s).1.stalled ≠ s.stalled) :
    issue i body s = .next (s.heldBack (body k s).1) := by
  simp [issue, h, owedOr, ho, hv, hq]

theorem issue_trap {i : Instr} {body : Body} {s : State} {st : Strand} {t : Trap} (h : s.strands[s.cur]? = some st)
    (hv : owedOr (verdict i st) st = .trap t) :
    issue i body s = .next ((s.modCur (fun x => { x with owed := none })).takeTrap s.cur { t with done := st.priorDone i ||| t.done }
      st.pc (if st.iter i == 0 then 0 else rptstateAt i (st.iter i))) := by
  simp [issue, h, hv]

theorem issue_empty {i : Instr} {body : Body} {s : State} {st : Strand} (h : s.strands[s.cur]? = some st)
    (ho : st.owed = none) (hv : verdict i st = .empty) :
    issue i body s = .next (s.modCur (fun st => st.retire (nextPc i st))) := by
  simp [issue, h, owedOr, ho, hv]

theorem issue_wait {i : Instr} {body : Body} {s : State} {st : Strand} (h : s.strands[s.cur]? = some st)
    (ho : st.owed = none) (hv : verdict i st = .wait) :
    issue i body s = .next (s.modCur (fun st => st.hold .register)) := by
  simp [issue, h, owedOr, ho, hv]

/-- An iteration that only changes its strand leaves the rest of the state as it was. -/
theorem issue_pure {i : Instr} {f : Nat → Strand → Strand} {s : State} {st : Strand} {k : Nat}
    (h : s.strands[s.cur]? = some st) (ho : st.owed = none) (hv : verdict i st = .go k) :
    issue i (pureBody f) s = .next { s with
      strands := s.strands.set s.cur
        (if k + 1 < seqCount i.px then (f k st).stepRpt k else (f k st).retire (nextPc i st)) } := by
  rw [issue_go h ho hv (by simp only [pureBody, State.modCur, State.modStrand]; split <;> rfl)]
  simp only [pureBody, finish, State.modCur]
  split <;> rw [State.modStrand_modStrand, State.modStrand_some h]

/-- Whatever an instruction word does, some strand issues it or no strand does. -/
theorem issue_next {i : Instr} {body : Body} {s : State} {st : Strand} (h : s.strands[s.cur]? = some st) :
    ∃ t, issue i body s = .next t := by
  simp only [issue, h]
  split <;> exact ⟨_, rfl⟩

end Sys2Proof.Machine
end

