-- ==== Sys2Proof/Laws/State.lean ====
section
/-! SUPPORT. What each update of a record leaves as it was: one lemma per field and update, so that no proof unfolds a record update; and what
the written field reads as. -/

namespace Sys2Proof.Machine

open Sys2Proof

/-! ### A configuration register -/

@[simp] theorem State.setReg_strands (s : State) (r : CReg) (v : W64) : (s.setReg r v).strands = s.strands := rfl
@[simp] theorem State.setReg_cur (s : State) (r : CReg) (v : W64) : (s.setReg r v).cur = s.cur := rfl
@[simp] theorem State.setReg_agenda (s : State) (r : CReg) (v : W64) : (s.setReg r v).agenda = s.agenda := rfl
@[simp] theorem State.setReg_gangs (s : State) (r : CReg) (v : W64) : (s.setReg r v).gangs = s.gangs := rfl
@[simp] theorem State.setReg_mem (s : State) (r : CReg) (v : W64) : (s.setReg r v).mem = s.mem := rfl
@[simp] theorem State.setReg_coreTlb (s : State) (r : CReg) (v : W64) : (s.setReg r v).coreTlb = s.coreTlb := rfl
@[simp] theorem State.setReg_quadTlb (s : State) (r : CReg) (v : W64) : (s.setReg r v).quadTlb = s.quadTlb := rfl
@[simp] theorem State.setReg_walkCache (s : State) (r : CReg) (v : W64) : (s.setReg r v).walkCache = s.walkCache := rfl
@[simp] theorem State.setReg_l1 (s : State) (r : CReg) (v : W64) : (s.setReg r v).l1 = s.l1 := rfl
@[simp] theorem State.setReg_icache (s : State) (r : CReg) (v : W64) : (s.setReg r v).icache = s.icache := rfl
@[simp] theorem State.setReg_plru (s : State) (r : CReg) (v : W64) : (s.setReg r v).plru = s.plru := rfl
@[simp] theorem State.setReg_victims (s : State) (r : CReg) (v : W64) : (s.setReg r v).victims = s.victims := rfl
@[simp] theorem State.setReg_l2 (s : State) (r : CReg) (v : W64) : (s.setReg r v).l2 = s.l2 := rfl
@[simp] theorem State.setReg_partials (s : State) (r : CReg) (v : W64) : (s.setReg r v).partials = s.partials := rfl
@[simp] theorem State.setReg_slots (s : State) (r : CReg) (v : W64) : (s.setReg r v).slots = s.slots := rfl
@[simp] theorem State.setReg_monitors (s : State) (r : CReg) (v : W64) : (s.setReg r v).monitors = s.monitors := rfl
@[simp] theorem State.setReg_wakes (s : State) (r : CReg) (v : W64) : (s.setReg r v).wakes = s.wakes := rfl
@[simp] theorem State.setReg_reqs (s : State) (r : CReg) (v : W64) : (s.setReg r v).reqs = s.reqs := rfl
@[simp] theorem State.setReg_results (s : State) (r : CReg) (v : W64) : (s.setReg r v).results = s.results := rfl
@[simp] theorem State.setReg_nextId (s : State) (r : CReg) (v : W64) : (s.setReg r v).nextId = s.nextId := rfl
@[simp] theorem State.setReg_rounds (s : State) (r : CReg) (v : W64) : (s.setReg r v).rounds = s.rounds := rfl
@[simp] theorem State.setReg_peerReqs (s : State) (r : CReg) (v : W64) : (s.setReg r v).peerReqs = s.peerReqs := rfl
@[simp] theorem State.setReg_zsent (s : State) (r : CReg) (v : W64) : (s.setReg r v).zsent = s.zsent := rfl
@[simp] theorem State.setReg_routeStale (s : State) (r : CReg) (v : W64) : (s.setReg r v).routeStale = s.routeStale := rfl
@[simp] theorem State.setReg_portsUp (s : State) (r : CReg) (v : W64) : (s.setReg r v).portsUp = s.portsUp := rfl
@[simp] theorem State.setReg_portFails (s : State) (r : CReg) (v : W64) : (s.setReg r v).portFails = s.portFails := rfl
@[simp] theorem State.setReg_linkFails (s : State) (r : CReg) (v : W64) : (s.setReg r v).linkFails = s.linkFails := rfl
@[simp] theorem State.setReg_memTries (s : State) (r : CReg) (v : W64) : (s.setReg r v).memTries = s.memTries := rfl
@[simp] theorem State.setReg_hands (s : State) (r : CReg) (v : W64) : (s.setReg r v).hands = s.hands := rfl
@[simp] theorem State.setReg_hostOut (s : State) (r : CReg) (v : W64) : (s.setReg r v).hostOut = s.hostOut := rfl
@[simp] theorem State.setReg_records (s : State) (r : CReg) (v : W64) : (s.setReg r v).records = s.records := rfl
@[simp] theorem State.setReg_flash (s : State) (r : CReg) (v : W64) : (s.setReg r v).flash = s.flash := rfl
@[simp] theorem State.setReg_boot (s : State) (r : CReg) (v : W64) : (s.setReg r v).boot = s.boot := rfl
@[simp] theorem State.setReg_stopped (s : State) (r : CReg) (v : W64) : (s.setReg r v).stopped = s.stopped := rfl
@[simp] theorem State.setReg_dieReset (s : State) (r : CReg) (v : W64) : (s.setReg r v).dieReset = s.dieReset := rfl
@[simp] theorem State.setReg_deadDies (s : State) (r : CReg) (v : W64) : (s.setReg r v).deadDies = s.deadDies := rfl
@[simp] theorem State.setReg_clockPending (s : State) (r : CReg) (v : W64) : (s.setReg r v).clockPending = s.clockPending := rfl
@[simp] theorem State.setReg_moves (s : State) (r : CReg) (v : W64) : (s.setReg r v).moves = s.moves := rfl
@[simp] theorem State.setReg_budgets (s : State) (r : CReg) (v : W64) : (s.setReg r v).budgets = s.budgets := rfl
@[simp] theorem State.setReg_losses (s : State) (r : CReg) (v : W64) : (s.setReg r v).losses = s.losses := rfl
@[simp] theorem State.setReg_thresholds (s : State) (r : CReg) (v : W64) : (s.setReg r v).thresholds = s.thresholds := rfl
@[simp] theorem State.setReg_admissions (s : State) (r : CReg) (v : W64) : (s.setReg r v).admissions = s.admissions := rfl
@[simp] theorem State.setReg_lbars (s : State) (r : CReg) (v : W64) : (s.setReg r v).lbars = s.lbars := rfl
@[simp] theorem State.setReg_keys (s : State) (r : CReg) (v : W64) : (s.setReg r v).keys = s.keys := rfl
@[simp] theorem State.setReg_keyReqs (s : State) (r : CReg) (v : W64) : (s.setReg r v).keyReqs = s.keyReqs := rfl
@[simp] theorem State.setReg_keyMsgs (s : State) (r : CReg) (v : W64) : (s.setReg r v).keyMsgs = s.keyMsgs := rfl
@[simp] theorem State.setReg_keyGrants (s : State) (r : CReg) (v : W64) : (s.setReg r v).keyGrants = s.keyGrants := rfl
@[simp] theorem State.setReg_keyRetries (s : State) (r : CReg) (v : W64) : (s.setReg r v).keyRetries = s.keyRetries := rfl
@[simp] theorem State.setReg_regions (s : State) (r : CReg) (v : W64) : (s.setReg r v).regions = s.regions := rfl
@[simp] theorem State.setReg_vaultWaits (s : State) (r : CReg) (v : W64) : (s.setReg r v).vaultWaits = s.vaultWaits := rfl
@[simp] theorem State.setReg_resizes (s : State) (r : CReg) (v : W64) : (s.setReg r v).resizes = s.resizes := rfl
@[simp] theorem State.setReg_cancels (s : State) (r : CReg) (v : W64) : (s.setReg r v).cancels = s.cancels := rfl
@[simp] theorem State.setReg_epochs (s : State) (r : CReg) (v : W64) : (s.setReg r v).epochs = s.epochs := rfl
@[simp] theorem State.setReg_posts (s : State) (r : CReg) (v : W64) : (s.setReg r v).posts = s.posts := rfl
@[simp] theorem State.setReg_channels (s : State) (r : CReg) (v : W64) : (s.setReg r v).channels = s.channels := rfl
@[simp] theorem State.setReg_queueWaits (s : State) (r : CReg) (v : W64) : (s.setReg r v).queueWaits = s.queueWaits := rfl
@[simp] theorem State.setReg_handed (s : State) (r : CReg) (v : W64) : (s.setReg r v).handed = s.handed := rfl
@[simp] theorem State.setReg_armed (s : State) (r : CReg) (v : W64) : (s.setReg r v).armed = s.armed := rfl
@[simp] theorem State.setReg_scripts (s : State) (r : CReg) (v : W64) : (s.setReg r v).scripts = s.scripts := rfl
@[simp] theorem State.setReg_pendingWrites (s : State) (r : CReg) (v : W64) : (s.setReg r v).pendingWrites = s.pendingWrites := rfl
@[simp] theorem State.setReg_mxEntries (s : State) (r : CReg) (v : W64) : (s.setReg r v).mxEntries = s.mxEntries := rfl
@[simp] theorem State.setReg_mxBusy (s : State) (r : CReg) (v : W64) : (s.setReg r v).mxBusy = s.mxBusy := rfl
@[simp] theorem State.setReg_activity (s : State) (r : CReg) (v : W64) : (s.setReg r v).activity = s.activity := rfl
@[simp] theorem State.setReg_rayOps (s : State) (r : CReg) (v : W64) : (s.setReg r v).rayOps = s.rayOps := rfl
@[simp] theorem State.setReg_rayTables (s : State) (r : CReg) (v : W64) : (s.setReg r v).rayTables = s.rayTables := rfl
@[simp] theorem State.setReg_vatErrors (s : State) (r : CReg) (v : W64) : (s.setReg r v).vatErrors = s.vatErrors := rfl
@[simp] theorem State.setReg_twills (s : State) (r : CReg) (v : W64) : (s.setReg r v).twills = s.twills := rfl
@[simp] theorem State.setReg_twillAddrs (s : State) (r : CReg) (v : W64) : (s.setReg r v).twillAddrs = s.twillAddrs := rfl
@[simp] theorem State.setReg_launches (s : State) (r : CReg) (v : W64) : (s.setReg r v).launches = s.launches := rfl
@[simp] theorem State.setReg_taken (s : State) (r : CReg) (v : W64) : (s.setReg r v).taken = s.taken := rfl
@[simp] theorem State.setReg_ticketNext (s : State) (r : CReg) (v : W64) : (s.setReg r v).ticketNext = s.ticketNext := rfl
@[simp] theorem State.setReg_keptLaunches (s : State) (r : CReg) (v : W64) : (s.setReg r v).keptLaunches = s.keptLaunches := rfl
@[simp] theorem State.setReg_swapped (s : State) (r : CReg) (v : W64) : (s.setReg r v).swapped = s.swapped := rfl
@[simp] theorem State.setReg_ctxHeld (s : State) (r : CReg) (v : W64) : (s.setReg r v).ctxHeld = s.ctxHeld := rfl
@[simp] theorem State.setReg_charges (s : State) (r : CReg) (v : W64) : (s.setReg r v).charges = s.charges := rfl
@[simp] theorem State.setReg_dieCharges (s : State) (r : CReg) (v : W64) : (s.setReg r v).dieCharges = s.dieCharges := rfl
@[simp] theorem State.setReg_headAt (s : State) (r : CReg) (v : W64) : (s.setReg r v).headAt = s.headAt := rfl
@[simp] theorem State.setReg_refills (s : State) (r : CReg) (v : W64) : (s.setReg r v).refills = s.refills := rfl
@[simp] theorem State.setReg_payer (s : State) (r : CReg) (v : W64) : (s.setReg r v).payer = s.payer := rfl
@[simp] theorem State.setReg_lost (s : State) (r : CReg) (v : W64) : (s.setReg r v).lost = s.lost := rfl
@[simp] theorem State.setReg_lostVault (s : State) (r : CReg) (v : W64) : (s.setReg r v).lostVault = s.lostVault := rfl
@[simp] theorem State.setReg_stalled (s : State) (r : CReg) (v : W64) : (s.setReg r v).stalled = s.stalled := rfl
@[simp] theorem State.setReg_memFails (s : State) (r : CReg) (v : W64) : (s.setReg r v).memFails = s.memFails := rfl
@[simp] theorem State.setReg_vaultUpsets (s : State) (r : CReg) (v : W64) : (s.setReg r v).vaultUpsets = s.vaultUpsets := rfl
@[simp] theorem State.setReg_peerArms (s : State) (r : CReg) (v : W64) : (s.setReg r v).peerArms = s.peerArms := rfl
@[simp] theorem State.setReg_clock (s : State) (r : CReg) (v : W64) : (s.setReg r v).clock = s.clock := rfl
@[simp] theorem State.setReg_ctxRun (s : State) (r : CReg) (v : W64) : (s.setReg r v).ctxRun = s.ctxRun := rfl
@[simp] theorem State.setReg_cycle (s : State) (r : CReg) (v : W64) : (s.setReg r v).cycle = s.cycle := rfl
@[simp] theorem State.setReg_stepNo (s : State) (r : CReg) (v : W64) : (s.setReg r v).stepNo = s.stepNo := rfl
@[simp] theorem State.setReg_fresh (s : State) (r : CReg) (v : W64) : (s.setReg r v).fresh = s.fresh := rfl
@[simp] theorem State.setRegField_strands (s : State) (r : CReg) (hi lo v : Nat) : (s.setRegField r hi lo v).strands = s.strands := rfl
@[simp] theorem State.setRegField_cur (s : State) (r : CReg) (hi lo v : Nat) : (s.setRegField r hi lo v).cur = s.cur := rfl
@[simp] theorem State.setRegField_agenda (s : State) (r : CReg) (hi lo v : Nat) : (s.setRegField r hi lo v).agenda = s.agenda := rfl
@[simp] theorem State.setRegField_gangs (s : State) (r : CReg) (hi lo v : Nat) : (s.setRegField r hi lo v).gangs = s.gangs := rfl
@[simp] theorem State.setRegField_mem (s : State) (r : CReg) (hi lo v : Nat) : (s.setRegField r hi lo v).mem = s.mem := rfl
@[simp] theorem State.setRegField_coreTlb (s : State) (r : CReg) (hi lo v : Nat) : (s.setRegField r hi lo v).coreTlb = s.coreTlb := rfl
@[simp] theorem State.setRegField_quadTlb (s : State) (r : CReg) (hi lo v : Nat) : (s.setRegField r hi lo v).quadTlb = s.quadTlb := rfl
@[simp] theorem State.setRegField_walkCache (s : State) (r : CReg) (hi lo v : Nat) : (s.setRegField r hi lo v).walkCache = s.walkCache := rfl
@[simp] theorem State.setRegField_l1 (s : State) (r : CReg) (hi lo v : Nat) : (s.setRegField r hi lo v).l1 = s.l1 := rfl
@[simp] theorem State.setRegField_icache (s : State) (r : CReg) (hi lo v : Nat) : (s.setRegField r hi lo v).icache = s.icache := rfl
@[simp] theorem State.setRegField_plru (s : State) (r : CReg) (hi lo v : Nat) : (s.setRegField r hi lo v).plru = s.plru := rfl
@[simp] theorem State.setRegField_victims (s : State) (r : CReg) (hi lo v : Nat) : (s.setRegField r hi lo v).victims = s.victims := rfl
@[simp] theorem State.setRegField_l2 (s : State) (r : CReg) (hi lo v : Nat) : (s.setRegField r hi lo v).l2 = s.l2 := rfl
@[simp] theorem State.setRegField_partials (s : State) (r : CReg) (hi lo v : Nat) : (s.setRegField r hi lo v).partials = s.partials := rfl
@[simp] theorem State.setRegField_slots (s : State) (r : CReg) (hi lo v : Nat) : (s.setRegField r hi lo v).slots = s.slots := rfl
@[simp] theorem State.setRegField_monitors (s : State) (r : CReg) (hi lo v : Nat) : (s.setRegField r hi lo v).monitors = s.monitors := rfl
@[simp] theorem State.setRegField_wakes (s : State) (r : CReg) (hi lo v : Nat) : (s.setRegField r hi lo v).wakes = s.wakes := rfl
@[simp] theorem State.setRegField_reqs (s : State) (r : CReg) (hi lo v : Nat) : (s.setRegField r hi lo v).reqs = s.reqs := rfl
@[simp] theorem State.setRegField_results (s : State) (r : CReg) (hi lo v : Nat) : (s.setRegField r hi lo v).results = s.results := rfl
@[simp] theorem State.setRegField_nextId (s : State) (r : CReg) (hi lo v : Nat) : (s.setRegField r hi lo v).nextId = s.nextId := rfl
@[simp] theorem State.setRegField_rounds (s : State) (r : CReg) (hi lo v : Nat) : (s.setRegField r hi lo v).rounds = s.rounds := rfl
@[simp] theorem State.setRegField_peerReqs (s : State) (r : CReg) (hi lo v : Nat) : (s.setRegField r hi lo v).peerReqs = s.peerReqs := rfl
@[simp] theorem State.setRegField_zsent (s : State) (r : CReg) (hi lo v : Nat) : (s.setRegField r hi lo v).zsent = s.zsent := rfl
@[simp] theorem State.setRegField_routeStale (s : State) (r : CReg) (hi lo v : Nat) : (s.setRegField r hi lo v).routeStale = s.routeStale := rfl
@[simp] theorem State.setRegField_portsUp (s : State) (r : CReg) (hi lo v : Nat) : (s.setRegField r hi lo v).portsUp = s.portsUp := rfl
@[simp] theorem State.setRegField_portFails (s : State) (r : CReg) (hi lo v : Nat) : (s.setRegField r hi lo v).portFails = s.portFails := rfl
@[simp] theorem State.setRegField_linkFails (s : State) (r : CReg) (hi lo v : Nat) : (s.setRegField r hi lo v).linkFails = s.linkFails := rfl
@[simp] theorem State.setRegField_memTries (s : State) (r : CReg) (hi lo v : Nat) : (s.setRegField r hi lo v).memTries = s.memTries := rfl
@[simp] theorem State.setRegField_hands (s : State) (r : CReg) (hi lo v : Nat) : (s.setRegField r hi lo v).hands = s.hands := rfl
@[simp] theorem State.setRegField_hostOut (s : State) (r : CReg) (hi lo v : Nat) : (s.setRegField r hi lo v).hostOut = s.hostOut := rfl
@[simp] theorem State.setRegField_records (s : State) (r : CReg) (hi lo v : Nat) : (s.setRegField r hi lo v).records = s.records := rfl
@[simp] theorem State.setRegField_flash (s : State) (r : CReg) (hi lo v : Nat) : (s.setRegField r hi lo v).flash = s.flash := rfl
@[simp] theorem State.setRegField_boot (s : State) (r : CReg) (hi lo v : Nat) : (s.setRegField r hi lo v).boot = s.boot := rfl
@[simp] theorem State.setRegField_stopped (s : State) (r : CReg) (hi lo v : Nat) : (s.setRegField r hi lo v).stopped = s.stopped := rfl
@[simp] theorem State.setRegField_dieReset (s : State) (r : CReg) (hi lo v : Nat) : (s.setRegField r hi lo v).dieReset = s.dieReset := rfl
@[simp] theorem State.setRegField_deadDies (s : State) (r : CReg) (hi lo v : Nat) : (s.setRegField r hi lo v).deadDies = s.deadDies := rfl
@[simp] theorem State.setRegField_clockPending (s : State) (r : CReg) (hi lo v : Nat) : (s.setRegField r hi lo v).clockPending = s.clockPending := rfl
@[simp] theorem State.setRegField_moves (s : State) (r : CReg) (hi lo v : Nat) : (s.setRegField r hi lo v).moves = s.moves := rfl
@[simp] theorem State.setRegField_budgets (s : State) (r : CReg) (hi lo v : Nat) : (s.setRegField r hi lo v).budgets = s.budgets := rfl
@[simp] theorem State.setRegField_losses (s : State) (r : CReg) (hi lo v : Nat) : (s.setRegField r hi lo v).losses = s.losses := rfl
@[simp] theorem State.setRegField_thresholds (s : State) (r : CReg) (hi lo v : Nat) : (s.setRegField r hi lo v).thresholds = s.thresholds := rfl
@[simp] theorem State.setRegField_admissions (s : State) (r : CReg) (hi lo v : Nat) : (s.setRegField r hi lo v).admissions = s.admissions := rfl
@[simp] theorem State.setRegField_lbars (s : State) (r : CReg) (hi lo v : Nat) : (s.setRegField r hi lo v).lbars = s.lbars := rfl
@[simp] theorem State.setRegField_keys (s : State) (r : CReg) (hi lo v : Nat) : (s.setRegField r hi lo v).keys = s.keys := rfl
@[simp] theorem State.setRegField_keyReqs (s : State) (r : CReg) (hi lo v : Nat) : (s.setRegField r hi lo v).keyReqs = s.keyReqs := rfl
@[simp] theorem State.setRegField_keyMsgs (s : State) (r : CReg) (hi lo v : Nat) : (s.setRegField r hi lo v).keyMsgs = s.keyMsgs := rfl
@[simp] theorem State.setRegField_keyGrants (s : State) (r : CReg) (hi lo v : Nat) : (s.setRegField r hi lo v).keyGrants = s.keyGrants := rfl
@[simp] theorem State.setRegField_keyRetries (s : State) (r : CReg) (hi lo v : Nat) : (s.setRegField r hi lo v).keyRetries = s.keyRetries := rfl
@[simp] theorem State.setRegField_regions (s : State) (r : CReg) (hi lo v : Nat) : (s.setRegField r hi lo v).regions = s.regions := rfl
@[simp] theorem State.setRegField_vaultWaits (s : State) (r : CReg) (hi lo v : Nat) : (s.setRegField r hi lo v).vaultWaits = s.vaultWaits := rfl
@[simp] theorem State.setRegField_resizes (s : State) (r : CReg) (hi lo v : Nat) : (s.setRegField r hi lo v).resizes = s.resizes := rfl
@[simp] theorem State.setRegField_cancels (s : State) (r : CReg) (hi lo v : Nat) : (s.setRegField r hi lo v).cancels = s.cancels := rfl
@[simp] theorem State.setRegField_epochs (s : State) (r : CReg) (hi lo v : Nat) : (s.setRegField r hi lo v).epochs = s.epochs := rfl
@[simp] theorem State.setRegField_posts (s : State) (r : CReg) (hi lo v : Nat) : (s.setRegField r hi lo v).posts = s.posts := rfl
@[simp] theorem State.setRegField_channels (s : State) (r : CReg) (hi lo v : Nat) : (s.setRegField r hi lo v).channels = s.channels := rfl
@[simp] theorem State.setRegField_queueWaits (s : State) (r : CReg) (hi lo v : Nat) : (s.setRegField r hi lo v).queueWaits = s.queueWaits := rfl
@[simp] theorem State.setRegField_handed (s : State) (r : CReg) (hi lo v : Nat) : (s.setRegField r hi lo v).handed = s.handed := rfl
@[simp] theorem State.setRegField_armed (s : State) (r : CReg) (hi lo v : Nat) : (s.setRegField r hi lo v).armed = s.armed := rfl
@[simp] theorem State.setRegField_scripts (s : State) (r : CReg) (hi lo v : Nat) : (s.setRegField r hi lo v).scripts = s.scripts := rfl
@[simp] theorem State.setRegField_pendingWrites (s : State) (r : CReg) (hi lo v : Nat) : (s.setRegField r hi lo v).pendingWrites = s.pendingWrites := rfl
@[simp] theorem State.setRegField_mxEntries (s : State) (r : CReg) (hi lo v : Nat) : (s.setRegField r hi lo v).mxEntries = s.mxEntries := rfl
@[simp] theorem State.setRegField_mxBusy (s : State) (r : CReg) (hi lo v : Nat) : (s.setRegField r hi lo v).mxBusy = s.mxBusy := rfl
@[simp] theorem State.setRegField_activity (s : State) (r : CReg) (hi lo v : Nat) : (s.setRegField r hi lo v).activity = s.activity := rfl
@[simp] theorem State.setRegField_rayOps (s : State) (r : CReg) (hi lo v : Nat) : (s.setRegField r hi lo v).rayOps = s.rayOps := rfl
@[simp] theorem State.setRegField_rayTables (s : State) (r : CReg) (hi lo v : Nat) : (s.setRegField r hi lo v).rayTables = s.rayTables := rfl
@[simp] theorem State.setRegField_vatErrors (s : State) (r : CReg) (hi lo v : Nat) : (s.setRegField r hi lo v).vatErrors = s.vatErrors := rfl
@[simp] theorem State.setRegField_twills (s : State) (r : CReg) (hi lo v : Nat) : (s.setRegField r hi lo v).twills = s.twills := rfl
@[simp] theorem State.setRegField_twillAddrs (s : State) (r : CReg) (hi lo v : Nat) : (s.setRegField r hi lo v).twillAddrs = s.twillAddrs := rfl
@[simp] theorem State.setRegField_launches (s : State) (r : CReg) (hi lo v : Nat) : (s.setRegField r hi lo v).launches = s.launches := rfl
@[simp] theorem State.setRegField_taken (s : State) (r : CReg) (hi lo v : Nat) : (s.setRegField r hi lo v).taken = s.taken := rfl
@[simp] theorem State.setRegField_ticketNext (s : State) (r : CReg) (hi lo v : Nat) : (s.setRegField r hi lo v).ticketNext = s.ticketNext := rfl
@[simp] theorem State.setRegField_keptLaunches (s : State) (r : CReg) (hi lo v : Nat) : (s.setRegField r hi lo v).keptLaunches = s.keptLaunches := rfl
@[simp] theorem State.setRegField_swapped (s : State) (r : CReg) (hi lo v : Nat) : (s.setRegField r hi lo v).swapped = s.swapped := rfl
@[simp] theorem State.setRegField_ctxHeld (s : State) (r : CReg) (hi lo v : Nat) : (s.setRegField r hi lo v).ctxHeld = s.ctxHeld := rfl
@[simp] theorem State.setRegField_charges (s : State) (r : CReg) (hi lo v : Nat) : (s.setRegField r hi lo v).charges = s.charges := rfl
@[simp] theorem State.setRegField_dieCharges (s : State) (r : CReg) (hi lo v : Nat) : (s.setRegField r hi lo v).dieCharges = s.dieCharges := rfl
@[simp] theorem State.setRegField_headAt (s : State) (r : CReg) (hi lo v : Nat) : (s.setRegField r hi lo v).headAt = s.headAt := rfl
@[simp] theorem State.setRegField_refills (s : State) (r : CReg) (hi lo v : Nat) : (s.setRegField r hi lo v).refills = s.refills := rfl
@[simp] theorem State.setRegField_payer (s : State) (r : CReg) (hi lo v : Nat) : (s.setRegField r hi lo v).payer = s.payer := rfl
@[simp] theorem State.setRegField_lost (s : State) (r : CReg) (hi lo v : Nat) : (s.setRegField r hi lo v).lost = s.lost := rfl
@[simp] theorem State.setRegField_lostVault (s : State) (r : CReg) (hi lo v : Nat) : (s.setRegField r hi lo v).lostVault = s.lostVault := rfl
@[simp] theorem State.setRegField_stalled (s : State) (r : CReg) (hi lo v : Nat) : (s.setRegField r hi lo v).stalled = s.stalled := rfl
@[simp] theorem State.setRegField_memFails (s : State) (r : CReg) (hi lo v : Nat) : (s.setRegField r hi lo v).memFails = s.memFails := rfl
@[simp] theorem State.setRegField_vaultUpsets (s : State) (r : CReg) (hi lo v : Nat) : (s.setRegField r hi lo v).vaultUpsets = s.vaultUpsets := rfl
@[simp] theorem State.setRegField_peerArms (s : State) (r : CReg) (hi lo v : Nat) : (s.setRegField r hi lo v).peerArms = s.peerArms := rfl
@[simp] theorem State.setRegField_clock (s : State) (r : CReg) (hi lo v : Nat) : (s.setRegField r hi lo v).clock = s.clock := rfl
@[simp] theorem State.setRegField_ctxRun (s : State) (r : CReg) (hi lo v : Nat) : (s.setRegField r hi lo v).ctxRun = s.ctxRun := rfl
@[simp] theorem State.setRegField_cycle (s : State) (r : CReg) (hi lo v : Nat) : (s.setRegField r hi lo v).cycle = s.cycle := rfl
@[simp] theorem State.setRegField_stepNo (s : State) (r : CReg) (hi lo v : Nat) : (s.setRegField r hi lo v).stepNo = s.stepNo := rfl
@[simp] theorem State.setRegField_fresh (s : State) (r : CReg) (hi lo v : Nat) : (s.setRegField r hi lo v).fresh = s.fresh := rfl

/-! ### One strand -/

@[simp] theorem State.modStrand_cur (s : State) (i : Nat) (f : Strand → Strand) : (s.modStrand i f).cur = s.cur := by unfold State.modStrand; split <;> rfl
@[simp] theorem State.modStrand_agenda (s : State) (i : Nat) (f : Strand → Strand) : (s.modStrand i f).agenda = s.agenda := by unfold State.modStrand; split <;> rfl
@[simp] theorem State.modStrand_gangs (s : State) (i : Nat) (f : Strand → Strand) : (s.modStrand i f).gangs = s.gangs := by unfold State.modStrand; split <;> rfl
@[simp] theorem State.modStrand_mem (s : State) (i : Nat) (f : Strand → Strand) : (s.modStrand i f).mem = s.mem := by unfold State.modStrand; split <;> rfl
@[simp] theorem State.modStrand_regs (s : State) (i : Nat) (f : Strand → Strand) : (s.modStrand i f).regs = s.regs := by unfold State.modStrand; split <;> rfl
@[simp] theorem State.modStrand_coreTlb (s : State) (i : Nat) (f : Strand → Strand) : (s.modStrand i f).coreTlb = s.coreTlb := by unfold State.modStrand; split <;> rfl
@[simp] theorem State.modStrand_quadTlb (s : State) (i : Nat) (f : Strand → Strand) : (s.modStrand i f).quadTlb = s.quadTlb := by unfold State.modStrand; split <;> rfl
@[simp] theorem State.modStrand_walkCache (s : State) (i : Nat) (f : Strand → Strand) : (s.modStrand i f).walkCache = s.walkCache := by unfold State.modStrand; split <;> rfl
@[simp] theorem State.modStrand_l1 (s : State) (i : Nat) (f : Strand → Strand) : (s.modStrand i f).l1 = s.l1 := by unfold State.modStrand; split <;> rfl
@[simp] theorem State.modStrand_icache (s : State) (i : Nat) (f : Strand → Strand) : (s.modStrand i f).icache = s.icache := by unfold State.modStrand; split <;> rfl
@[simp] theorem State.modStrand_plru (s : State) (i : Nat) (f : Strand → Strand) : (s.modStrand i f).plru = s.plru := by unfold State.modStrand; split <;> rfl
@[simp] theorem State.modStrand_victims (s : State) (i : Nat) (f : Strand → Strand) : (s.modStrand i f).victims = s.victims := by unfold State.modStrand; split <;> rfl
@[simp] theorem State.modStrand_l2 (s : State) (i : Nat) (f : Strand → Strand) : (s.modStrand i f).l2 = s.l2 := by unfold State.modStrand; split <;> rfl
@[simp] theorem State.modStrand_partials (s : State) (i : Nat) (f : Strand → Strand) : (s.modStrand i f).partials = s.partials := by unfold State.modStrand; split <;> rfl
@[simp] theorem State.modStrand_slots (s : State) (i : Nat) (f : Strand → Strand) : (s.modStrand i f).slots = s.slots := by unfold State.modStrand; split <;> rfl
@[simp] theorem State.modStrand_monitors (s : State) (i : Nat) (f : Strand → Strand) : (s.modStrand i f).monitors = s.monitors := by unfold State.modStrand; split <;> rfl
@[simp] theorem State.modStrand_wakes (s : State) (i : Nat) (f : Strand → Strand) : (s.modStrand i f).wakes = s.wakes := by unfold State.modStrand; split <;> rfl
@[simp] theorem State.modStrand_reqs (s : State) (i : Nat) (f : Strand → Strand) : (s.modStrand i f).reqs = s.reqs := by unfold State.modStrand; split <;> rfl
@[simp] theorem State.modStrand_results (s : State) (i : Nat) (f : Strand → Strand) : (s.modStrand i f).results = s.results := by unfold State.modStrand; split <;> rfl
@[simp] theorem State.modStrand_nextId (s : State) (i : Nat) (f : Strand → Strand) : (s.modStrand i f).nextId = s.nextId := by unfold State.modStrand; split <;> rfl
@[simp] theorem State.modStrand_rounds (s : State) (i : Nat) (f : Strand → Strand) : (s.modStrand i f).rounds = s.rounds := by unfold State.modStrand; split <;> rfl
@[simp] theorem State.modStrand_peerReqs (s : State) (i : Nat) (f : Strand → Strand) : (s.modStrand i f).peerReqs = s.peerReqs := by unfold State.modStrand; split <;> rfl
@[simp] theorem State.modStrand_zsent (s : State) (i : Nat) (f : Strand → Strand) : (s.modStrand i f).zsent = s.zsent := by unfold State.modStrand; split <;> rfl
@[simp] theorem State.modStrand_routeStale (s : State) (i : Nat) (f : Strand → Strand) : (s.modStrand i f).routeStale = s.routeStale := by unfold State.modStrand; split <;> rfl
@[simp] theorem State.modStrand_portsUp (s : State) (i : Nat) (f : Strand → Strand) : (s.modStrand i f).portsUp = s.portsUp := by unfold State.modStrand; split <;> rfl
@[simp] theorem State.modStrand_portFails (s : State) (i : Nat) (f : Strand → Strand) : (s.modStrand i f).portFails = s.portFails := by unfold State.modStrand; split <;> rfl
@[simp] theorem State.modStrand_linkFails (s : State) (i : Nat) (f : Strand → Strand) : (s.modStrand i f).linkFails = s.linkFails := by unfold State.modStrand; split <;> rfl
@[simp] theorem State.modStrand_memTries (s : State) (i : Nat) (f : Strand → Strand) : (s.modStrand i f).memTries = s.memTries := by unfold State.modStrand; split <;> rfl
@[simp] theorem State.modStrand_hands (s : State) (i : Nat) (f : Strand → Strand) : (s.modStrand i f).hands = s.hands := by unfold State.modStrand; split <;> rfl
@[simp] theorem State.modStrand_hostOut (s : State) (i : Nat) (f : Strand → Strand) : (s.modStrand i f).hostOut = s.hostOut := by unfold State.modStrand; split <;> rfl
@[simp] theorem State.modStrand_records (s : State) (i : Nat) (f : Strand → Strand) : (s.modStrand i f).records = s.records := by unfold State.modStrand; split <;> rfl
@[simp] theorem State.modStrand_flash (s : State) (i : Nat) (f : Strand → Strand) : (s.modStrand i f).flash = s.flash := by unfold State.modStrand; split <;> rfl
@[simp] theorem State.modStrand_boot (s : State) (i : Nat) (f : Strand → Strand) : (s.modStrand i f).boot = s.boot := by unfold State.modStrand; split <;> rfl
@[simp] theorem State.modStrand_stopped (s : State) (i : Nat) (f : Strand → Strand) : (s.modStrand i f).stopped = s.stopped := by unfold State.modStrand; split <;> rfl
@[simp] theorem State.modStrand_dieReset (s : State) (i : Nat) (f : Strand → Strand) : (s.modStrand i f).dieReset = s.dieReset := by unfold State.modStrand; split <;> rfl
@[simp] theorem State.modStrand_deadDies (s : State) (i : Nat) (f : Strand → Strand) : (s.modStrand i f).deadDies = s.deadDies := by unfold State.modStrand; split <;> rfl
@[simp] theorem State.modStrand_clockPending (s : State) (i : Nat) (f : Strand → Strand) : (s.modStrand i f).clockPending = s.clockPending := by unfold State.modStrand; split <;> rfl
@[simp] theorem State.modStrand_moves (s : State) (i : Nat) (f : Strand → Strand) : (s.modStrand i f).moves = s.moves := by unfold State.modStrand; split <;> rfl
@[simp] theorem State.modStrand_budgets (s : State) (i : Nat) (f : Strand → Strand) : (s.modStrand i f).budgets = s.budgets := by unfold State.modStrand; split <;> rfl
@[simp] theorem State.modStrand_losses (s : State) (i : Nat) (f : Strand → Strand) : (s.modStrand i f).losses = s.losses := by unfold State.modStrand; split <;> rfl
@[simp] theorem State.modStrand_thresholds (s : State) (i : Nat) (f : Strand → Strand) : (s.modStrand i f).thresholds = s.thresholds := by unfold State.modStrand; split <;> rfl
@[simp] theorem State.modStrand_admissions (s : State) (i : Nat) (f : Strand → Strand) : (s.modStrand i f).admissions = s.admissions := by unfold State.modStrand; split <;> rfl
@[simp] theorem State.modStrand_lbars (s : State) (i : Nat) (f : Strand → Strand) : (s.modStrand i f).lbars = s.lbars := by unfold State.modStrand; split <;> rfl
@[simp] theorem State.modStrand_keys (s : State) (i : Nat) (f : Strand → Strand) : (s.modStrand i f).keys = s.keys := by unfold State.modStrand; split <;> rfl
@[simp] theorem State.modStrand_keyReqs (s : State) (i : Nat) (f : Strand → Strand) : (s.modStrand i f).keyReqs = s.keyReqs := by unfold State.modStrand; split <;> rfl
@[simp] theorem State.modStrand_keyMsgs (s : State) (i : Nat) (f : Strand → Strand) : (s.modStrand i f).keyMsgs = s.keyMsgs := by unfold State.modStrand; split <;> rfl
@[simp] theorem State.modStrand_keyGrants (s : State) (i : Nat) (f : Strand → Strand) : (s.modStrand i f).keyGrants = s.keyGrants := by unfold State.modStrand; split <;> rfl
@[simp] theorem State.modStrand_keyRetries (s : State) (i : Nat) (f : Strand → Strand) : (s.modStrand i f).keyRetries = s.keyRetries := by unfold State.modStrand; split <;> rfl
@[simp] theorem State.modStrand_regions (s : State) (i : Nat) (f : Strand → Strand) : (s.modStrand i f).regions = s.regions := by unfold State.modStrand; split <;> rfl
@[simp] theorem State.modStrand_vaultWaits (s : State) (i : Nat) (f : Strand → Strand) : (s.modStrand i f).vaultWaits = s.vaultWaits := by unfold State.modStrand; split <;> rfl
@[simp] theorem State.modStrand_resizes (s : State) (i : Nat) (f : Strand → Strand) : (s.modStrand i f).resizes = s.resizes := by unfold State.modStrand; split <;> rfl
@[simp] theorem State.modStrand_cancels (s : State) (i : Nat) (f : Strand → Strand) : (s.modStrand i f).cancels = s.cancels := by unfold State.modStrand; split <;> rfl
@[simp] theorem State.modStrand_epochs (s : State) (i : Nat) (f : Strand → Strand) : (s.modStrand i f).epochs = s.epochs := by unfold State.modStrand; split <;> rfl
@[simp] theorem State.modStrand_posts (s : State) (i : Nat) (f : Strand → Strand) : (s.modStrand i f).posts = s.posts := by unfold State.modStrand; split <;> rfl
@[simp] theorem State.modStrand_channels (s : State) (i : Nat) (f : Strand → Strand) : (s.modStrand i f).channels = s.channels := by unfold State.modStrand; split <;> rfl
@[simp] theorem State.modStrand_queueWaits (s : State) (i : Nat) (f : Strand → Strand) : (s.modStrand i f).queueWaits = s.queueWaits := by unfold State.modStrand; split <;> rfl
@[simp] theorem State.modStrand_handed (s : State) (i : Nat) (f : Strand → Strand) : (s.modStrand i f).handed = s.handed := by unfold State.modStrand; split <;> rfl
@[simp] theorem State.modStrand_armed (s : State) (i : Nat) (f : Strand → Strand) : (s.modStrand i f).armed = s.armed := by unfold State.modStrand; split <;> rfl
@[simp] theorem State.modStrand_scripts (s : State) (i : Nat) (f : Strand → Strand) : (s.modStrand i f).scripts = s.scripts := by unfold State.modStrand; split <;> rfl
@[simp] theorem State.modStrand_pendingWrites (s : State) (i : Nat) (f : Strand → Strand) : (s.modStrand i f).pendingWrites = s.pendingWrites := by unfold State.modStrand; split <;> rfl
@[simp] theorem State.modStrand_mxEntries (s : State) (i : Nat) (f : Strand → Strand) : (s.modStrand i f).mxEntries = s.mxEntries := by unfold State.modStrand; split <;> rfl
@[simp] theorem State.modStrand_mxBusy (s : State) (i : Nat) (f : Strand → Strand) : (s.modStrand i f).mxBusy = s.mxBusy := by unfold State.modStrand; split <;> rfl
@[simp] theorem State.modStrand_activity (s : State) (i : Nat) (f : Strand → Strand) : (s.modStrand i f).activity = s.activity := by unfold State.modStrand; split <;> rfl
@[simp] theorem State.modStrand_rayOps (s : State) (i : Nat) (f : Strand → Strand) : (s.modStrand i f).rayOps = s.rayOps := by unfold State.modStrand; split <;> rfl
@[simp] theorem State.modStrand_rayTables (s : State) (i : Nat) (f : Strand → Strand) : (s.modStrand i f).rayTables = s.rayTables := by unfold State.modStrand; split <;> rfl
@[simp] theorem State.modStrand_vatErrors (s : State) (i : Nat) (f : Strand → Strand) : (s.modStrand i f).vatErrors = s.vatErrors := by unfold State.modStrand; split <;> rfl
@[simp] theorem State.modStrand_twills (s : State) (i : Nat) (f : Strand → Strand) : (s.modStrand i f).twills = s.twills := by unfold State.modStrand; split <;> rfl
@[simp] theorem State.modStrand_twillAddrs (s : State) (i : Nat) (f : Strand → Strand) : (s.modStrand i f).twillAddrs = s.twillAddrs := by unfold State.modStrand; split <;> rfl
@[simp] theorem State.modStrand_launches (s : State) (i : Nat) (f : Strand → Strand) : (s.modStrand i f).launches = s.launches := by unfold State.modStrand; split <;> rfl
@[simp] theorem State.modStrand_taken (s : State) (i : Nat) (f : Strand → Strand) : (s.modStrand i f).taken = s.taken := by unfold State.modStrand; split <;> rfl
@[simp] theorem State.modStrand_ticketNext (s : State) (i : Nat) (f : Strand → Strand) : (s.modStrand i f).ticketNext = s.ticketNext := by unfold State.modStrand; split <;> rfl
@[simp] theorem State.modStrand_keptLaunches (s : State) (i : Nat) (f : Strand → Strand) : (s.modStrand i f).keptLaunches = s.keptLaunches := by unfold State.modStrand; split <;> rfl
@[simp] theorem State.modStrand_swapped (s : State) (i : Nat) (f : Strand → Strand) : (s.modStrand i f).swapped = s.swapped := by unfold State.modStrand; split <;> rfl
@[simp] theorem State.modStrand_ctxHeld (s : State) (i : Nat) (f : Strand → Strand) : (s.modStrand i f).ctxHeld = s.ctxHeld := by unfold State.modStrand; split <;> rfl
@[simp] theorem State.modStrand_charges (s : State) (i : Nat) (f : Strand → Strand) : (s.modStrand i f).charges = s.charges := by unfold State.modStrand; split <;> rfl
@[simp] theorem State.modStrand_dieCharges (s : State) (i : Nat) (f : Strand → Strand) : (s.modStrand i f).dieCharges = s.dieCharges := by unfold State.modStrand; split <;> rfl
@[simp] theorem State.modStrand_headAt (s : State) (i : Nat) (f : Strand → Strand) : (s.modStrand i f).headAt = s.headAt := by unfold State.modStrand; split <;> rfl
@[simp] theorem State.modStrand_refills (s : State) (i : Nat) (f : Strand → Strand) : (s.modStrand i f).refills = s.refills := by unfold State.modStrand; split <;> rfl
@[simp] theorem State.modStrand_payer (s : State) (i : Nat) (f : Strand → Strand) : (s.modStrand i f).payer = s.payer := by unfold State.modStrand; split <;> rfl
@[simp] theorem State.modStrand_lost (s : State) (i : Nat) (f : Strand → Strand) : (s.modStrand i f).lost = s.lost := by unfold State.modStrand; split <;> rfl
@[simp] theorem State.modStrand_lostVault (s : State) (i : Nat) (f : Strand → Strand) : (s.modStrand i f).lostVault = s.lostVault := by unfold State.modStrand; split <;> rfl
@[simp] theorem State.modStrand_stalled (s : State) (i : Nat) (f : Strand → Strand) : (s.modStrand i f).stalled = s.stalled := by unfold State.modStrand; split <;> rfl
@[simp] theorem State.modStrand_memFails (s : State) (i : Nat) (f : Strand → Strand) : (s.modStrand i f).memFails = s.memFails := by unfold State.modStrand; split <;> rfl
@[simp] theorem State.modStrand_vaultUpsets (s : State) (i : Nat) (f : Strand → Strand) : (s.modStrand i f).vaultUpsets = s.vaultUpsets := by unfold State.modStrand; split <;> rfl
@[simp] theorem State.modStrand_peerArms (s : State) (i : Nat) (f : Strand → Strand) : (s.modStrand i f).peerArms = s.peerArms := by unfold State.modStrand; split <;> rfl
@[simp] theorem State.modStrand_clock (s : State) (i : Nat) (f : Strand → Strand) : (s.modStrand i f).clock = s.clock := by unfold State.modStrand; split <;> rfl
@[simp] theorem State.modStrand_ctxRun (s : State) (i : Nat) (f : Strand → Strand) : (s.modStrand i f).ctxRun = s.ctxRun := by unfold State.modStrand; split <;> rfl
@[simp] theorem State.modStrand_cycle (s : State) (i : Nat) (f : Strand → Strand) : (s.modStrand i f).cycle = s.cycle := by unfold State.modStrand; split <;> rfl
@[simp] theorem State.modStrand_stepNo (s : State) (i : Nat) (f : Strand → Strand) : (s.modStrand i f).stepNo = s.stepNo := by unfold State.modStrand; split <;> rfl
@[simp] theorem State.modStrand_fresh (s : State) (i : Nat) (f : Strand → Strand) : (s.modStrand i f).fresh = s.fresh := by unfold State.modStrand; split <;> rfl
@[simp] theorem State.modCur_cur (s : State) (f : Strand → Strand) : (s.modCur f).cur = s.cur := State.modStrand_cur s s.cur f
@[simp] theorem State.modCur_agenda (s : State) (f : Strand → Strand) : (s.modCur f).agenda = s.agenda := State.modStrand_agenda s s.cur f
@[simp] theorem State.modCur_gangs (s : State) (f : Strand → Strand) : (s.modCur f).gangs = s.gangs := State.modStrand_gangs s s.cur f
@[simp] theorem State.modCur_mem (s : State) (f : Strand → Strand) : (s.modCur f).mem = s.mem := State.modStrand_mem s s.cur f
@[simp] theorem State.modCur_regs (s : State) (f : Strand → Strand) : (s.modCur f).regs = s.regs := State.modStrand_regs s s.cur f
@[simp] theorem State.modCur_coreTlb (s : State) (f : Strand → Strand) : (s.modCur f).coreTlb = s.coreTlb := State.modStrand_coreTlb s s.cur f
@[simp] theorem State.modCur_quadTlb (s : State) (f : Strand → Strand) : (s.modCur f).quadTlb = s.quadTlb := State.modStrand_quadTlb s s.cur f
@[simp] theorem State.modCur_walkCache (s : State) (f : Strand → Strand) : (s.modCur f).walkCache = s.walkCache := State.modStrand_walkCache s s.cur f
@[simp] theorem State.modCur_l1 (s : State) (f : Strand → Strand) : (s.modCur f).l1 = s.l1 := State.modStrand_l1 s s.cur f
@[simp] theorem State.modCur_icache (s : State) (f : Strand → Strand) : (s.modCur f).icache = s.icache := State.modStrand_icache s s.cur f
@[simp] theorem State.modCur_plru (s : State) (f : Strand → Strand) : (s.modCur f).plru = s.plru := State.modStrand_plru s s.cur f
@[simp] theorem State.modCur_victims (s : State) (f : Strand → Strand) : (s.modCur f).victims = s.victims := State.modStrand_victims s s.cur f
@[simp] theorem State.modCur_l2 (s : State) (f : Strand → Strand) : (s.modCur f).l2 = s.l2 := State.modStrand_l2 s s.cur f
@[simp] theorem State.modCur_partials (s : State) (f : Strand → Strand) : (s.modCur f).partials = s.partials := State.modStrand_partials s s.cur f
@[simp] theorem State.modCur_slots (s : State) (f : Strand → Strand) : (s.modCur f).slots = s.slots := State.modStrand_slots s s.cur f
@[simp] theorem State.modCur_monitors (s : State) (f : Strand → Strand) : (s.modCur f).monitors = s.monitors := State.modStrand_monitors s s.cur f
@[simp] theorem State.modCur_wakes (s : State) (f : Strand → Strand) : (s.modCur f).wakes = s.wakes := State.modStrand_wakes s s.cur f
@[simp] theorem State.modCur_reqs (s : State) (f : Strand → Strand) : (s.modCur f).reqs = s.reqs := State.modStrand_reqs s s.cur f
@[simp] theorem State.modCur_results (s : State) (f : Strand → Strand) : (s.modCur f).results = s.results := State.modStrand_results s s.cur f
@[simp] theorem State.modCur_nextId (s : State) (f : Strand → Strand) : (s.modCur f).nextId = s.nextId := State.modStrand_nextId s s.cur f
@[simp] theorem State.modCur_rounds (s : State) (f : Strand → Strand) : (s.modCur f).rounds = s.rounds := State.modStrand_rounds s s.cur f
@[simp] theorem State.modCur_peerReqs (s : State) (f : Strand → Strand) : (s.modCur f).peerReqs = s.peerReqs := State.modStrand_peerReqs s s.cur f
@[simp] theorem State.modCur_zsent (s : State) (f : Strand → Strand) : (s.modCur f).zsent = s.zsent := State.modStrand_zsent s s.cur f
@[simp] theorem State.modCur_routeStale (s : State) (f : Strand → Strand) : (s.modCur f).routeStale = s.routeStale := State.modStrand_routeStale s s.cur f
@[simp] theorem State.modCur_portsUp (s : State) (f : Strand → Strand) : (s.modCur f).portsUp = s.portsUp := State.modStrand_portsUp s s.cur f
@[simp] theorem State.modCur_portFails (s : State) (f : Strand → Strand) : (s.modCur f).portFails = s.portFails := State.modStrand_portFails s s.cur f
@[simp] theorem State.modCur_linkFails (s : State) (f : Strand → Strand) : (s.modCur f).linkFails = s.linkFails := State.modStrand_linkFails s s.cur f
@[simp] theorem State.modCur_memTries (s : State) (f : Strand → Strand) : (s.modCur f).memTries = s.memTries := State.modStrand_memTries s s.cur f
@[simp] theorem State.modCur_hands (s : State) (f : Strand → Strand) : (s.modCur f).hands = s.hands := State.modStrand_hands s s.cur f
@[simp] theorem State.modCur_hostOut (s : State) (f : Strand → Strand) : (s.modCur f).hostOut = s.hostOut := State.modStrand_hostOut s s.cur f
@[simp] theorem State.modCur_records (s : State) (f : Strand → Strand) : (s.modCur f).records = s.records := State.modStrand_records s s.cur f
@[simp] theorem State.modCur_flash (s : State) (f : Strand → Strand) : (s.modCur f).flash = s.flash := State.modStrand_flash s s.cur f
@[simp] theorem State.modCur_boot (s : State) (f : Strand → Strand) : (s.modCur f).boot = s.boot := State.modStrand_boot s s.cur f
@[simp] theorem State.modCur_stopped (s : State) (f : Strand → Strand) : (s.modCur f).stopped = s.stopped := State.modStrand_stopped s s.cur f
@[simp] theorem State.modCur_dieReset (s : State) (f : Strand → Strand) : (s.modCur f).dieReset = s.dieReset := State.modStrand_dieReset s s.cur f
@[simp] theorem State.modCur_deadDies (s : State) (f : Strand → Strand) : (s.modCur f).deadDies = s.deadDies := State.modStrand_deadDies s s.cur f
@[simp] theorem State.modCur_clockPending (s : State) (f : Strand → Strand) : (s.modCur f).clockPending = s.clockPending := State.modStrand_clockPending s s.cur f
@[simp] theorem State.modCur_moves (s : State) (f : Strand → Strand) : (s.modCur f).moves = s.moves := State.modStrand_moves s s.cur f
@[simp] theorem State.modCur_budgets (s : State) (f : Strand → Strand) : (s.modCur f).budgets = s.budgets := State.modStrand_budgets s s.cur f
@[simp] theorem State.modCur_losses (s : State) (f : Strand → Strand) : (s.modCur f).losses = s.losses := State.modStrand_losses s s.cur f
@[simp] theorem State.modCur_thresholds (s : State) (f : Strand → Strand) : (s.modCur f).thresholds = s.thresholds := State.modStrand_thresholds s s.cur f
@[simp] theorem State.modCur_admissions (s : State) (f : Strand → Strand) : (s.modCur f).admissions = s.admissions := State.modStrand_admissions s s.cur f
@[simp] theorem State.modCur_lbars (s : State) (f : Strand → Strand) : (s.modCur f).lbars = s.lbars := State.modStrand_lbars s s.cur f
@[simp] theorem State.modCur_keys (s : State) (f : Strand → Strand) : (s.modCur f).keys = s.keys := State.modStrand_keys s s.cur f
@[simp] theorem State.modCur_keyReqs (s : State) (f : Strand → Strand) : (s.modCur f).keyReqs = s.keyReqs := State.modStrand_keyReqs s s.cur f
@[simp] theorem State.modCur_keyMsgs (s : State) (f : Strand → Strand) : (s.modCur f).keyMsgs = s.keyMsgs := State.modStrand_keyMsgs s s.cur f
@[simp] theorem State.modCur_keyGrants (s : State) (f : Strand → Strand) : (s.modCur f).keyGrants = s.keyGrants := State.modStrand_keyGrants s s.cur f
@[simp] theorem State.modCur_keyRetries (s : State) (f : Strand → Strand) : (s.modCur f).keyRetries = s.keyRetries := State.modStrand_keyRetries s s.cur f
@[simp] theorem State.modCur_regions (s : State) (f : Strand → Strand) : (s.modCur f).regions = s.regions := State.modStrand_regions s s.cur f
@[simp] theorem State.modCur_vaultWaits (s : State) (f : Strand → Strand) : (s.modCur f).vaultWaits = s.vaultWaits := State.modStrand_vaultWaits s s.cur f
@[simp] theorem State.modCur_resizes (s : State) (f : Strand → Strand) : (s.modCur f).resizes = s.resizes := State.modStrand_resizes s s.cur f
@[simp] theorem State.modCur_cancels (s : State) (f : Strand → Strand) : (s.modCur f).cancels = s.cancels := State.modStrand_cancels s s.cur f
@[simp] theorem State.modCur_epochs (s : State) (f : Strand → Strand) : (s.modCur f).epochs = s.epochs := State.modStrand_epochs s s.cur f
@[simp] theorem State.modCur_posts (s : State) (f : Strand → Strand) : (s.modCur f).posts = s.posts := State.modStrand_posts s s.cur f
@[simp] theorem State.modCur_channels (s : State) (f : Strand → Strand) : (s.modCur f).channels = s.channels := State.modStrand_channels s s.cur f
@[simp] theorem State.modCur_queueWaits (s : State) (f : Strand → Strand) : (s.modCur f).queueWaits = s.queueWaits := State.modStrand_queueWaits s s.cur f
@[simp] theorem State.modCur_handed (s : State) (f : Strand → Strand) : (s.modCur f).handed = s.handed := State.modStrand_handed s s.cur f
@[simp] theorem State.modCur_armed (s : State) (f : Strand → Strand) : (s.modCur f).armed = s.armed := State.modStrand_armed s s.cur f
@[simp] theorem State.modCur_scripts (s : State) (f : Strand → Strand) : (s.modCur f).scripts = s.scripts := State.modStrand_scripts s s.cur f
@[simp] theorem State.modCur_pendingWrites (s : State) (f : Strand → Strand) : (s.modCur f).pendingWrites = s.pendingWrites := State.modStrand_pendingWrites s s.cur f
@[simp] theorem State.modCur_mxEntries (s : State) (f : Strand → Strand) : (s.modCur f).mxEntries = s.mxEntries := State.modStrand_mxEntries s s.cur f
@[simp] theorem State.modCur_mxBusy (s : State) (f : Strand → Strand) : (s.modCur f).mxBusy = s.mxBusy := State.modStrand_mxBusy s s.cur f
@[simp] theorem State.modCur_activity (s : State) (f : Strand → Strand) : (s.modCur f).activity = s.activity := State.modStrand_activity s s.cur f
@[simp] theorem State.modCur_rayOps (s : State) (f : Strand → Strand) : (s.modCur f).rayOps = s.rayOps := State.modStrand_rayOps s s.cur f
@[simp] theorem State.modCur_rayTables (s : State) (f : Strand → Strand) : (s.modCur f).rayTables = s.rayTables := State.modStrand_rayTables s s.cur f
@[simp] theorem State.modCur_vatErrors (s : State) (f : Strand → Strand) : (s.modCur f).vatErrors = s.vatErrors := State.modStrand_vatErrors s s.cur f
@[simp] theorem State.modCur_twills (s : State) (f : Strand → Strand) : (s.modCur f).twills = s.twills := State.modStrand_twills s s.cur f
@[simp] theorem State.modCur_twillAddrs (s : State) (f : Strand → Strand) : (s.modCur f).twillAddrs = s.twillAddrs := State.modStrand_twillAddrs s s.cur f
@[simp] theorem State.modCur_launches (s : State) (f : Strand → Strand) : (s.modCur f).launches = s.launches := State.modStrand_launches s s.cur f
@[simp] theorem State.modCur_taken (s : State) (f : Strand → Strand) : (s.modCur f).taken = s.taken := State.modStrand_taken s s.cur f
@[simp] theorem State.modCur_ticketNext (s : State) (f : Strand → Strand) : (s.modCur f).ticketNext = s.ticketNext := State.modStrand_ticketNext s s.cur f
@[simp] theorem State.modCur_keptLaunches (s : State) (f : Strand → Strand) : (s.modCur f).keptLaunches = s.keptLaunches := State.modStrand_keptLaunches s s.cur f
@[simp] theorem State.modCur_swapped (s : State) (f : Strand → Strand) : (s.modCur f).swapped = s.swapped := State.modStrand_swapped s s.cur f
@[simp] theorem State.modCur_ctxHeld (s : State) (f : Strand → Strand) : (s.modCur f).ctxHeld = s.ctxHeld := State.modStrand_ctxHeld s s.cur f
@[simp] theorem State.modCur_charges (s : State) (f : Strand → Strand) : (s.modCur f).charges = s.charges := State.modStrand_charges s s.cur f
@[simp] theorem State.modCur_dieCharges (s : State) (f : Strand → Strand) : (s.modCur f).dieCharges = s.dieCharges := State.modStrand_dieCharges s s.cur f
@[simp] theorem State.modCur_headAt (s : State) (f : Strand → Strand) : (s.modCur f).headAt = s.headAt := State.modStrand_headAt s s.cur f
@[simp] theorem State.modCur_refills (s : State) (f : Strand → Strand) : (s.modCur f).refills = s.refills := State.modStrand_refills s s.cur f
@[simp] theorem State.modCur_payer (s : State) (f : Strand → Strand) : (s.modCur f).payer = s.payer := State.modStrand_payer s s.cur f
@[simp] theorem State.modCur_lost (s : State) (f : Strand → Strand) : (s.modCur f).lost = s.lost := State.modStrand_lost s s.cur f
@[simp] theorem State.modCur_lostVault (s : State) (f : Strand → Strand) : (s.modCur f).lostVault = s.lostVault := State.modStrand_lostVault s s.cur f
@[simp] theorem State.modCur_stalled (s : State) (f : Strand → Strand) : (s.modCur f).stalled = s.stalled := State.modStrand_stalled s s.cur f
@[simp] theorem State.modCur_memFails (s : State) (f : Strand → Strand) : (s.modCur f).memFails = s.memFails := State.modStrand_memFails s s.cur f
@[simp] theorem State.modCur_vaultUpsets (s : State) (f : Strand → Strand) : (s.modCur f).vaultUpsets = s.vaultUpsets := State.modStrand_vaultUpsets s s.cur f
@[simp] theorem State.modCur_peerArms (s : State) (f : Strand → Strand) : (s.modCur f).peerArms = s.peerArms := State.modStrand_peerArms s s.cur f
@[simp] theorem State.modCur_clock (s : State) (f : Strand → Strand) : (s.modCur f).clock = s.clock := State.modStrand_clock s s.cur f
@[simp] theorem State.modCur_ctxRun (s : State) (f : Strand → Strand) : (s.modCur f).ctxRun = s.ctxRun := State.modStrand_ctxRun s s.cur f
@[simp] theorem State.modCur_cycle (s : State) (f : Strand → Strand) : (s.modCur f).cycle = s.cycle := State.modStrand_cycle s s.cur f
@[simp] theorem State.modCur_stepNo (s : State) (f : Strand → Strand) : (s.modCur f).stepNo = s.stepNo := State.modStrand_stepNo s s.cur f
@[simp] theorem State.modCur_fresh (s : State) (f : Strand → Strand) : (s.modCur f).fresh = s.fresh := State.modStrand_fresh s s.cur f
@[simp] theorem State.modWho_cur (s : State) (w : Who) (f : Strand → Strand) : (s.modWho w f).cur = s.cur := by unfold State.modWho; split <;> simp
@[simp] theorem State.modWho_agenda (s : State) (w : Who) (f : Strand → Strand) : (s.modWho w f).agenda = s.agenda := by unfold State.modWho; split <;> simp
@[simp] theorem State.modWho_gangs (s : State) (w : Who) (f : Strand → Strand) : (s.modWho w f).gangs = s.gangs := by unfold State.modWho; split <;> simp
@[simp] theorem State.modWho_mem (s : State) (w : Who) (f : Strand → Strand) : (s.modWho w f).mem = s.mem := by unfold State.modWho; split <;> simp
@[simp] theorem State.modWho_regs (s : State) (w : Who) (f : Strand → Strand) : (s.modWho w f).regs = s.regs := by unfold State.modWho; split <;> simp
@[simp] theorem State.modWho_coreTlb (s : State) (w : Who) (f : Strand → Strand) : (s.modWho w f).coreTlb = s.coreTlb := by unfold State.modWho; split <;> simp
@[simp] theorem State.modWho_quadTlb (s : State) (w : Who) (f : Strand → Strand) : (s.modWho w f).quadTlb = s.quadTlb := by unfold State.modWho; split <;> simp
@[simp] theorem State.modWho_walkCache (s : State) (w : Who) (f : Strand → Strand) : (s.modWho w f).walkCache = s.walkCache := by unfold State.modWho; split <;> simp
@[simp] theorem State.modWho_l1 (s : State) (w : Who) (f : Strand → Strand) : (s.modWho w f).l1 = s.l1 := by unfold State.modWho; split <;> simp
@[simp] theorem State.modWho_icache (s : State) (w : Who) (f : Strand → Strand) : (s.modWho w f).icache = s.icache := by unfold State.modWho; split <;> simp
@[simp] theorem State.modWho_plru (s : State) (w : Who) (f : Strand → Strand) : (s.modWho w f).plru = s.plru := by unfold State.modWho; split <;> simp
@[simp] theorem State.modWho_victims (s : State) (w : Who) (f : Strand → Strand) : (s.modWho w f).victims = s.victims := by unfold State.modWho; split <;> simp
@[simp] theorem State.modWho_l2 (s : State) (w : Who) (f : Strand → Strand) : (s.modWho w f).l2 = s.l2 := by unfold State.modWho; split <;> simp
@[simp] theorem State.modWho_partials (s : State) (w : Who) (f : Strand → Strand) : (s.modWho w f).partials = s.partials := by unfold State.modWho; split <;> simp
@[simp] theorem State.modWho_slots (s : State) (w : Who) (f : Strand → Strand) : (s.modWho w f).slots = s.slots := by unfold State.modWho; split <;> simp
@[simp] theorem State.modWho_monitors (s : State) (w : Who) (f : Strand → Strand) : (s.modWho w f).monitors = s.monitors := by unfold State.modWho; split <;> simp
@[simp] theorem State.modWho_wakes (s : State) (w : Who) (f : Strand → Strand) : (s.modWho w f).wakes = s.wakes := by unfold State.modWho; split <;> simp
@[simp] theorem State.modWho_reqs (s : State) (w : Who) (f : Strand → Strand) : (s.modWho w f).reqs = s.reqs := by unfold State.modWho; split <;> simp
@[simp] theorem State.modWho_results (s : State) (w : Who) (f : Strand → Strand) : (s.modWho w f).results = s.results := by unfold State.modWho; split <;> simp
@[simp] theorem State.modWho_nextId (s : State) (w : Who) (f : Strand → Strand) : (s.modWho w f).nextId = s.nextId := by unfold State.modWho; split <;> simp
@[simp] theorem State.modWho_rounds (s : State) (w : Who) (f : Strand → Strand) : (s.modWho w f).rounds = s.rounds := by unfold State.modWho; split <;> simp
@[simp] theorem State.modWho_peerReqs (s : State) (w : Who) (f : Strand → Strand) : (s.modWho w f).peerReqs = s.peerReqs := by unfold State.modWho; split <;> simp
@[simp] theorem State.modWho_zsent (s : State) (w : Who) (f : Strand → Strand) : (s.modWho w f).zsent = s.zsent := by unfold State.modWho; split <;> simp
@[simp] theorem State.modWho_routeStale (s : State) (w : Who) (f : Strand → Strand) : (s.modWho w f).routeStale = s.routeStale := by unfold State.modWho; split <;> simp
@[simp] theorem State.modWho_portsUp (s : State) (w : Who) (f : Strand → Strand) : (s.modWho w f).portsUp = s.portsUp := by unfold State.modWho; split <;> simp
@[simp] theorem State.modWho_portFails (s : State) (w : Who) (f : Strand → Strand) : (s.modWho w f).portFails = s.portFails := by unfold State.modWho; split <;> simp
@[simp] theorem State.modWho_linkFails (s : State) (w : Who) (f : Strand → Strand) : (s.modWho w f).linkFails = s.linkFails := by unfold State.modWho; split <;> simp
@[simp] theorem State.modWho_memTries (s : State) (w : Who) (f : Strand → Strand) : (s.modWho w f).memTries = s.memTries := by unfold State.modWho; split <;> simp
@[simp] theorem State.modWho_hands (s : State) (w : Who) (f : Strand → Strand) : (s.modWho w f).hands = s.hands := by unfold State.modWho; split <;> simp
@[simp] theorem State.modWho_hostOut (s : State) (w : Who) (f : Strand → Strand) : (s.modWho w f).hostOut = s.hostOut := by unfold State.modWho; split <;> simp
@[simp] theorem State.modWho_records (s : State) (w : Who) (f : Strand → Strand) : (s.modWho w f).records = s.records := by unfold State.modWho; split <;> simp
@[simp] theorem State.modWho_flash (s : State) (w : Who) (f : Strand → Strand) : (s.modWho w f).flash = s.flash := by unfold State.modWho; split <;> simp
@[simp] theorem State.modWho_boot (s : State) (w : Who) (f : Strand → Strand) : (s.modWho w f).boot = s.boot := by unfold State.modWho; split <;> simp
@[simp] theorem State.modWho_stopped (s : State) (w : Who) (f : Strand → Strand) : (s.modWho w f).stopped = s.stopped := by unfold State.modWho; split <;> simp
@[simp] theorem State.modWho_dieReset (s : State) (w : Who) (f : Strand → Strand) : (s.modWho w f).dieReset = s.dieReset := by unfold State.modWho; split <;> simp
@[simp] theorem State.modWho_deadDies (s : State) (w : Who) (f : Strand → Strand) : (s.modWho w f).deadDies = s.deadDies := by unfold State.modWho; split <;> simp
@[simp] theorem State.modWho_clockPending (s : State) (w : Who) (f : Strand → Strand) : (s.modWho w f).clockPending = s.clockPending := by unfold State.modWho; split <;> simp
@[simp] theorem State.modWho_moves (s : State) (w : Who) (f : Strand → Strand) : (s.modWho w f).moves = s.moves := by unfold State.modWho; split <;> simp
@[simp] theorem State.modWho_budgets (s : State) (w : Who) (f : Strand → Strand) : (s.modWho w f).budgets = s.budgets := by unfold State.modWho; split <;> simp
@[simp] theorem State.modWho_losses (s : State) (w : Who) (f : Strand → Strand) : (s.modWho w f).losses = s.losses := by unfold State.modWho; split <;> simp
@[simp] theorem State.modWho_thresholds (s : State) (w : Who) (f : Strand → Strand) : (s.modWho w f).thresholds = s.thresholds := by unfold State.modWho; split <;> simp
@[simp] theorem State.modWho_admissions (s : State) (w : Who) (f : Strand → Strand) : (s.modWho w f).admissions = s.admissions := by unfold State.modWho; split <;> simp
@[simp] theorem State.modWho_lbars (s : State) (w : Who) (f : Strand → Strand) : (s.modWho w f).lbars = s.lbars := by unfold State.modWho; split <;> simp
@[simp] theorem State.modWho_keys (s : State) (w : Who) (f : Strand → Strand) : (s.modWho w f).keys = s.keys := by unfold State.modWho; split <;> simp
@[simp] theorem State.modWho_keyReqs (s : State) (w : Who) (f : Strand → Strand) : (s.modWho w f).keyReqs = s.keyReqs := by unfold State.modWho; split <;> simp
@[simp] theorem State.modWho_keyMsgs (s : State) (w : Who) (f : Strand → Strand) : (s.modWho w f).keyMsgs = s.keyMsgs := by unfold State.modWho; split <;> simp
@[simp] theorem State.modWho_keyGrants (s : State) (w : Who) (f : Strand → Strand) : (s.modWho w f).keyGrants = s.keyGrants := by unfold State.modWho; split <;> simp
@[simp] theorem State.modWho_keyRetries (s : State) (w : Who) (f : Strand → Strand) : (s.modWho w f).keyRetries = s.keyRetries := by unfold State.modWho; split <;> simp
@[simp] theorem State.modWho_regions (s : State) (w : Who) (f : Strand → Strand) : (s.modWho w f).regions = s.regions := by unfold State.modWho; split <;> simp
@[simp] theorem State.modWho_vaultWaits (s : State) (w : Who) (f : Strand → Strand) : (s.modWho w f).vaultWaits = s.vaultWaits := by unfold State.modWho; split <;> simp
@[simp] theorem State.modWho_resizes (s : State) (w : Who) (f : Strand → Strand) : (s.modWho w f).resizes = s.resizes := by unfold State.modWho; split <;> simp
@[simp] theorem State.modWho_cancels (s : State) (w : Who) (f : Strand → Strand) : (s.modWho w f).cancels = s.cancels := by unfold State.modWho; split <;> simp
@[simp] theorem State.modWho_epochs (s : State) (w : Who) (f : Strand → Strand) : (s.modWho w f).epochs = s.epochs := by unfold State.modWho; split <;> simp
@[simp] theorem State.modWho_posts (s : State) (w : Who) (f : Strand → Strand) : (s.modWho w f).posts = s.posts := by unfold State.modWho; split <;> simp
@[simp] theorem State.modWho_channels (s : State) (w : Who) (f : Strand → Strand) : (s.modWho w f).channels = s.channels := by unfold State.modWho; split <;> simp
@[simp] theorem State.modWho_queueWaits (s : State) (w : Who) (f : Strand → Strand) : (s.modWho w f).queueWaits = s.queueWaits := by unfold State.modWho; split <;> simp
@[simp] theorem State.modWho_handed (s : State) (w : Who) (f : Strand → Strand) : (s.modWho w f).handed = s.handed := by unfold State.modWho; split <;> simp
@[simp] theorem State.modWho_armed (s : State) (w : Who) (f : Strand → Strand) : (s.modWho w f).armed = s.armed := by unfold State.modWho; split <;> simp
@[simp] theorem State.modWho_scripts (s : State) (w : Who) (f : Strand → Strand) : (s.modWho w f).scripts = s.scripts := by unfold State.modWho; split <;> simp
@[simp] theorem State.modWho_pendingWrites (s : State) (w : Who) (f : Strand → Strand) : (s.modWho w f).pendingWrites = s.pendingWrites := by unfold State.modWho; split <;> simp
@[simp] theorem State.modWho_mxEntries (s : State) (w : Who) (f : Strand → Strand) : (s.modWho w f).mxEntries = s.mxEntries := by unfold State.modWho; split <;> simp
@[simp] theorem State.modWho_mxBusy (s : State) (w : Who) (f : Strand → Strand) : (s.modWho w f).mxBusy = s.mxBusy := by unfold State.modWho; split <;> simp
@[simp] theorem State.modWho_activity (s : State) (w : Who) (f : Strand → Strand) : (s.modWho w f).activity = s.activity := by unfold State.modWho; split <;> simp
@[simp] theorem State.modWho_rayOps (s : State) (w : Who) (f : Strand → Strand) : (s.modWho w f).rayOps = s.rayOps := by unfold State.modWho; split <;> simp
@[simp] theorem State.modWho_rayTables (s : State) (w : Who) (f : Strand → Strand) : (s.modWho w f).rayTables = s.rayTables := by unfold State.modWho; split <;> simp
@[simp] theorem State.modWho_vatErrors (s : State) (w : Who) (f : Strand → Strand) : (s.modWho w f).vatErrors = s.vatErrors := by unfold State.modWho; split <;> simp
@[simp] theorem State.modWho_twills (s : State) (w : Who) (f : Strand → Strand) : (s.modWho w f).twills = s.twills := by unfold State.modWho; split <;> simp
@[simp] theorem State.modWho_twillAddrs (s : State) (w : Who) (f : Strand → Strand) : (s.modWho w f).twillAddrs = s.twillAddrs := by unfold State.modWho; split <;> simp
@[simp] theorem State.modWho_launches (s : State) (w : Who) (f : Strand → Strand) : (s.modWho w f).launches = s.launches := by unfold State.modWho; split <;> simp
@[simp] theorem State.modWho_taken (s : State) (w : Who) (f : Strand → Strand) : (s.modWho w f).taken = s.taken := by unfold State.modWho; split <;> simp
@[simp] theorem State.modWho_ticketNext (s : State) (w : Who) (f : Strand → Strand) : (s.modWho w f).ticketNext = s.ticketNext := by unfold State.modWho; split <;> simp
@[simp] theorem State.modWho_keptLaunches (s : State) (w : Who) (f : Strand → Strand) : (s.modWho w f).keptLaunches = s.keptLaunches := by unfold State.modWho; split <;> simp
@[simp] theorem State.modWho_swapped (s : State) (w : Who) (f : Strand → Strand) : (s.modWho w f).swapped = s.swapped := by unfold State.modWho; split <;> simp
@[simp] theorem State.modWho_ctxHeld (s : State) (w : Who) (f : Strand → Strand) : (s.modWho w f).ctxHeld = s.ctxHeld := by unfold State.modWho; split <;> simp
@[simp] theorem State.modWho_charges (s : State) (w : Who) (f : Strand → Strand) : (s.modWho w f).charges = s.charges := by unfold State.modWho; split <;> simp
@[simp] theorem State.modWho_dieCharges (s : State) (w : Who) (f : Strand → Strand) : (s.modWho w f).dieCharges = s.dieCharges := by unfold State.modWho; split <;> simp
@[simp] theorem State.modWho_headAt (s : State) (w : Who) (f : Strand → Strand) : (s.modWho w f).headAt = s.headAt := by unfold State.modWho; split <;> simp
@[simp] theorem State.modWho_refills (s : State) (w : Who) (f : Strand → Strand) : (s.modWho w f).refills = s.refills := by unfold State.modWho; split <;> simp
@[simp] theorem State.modWho_payer (s : State) (w : Who) (f : Strand → Strand) : (s.modWho w f).payer = s.payer := by unfold State.modWho; split <;> simp
@[simp] theorem State.modWho_lost (s : State) (w : Who) (f : Strand → Strand) : (s.modWho w f).lost = s.lost := by unfold State.modWho; split <;> simp
@[simp] theorem State.modWho_lostVault (s : State) (w : Who) (f : Strand → Strand) : (s.modWho w f).lostVault = s.lostVault := by unfold State.modWho; split <;> simp
@[simp] theorem State.modWho_stalled (s : State) (w : Who) (f : Strand → Strand) : (s.modWho w f).stalled = s.stalled := by unfold State.modWho; split <;> simp
@[simp] theorem State.modWho_memFails (s : State) (w : Who) (f : Strand → Strand) : (s.modWho w f).memFails = s.memFails := by unfold State.modWho; split <;> simp
@[simp] theorem State.modWho_vaultUpsets (s : State) (w : Who) (f : Strand → Strand) : (s.modWho w f).vaultUpsets = s.vaultUpsets := by unfold State.modWho; split <;> simp
@[simp] theorem State.modWho_peerArms (s : State) (w : Who) (f : Strand → Strand) : (s.modWho w f).peerArms = s.peerArms := by unfold State.modWho; split <;> simp
@[simp] theorem State.modWho_clock (s : State) (w : Who) (f : Strand → Strand) : (s.modWho w f).clock = s.clock := by unfold State.modWho; split <;> simp
@[simp] theorem State.modWho_ctxRun (s : State) (w : Who) (f : Strand → Strand) : (s.modWho w f).ctxRun = s.ctxRun := by unfold State.modWho; split <;> simp
@[simp] theorem State.modWho_cycle (s : State) (w : Who) (f : Strand → Strand) : (s.modWho w f).cycle = s.cycle := by unfold State.modWho; split <;> simp
@[simp] theorem State.modWho_stepNo (s : State) (w : Who) (f : Strand → Strand) : (s.modWho w f).stepNo = s.stepNo := by unfold State.modWho; split <;> simp
@[simp] theorem State.modWho_fresh (s : State) (w : Who) (f : Strand → Strand) : (s.modWho w f).fresh = s.fresh := by unfold State.modWho; split <;> simp

/-! ### One entry of a table: the fields that most statements look at -/

@[simp] theorem State.modGang_mem (s : State) (c : BitVec 12) (n : BitVec 24) (f : Gang → Gang) : (s.modGang c n f).mem = s.mem := rfl
@[simp] theorem State.modGang_regs (s : State) (c : BitVec 12) (n : BitVec 24) (f : Gang → Gang) : (s.modGang c n f).regs = s.regs := rfl
@[simp] theorem State.modGang_strands (s : State) (c : BitVec 12) (n : BitVec 24) (f : Gang → Gang) : (s.modGang c n f).strands = s.strands := rfl
@[simp] theorem State.modGang_launches (s : State) (c : BitVec 12) (n : BitVec 24) (f : Gang → Gang) : (s.modGang c n f).launches = s.launches := rfl
@[simp] theorem State.modGang_reqs (s : State) (c : BitVec 12) (n : BitVec 24) (f : Gang → Gang) : (s.modGang c n f).reqs = s.reqs := rfl
@[simp] theorem State.modGang_results (s : State) (c : BitVec 12) (n : BitVec 24) (f : Gang → Gang) : (s.modGang c n f).results = s.results := rfl
@[simp] theorem State.modGang_cycle (s : State) (c : BitVec 12) (n : BitVec 24) (f : Gang → Gang) : (s.modGang c n f).cycle = s.cycle := rfl
@[simp] theorem State.modGang_cur (s : State) (c : BitVec 12) (n : BitVec 24) (f : Gang → Gang) : (s.modGang c n f).cur = s.cur := rfl
@[simp] theorem State.modGang_records (s : State) (c : BitVec 12) (n : BitVec 24) (f : Gang → Gang) : (s.modGang c n f).records = s.records := rfl
@[simp] theorem State.modGang_l1 (s : State) (c : BitVec 12) (n : BitVec 24) (f : Gang → Gang) : (s.modGang c n f).l1 = s.l1 := rfl
@[simp] theorem State.modGang_icache (s : State) (c : BitVec 12) (n : BitVec 24) (f : Gang → Gang) : (s.modGang c n f).icache = s.icache := rfl
@[simp] theorem State.modGang_l2 (s : State) (c : BitVec 12) (n : BitVec 24) (f : Gang → Gang) : (s.modGang c n f).l2 = s.l2 := rfl
@[simp] theorem State.modGang_channels (s : State) (c : BitVec 12) (n : BitVec 24) (f : Gang → Gang) : (s.modGang c n f).channels = s.channels := rfl
@[simp] theorem State.modGang_mxEntries (s : State) (c : BitVec 12) (n : BitVec 24) (f : Gang → Gang) : (s.modGang c n f).mxEntries = s.mxEntries := rfl
@[simp] theorem State.modGang_twills (s : State) (c : BitVec 12) (n : BitVec 24) (f : Gang → Gang) : (s.modGang c n f).twills = s.twills := rfl
@[simp] theorem State.modGang_partials (s : State) (c : BitVec 12) (n : BitVec 24) (f : Gang → Gang) : (s.modGang c n f).partials = s.partials := rfl
@[simp] theorem State.modGang_peerReqs (s : State) (c : BitVec 12) (n : BitVec 24) (f : Gang → Gang) : (s.modGang c n f).peerReqs = s.peerReqs := rfl
@[simp] theorem State.modGang_slots (s : State) (c : BitVec 12) (n : BitVec 24) (f : Gang → Gang) : (s.modGang c n f).slots = s.slots := rfl
@[simp] theorem State.modGang_keys (s : State) (c : BitVec 12) (n : BitVec 24) (f : Gang → Gang) : (s.modGang c n f).keys = s.keys := rfl
@[simp] theorem State.modChannel_mem (s : State) (id : Nat) (f : Channel → Channel) : (s.modChannel id f).mem = s.mem := rfl
@[simp] theorem State.modChannel_regs (s : State) (id : Nat) (f : Channel → Channel) : (s.modChannel id f).regs = s.regs := rfl
@[simp] theorem State.modChannel_strands (s : State) (id : Nat) (f : Channel → Channel) : (s.modChannel id f).strands = s.strands := rfl
@[simp] theorem State.modChannel_gangs (s : State) (id : Nat) (f : Channel → Channel) : (s.modChannel id f).gangs = s.gangs := rfl
@[simp] theorem State.modChannel_launches (s : State) (id : Nat) (f : Channel → Channel) : (s.modChannel id f).launches = s.launches := rfl
@[simp] theorem State.modChannel_reqs (s : State) (id : Nat) (f : Channel → Channel) : (s.modChannel id f).reqs = s.reqs := rfl
@[simp] theorem State.modChannel_results (s : State) (id : Nat) (f : Channel → Channel) : (s.modChannel id f).results = s.results := rfl
@[simp] theorem State.modChannel_cycle (s : State) (id : Nat) (f : Channel → Channel) : (s.modChannel id f).cycle = s.cycle := rfl
@[simp] theorem State.modChannel_cur (s : State) (id : Nat) (f : Channel → Channel) : (s.modChannel id f).cur = s.cur := rfl
@[simp] theorem State.modChannel_records (s : State) (id : Nat) (f : Channel → Channel) : (s.modChannel id f).records = s.records := rfl
@[simp] theorem State.modChannel_l1 (s : State) (id : Nat) (f : Channel → Channel) : (s.modChannel id f).l1 = s.l1 := rfl
@[simp] theorem State.modChannel_icache (s : State) (id : Nat) (f : Channel → Channel) : (s.modChannel id f).icache = s.icache := rfl
@[simp] theorem State.modChannel_l2 (s : State) (id : Nat) (f : Channel → Channel) : (s.modChannel id f).l2 = s.l2 := rfl
@[simp] theorem State.modChannel_mxEntries (s : State) (id : Nat) (f : Channel → Channel) : (s.modChannel id f).mxEntries = s.mxEntries := rfl
@[simp] theorem State.modChannel_twills (s : State) (id : Nat) (f : Channel → Channel) : (s.modChannel id f).twills = s.twills := rfl
@[simp] theorem State.modChannel_partials (s : State) (id : Nat) (f : Channel → Channel) : (s.modChannel id f).partials = s.partials := rfl
@[simp] theorem State.modChannel_peerReqs (s : State) (id : Nat) (f : Channel → Channel) : (s.modChannel id f).peerReqs = s.peerReqs := rfl
@[simp] theorem State.modChannel_slots (s : State) (id : Nat) (f : Channel → Channel) : (s.modChannel id f).slots = s.slots := rfl
@[simp] theorem State.modChannel_keys (s : State) (id : Nat) (f : Channel → Channel) : (s.modChannel id f).keys = s.keys := rfl
@[simp] theorem State.modLaunch_mem (s : State) (k : W64) (f : Launch → Launch) : (s.modLaunch k f).mem = s.mem := rfl
@[simp] theorem State.modLaunch_regs (s : State) (k : W64) (f : Launch → Launch) : (s.modLaunch k f).regs = s.regs := rfl
@[simp] theorem State.modLaunch_strands (s : State) (k : W64) (f : Launch → Launch) : (s.modLaunch k f).strands = s.strands := rfl
@[simp] theorem State.modLaunch_gangs (s : State) (k : W64) (f : Launch → Launch) : (s.modLaunch k f).gangs = s.gangs := rfl
@[simp] theorem State.modLaunch_reqs (s : State) (k : W64) (f : Launch → Launch) : (s.modLaunch k f).reqs = s.reqs := rfl
@[simp] theorem State.modLaunch_results (s : State) (k : W64) (f : Launch → Launch) : (s.modLaunch k f).results = s.results := rfl
@[simp] theorem State.modLaunch_cycle (s : State) (k : W64) (f : Launch → Launch) : (s.modLaunch k f).cycle = s.cycle := rfl
@[simp] theorem State.modLaunch_cur (s : State) (k : W64) (f : Launch → Launch) : (s.modLaunch k f).cur = s.cur := rfl
@[simp] theorem State.modLaunch_records (s : State) (k : W64) (f : Launch → Launch) : (s.modLaunch k f).records = s.records := rfl
@[simp] theorem State.modLaunch_l1 (s : State) (k : W64) (f : Launch → Launch) : (s.modLaunch k f).l1 = s.l1 := rfl
@[simp] theorem State.modLaunch_icache (s : State) (k : W64) (f : Launch → Launch) : (s.modLaunch k f).icache = s.icache := rfl
@[simp] theorem State.modLaunch_l2 (s : State) (k : W64) (f : Launch → Launch) : (s.modLaunch k f).l2 = s.l2 := rfl
@[simp] theorem State.modLaunch_channels (s : State) (k : W64) (f : Launch → Launch) : (s.modLaunch k f).channels = s.channels := rfl
@[simp] theorem State.modLaunch_mxEntries (s : State) (k : W64) (f : Launch → Launch) : (s.modLaunch k f).mxEntries = s.mxEntries := rfl
@[simp] theorem State.modLaunch_twills (s : State) (k : W64) (f : Launch → Launch) : (s.modLaunch k f).twills = s.twills := rfl
@[simp] theorem State.modLaunch_partials (s : State) (k : W64) (f : Launch → Launch) : (s.modLaunch k f).partials = s.partials := rfl
@[simp] theorem State.modLaunch_peerReqs (s : State) (k : W64) (f : Launch → Launch) : (s.modLaunch k f).peerReqs = s.peerReqs := rfl
@[simp] theorem State.modLaunch_slots (s : State) (k : W64) (f : Launch → Launch) : (s.modLaunch k f).slots = s.slots := rfl
@[simp] theorem State.modLaunch_keys (s : State) (k : W64) (f : Launch → Launch) : (s.modLaunch k f).keys = s.keys := rfl
@[simp] theorem State.modEntry_mem (s : State) (id : Nat) (f : MxEntry → MxEntry) : (s.modEntry id f).mem = s.mem := rfl
@[simp] theorem State.modEntry_regs (s : State) (id : Nat) (f : MxEntry → MxEntry) : (s.modEntry id f).regs = s.regs := rfl
@[simp] theorem State.modEntry_strands (s : State) (id : Nat) (f : MxEntry → MxEntry) : (s.modEntry id f).strands = s.strands := rfl
@[simp] theorem State.modEntry_gangs (s : State) (id : Nat) (f : MxEntry → MxEntry) : (s.modEntry id f).gangs = s.gangs := rfl
@[simp] theorem State.modEntry_launches (s : State) (id : Nat) (f : MxEntry → MxEntry) : (s.modEntry id f).launches = s.launches := rfl
@[simp] theorem State.modEntry_reqs (s : State) (id : Nat) (f : MxEntry → MxEntry) : (s.modEntry id f).reqs = s.reqs := rfl
@[simp] theorem State.modEntry_results (s : State) (id : Nat) (f : MxEntry → MxEntry) : (s.modEntry id f).results = s.results := rfl
@[simp] theorem State.modEntry_cycle (s : State) (id : Nat) (f : MxEntry → MxEntry) : (s.modEntry id f).cycle = s.cycle := rfl
@[simp] theorem State.modEntry_cur (s : State) (id : Nat) (f : MxEntry → MxEntry) : (s.modEntry id f).cur = s.cur := rfl
@[simp] theorem State.modEntry_records (s : State) (id : Nat) (f : MxEntry → MxEntry) : (s.modEntry id f).records = s.records := rfl
@[simp] theorem State.modEntry_l1 (s : State) (id : Nat) (f : MxEntry → MxEntry) : (s.modEntry id f).l1 = s.l1 := rfl
@[simp] theorem State.modEntry_icache (s : State) (id : Nat) (f : MxEntry → MxEntry) : (s.modEntry id f).icache = s.icache := rfl
@[simp] theorem State.modEntry_l2 (s : State) (id : Nat) (f : MxEntry → MxEntry) : (s.modEntry id f).l2 = s.l2 := rfl
@[simp] theorem State.modEntry_channels (s : State) (id : Nat) (f : MxEntry → MxEntry) : (s.modEntry id f).channels = s.channels := rfl
@[simp] theorem State.modEntry_twills (s : State) (id : Nat) (f : MxEntry → MxEntry) : (s.modEntry id f).twills = s.twills := rfl
@[simp] theorem State.modEntry_partials (s : State) (id : Nat) (f : MxEntry → MxEntry) : (s.modEntry id f).partials = s.partials := rfl
@[simp] theorem State.modEntry_peerReqs (s : State) (id : Nat) (f : MxEntry → MxEntry) : (s.modEntry id f).peerReqs = s.peerReqs := rfl
@[simp] theorem State.modEntry_slots (s : State) (id : Nat) (f : MxEntry → MxEntry) : (s.modEntry id f).slots = s.slots := rfl
@[simp] theorem State.modEntry_keys (s : State) (id : Nat) (f : MxEntry → MxEntry) : (s.modEntry id f).keys = s.keys := rfl
@[simp] theorem State.modTwill_mem (s : State) (id : Nat) (f : TwillOp → TwillOp) : (s.modTwill id f).mem = s.mem := rfl
@[simp] theorem State.modTwill_regs (s : State) (id : Nat) (f : TwillOp → TwillOp) : (s.modTwill id f).regs = s.regs := rfl
@[simp] theorem State.modTwill_strands (s : State) (id : Nat) (f : TwillOp → TwillOp) : (s.modTwill id f).strands = s.strands := rfl
@[simp] theorem State.modTwill_gangs (s : State) (id : Nat) (f : TwillOp → TwillOp) : (s.modTwill id f).gangs = s.gangs := rfl
@[simp] theorem State.modTwill_launches (s : State) (id : Nat) (f : TwillOp → TwillOp) : (s.modTwill id f).launches = s.launches := rfl
@[simp] theorem State.modTwill_reqs (s : State) (id : Nat) (f : TwillOp → TwillOp) : (s.modTwill id f).reqs = s.reqs := rfl
@[simp] theorem State.modTwill_results (s : State) (id : Nat) (f : TwillOp → TwillOp) : (s.modTwill id f).results = s.results := rfl
@[simp] theorem State.modTwill_cycle (s : State) (id : Nat) (f : TwillOp → TwillOp) : (s.modTwill id f).cycle = s.cycle := rfl
@[simp] theorem State.modTwill_cur (s : State) (id : Nat) (f : TwillOp → TwillOp) : (s.modTwill id f).cur = s.cur := rfl
@[simp] theorem State.modTwill_records (s : State) (id : Nat) (f : TwillOp → TwillOp) : (s.modTwill id f).records = s.records := rfl
@[simp] theorem State.modTwill_l1 (s : State) (id : Nat) (f : TwillOp → TwillOp) : (s.modTwill id f).l1 = s.l1 := rfl
@[simp] theorem State.modTwill_icache (s : State) (id : Nat) (f : TwillOp → TwillOp) : (s.modTwill id f).icache = s.icache := rfl
@[simp] theorem State.modTwill_l2 (s : State) (id : Nat) (f : TwillOp → TwillOp) : (s.modTwill id f).l2 = s.l2 := rfl
@[simp] theorem State.modTwill_channels (s : State) (id : Nat) (f : TwillOp → TwillOp) : (s.modTwill id f).channels = s.channels := rfl
@[simp] theorem State.modTwill_mxEntries (s : State) (id : Nat) (f : TwillOp → TwillOp) : (s.modTwill id f).mxEntries = s.mxEntries := rfl
@[simp] theorem State.modTwill_partials (s : State) (id : Nat) (f : TwillOp → TwillOp) : (s.modTwill id f).partials = s.partials := rfl
@[simp] theorem State.modTwill_peerReqs (s : State) (id : Nat) (f : TwillOp → TwillOp) : (s.modTwill id f).peerReqs = s.peerReqs := rfl
@[simp] theorem State.modTwill_slots (s : State) (id : Nat) (f : TwillOp → TwillOp) : (s.modTwill id f).slots = s.slots := rfl
@[simp] theorem State.modTwill_keys (s : State) (id : Nat) (f : TwillOp → TwillOp) : (s.modTwill id f).keys = s.keys := rfl
@[simp] theorem State.count_mem (s : State) (f : FieldRecords → FieldRecords) : (s.count f).mem = s.mem := rfl
@[simp] theorem State.count_regs (s : State) (f : FieldRecords → FieldRecords) : (s.count f).regs = s.regs := rfl
@[simp] theorem State.count_strands (s : State) (f : FieldRecords → FieldRecords) : (s.count f).strands = s.strands := rfl
@[simp] theorem State.count_gangs (s : State) (f : FieldRecords → FieldRecords) : (s.count f).gangs = s.gangs := rfl
@[simp] theorem State.count_launches (s : State) (f : FieldRecords → FieldRecords) : (s.count f).launches = s.launches := rfl
@[simp] theorem State.count_reqs (s : State) (f : FieldRecords → FieldRecords) : (s.count f).reqs = s.reqs := rfl
@[simp] theorem State.count_results (s : State) (f : FieldRecords → FieldRecords) : (s.count f).results = s.results := rfl
@[simp] theorem State.count_cycle (s : State) (f : FieldRecords → FieldRecords) : (s.count f).cycle = s.cycle := rfl
@[simp] theorem State.count_cur (s : State) (f : FieldRecords → FieldRecords) : (s.count f).cur = s.cur := rfl
@[simp] theorem State.count_l1 (s : State) (f : FieldRecords → FieldRecords) : (s.count f).l1 = s.l1 := rfl
@[simp] theorem State.count_icache (s : State) (f : FieldRecords → FieldRecords) : (s.count f).icache = s.icache := rfl
@[simp] theorem State.count_l2 (s : State) (f : FieldRecords → FieldRecords) : (s.count f).l2 = s.l2 := rfl
@[simp] theorem State.count_channels (s : State) (f : FieldRecords → FieldRecords) : (s.count f).channels = s.channels := rfl
@[simp] theorem State.count_mxEntries (s : State) (f : FieldRecords → FieldRecords) : (s.count f).mxEntries = s.mxEntries := rfl
@[simp] theorem State.count_twills (s : State) (f : FieldRecords → FieldRecords) : (s.count f).twills = s.twills := rfl
@[simp] theorem State.count_partials (s : State) (f : FieldRecords → FieldRecords) : (s.count f).partials = s.partials := rfl
@[simp] theorem State.count_peerReqs (s : State) (f : FieldRecords → FieldRecords) : (s.count f).peerReqs = s.peerReqs := rfl
@[simp] theorem State.count_slots (s : State) (f : FieldRecords → FieldRecords) : (s.count f).slots = s.slots := rfl
@[simp] theorem State.count_keys (s : State) (f : FieldRecords → FieldRecords) : (s.count f).keys = s.keys := rfl
@[simp] theorem State.tellHost_mem (s : State) (bs : List Byte) (e : Bool) : (s.tellHost bs e).mem = s.mem := rfl
@[simp] theorem State.tellHost_regs (s : State) (bs : List Byte) (e : Bool) : (s.tellHost bs e).regs = s.regs := rfl
@[simp] theorem State.tellHost_strands (s : State) (bs : List Byte) (e : Bool) : (s.tellHost bs e).strands = s.strands := rfl
@[simp] theorem State.tellHost_gangs (s : State) (bs : List Byte) (e : Bool) : (s.tellHost bs e).gangs = s.gangs := rfl
@[simp] theorem State.tellHost_launches (s : State) (bs : List Byte) (e : Bool) : (s.tellHost bs e).launches = s.launches := rfl
@[simp] theorem State.tellHost_reqs (s : State) (bs : List Byte) (e : Bool) : (s.tellHost bs e).reqs = s.reqs := rfl
@[simp] theorem State.tellHost_results (s : State) (bs : List Byte) (e : Bool) : (s.tellHost bs e).results = s.results := rfl
@[simp] theorem State.tellHost_cycle (s : State) (bs : List Byte) (e : Bool) : (s.tellHost bs e).cycle = s.cycle := rfl
@[simp] theorem State.tellHost_cur (s : State) (bs : List Byte) (e : Bool) : (s.tellHost bs e).cur = s.cur := rfl
@[simp] theorem State.tellHost_records (s : State) (bs : List Byte) (e : Bool) : (s.tellHost bs e).records = s.records := rfl
@[simp] theorem State.tellHost_l1 (s : State) (bs : List Byte) (e : Bool) : (s.tellHost bs e).l1 = s.l1 := rfl
@[simp] theorem State.tellHost_icache (s : State) (bs : List Byte) (e : Bool) : (s.tellHost bs e).icache = s.icache := rfl
@[simp] theorem State.tellHost_l2 (s : State) (bs : List Byte) (e : Bool) : (s.tellHost bs e).l2 = s.l2 := rfl
@[simp] theorem State.tellHost_channels (s : State) (bs : List Byte) (e : Bool) : (s.tellHost bs e).channels = s.channels := rfl
@[simp] theorem State.tellHost_mxEntries (s : State) (bs : List Byte) (e : Bool) : (s.tellHost bs e).mxEntries = s.mxEntries := rfl
@[simp] theorem State.tellHost_twills (s : State) (bs : List Byte) (e : Bool) : (s.tellHost bs e).twills = s.twills := rfl
@[simp] theorem State.tellHost_partials (s : State) (bs : List Byte) (e : Bool) : (s.tellHost bs e).partials = s.partials := rfl
@[simp] theorem State.tellHost_peerReqs (s : State) (bs : List Byte) (e : Bool) : (s.tellHost bs e).peerReqs = s.peerReqs := rfl
@[simp] theorem State.tellHost_slots (s : State) (bs : List Byte) (e : Bool) : (s.tellHost bs e).slots = s.slots := rfl
@[simp] theorem State.tellHost_keys (s : State) (bs : List Byte) (e : Bool) : (s.tellHost bs e).keys = s.keys := rfl
@[simp] theorem State.l1Drop_mem (s : State) (p : CoreId → BitVec 12 → BitVec 50 → Bool) : (s.l1Drop p).mem = s.mem := rfl
@[simp] theorem State.l1Drop_regs (s : State) (p : CoreId → BitVec 12 → BitVec 50 → Bool) : (s.l1Drop p).regs = s.regs := rfl
@[simp] theorem State.l1Drop_strands (s : State) (p : CoreId → BitVec 12 → BitVec 50 → Bool) : (s.l1Drop p).strands = s.strands := rfl
@[simp] theorem State.l1Drop_gangs (s : State) (p : CoreId → BitVec 12 → BitVec 50 → Bool) : (s.l1Drop p).gangs = s.gangs := rfl
@[simp] theorem State.l1Drop_launches (s : State) (p : CoreId → BitVec 12 → BitVec 50 → Bool) : (s.l1Drop p).launches = s.launches := rfl
@[simp] theorem State.l1Drop_reqs (s : State) (p : CoreId → BitVec 12 → BitVec 50 → Bool) : (s.l1Drop p).reqs = s.reqs := rfl
@[simp] theorem State.l1Drop_results (s : State) (p : CoreId → BitVec 12 → BitVec 50 → Bool) : (s.l1Drop p).results = s.results := rfl
@[simp] theorem State.l1Drop_cycle (s : State) (p : CoreId → BitVec 12 → BitVec 50 → Bool) : (s.l1Drop p).cycle = s.cycle := rfl
@[simp] theorem State.l1Drop_cur (s : State) (p : CoreId → BitVec 12 → BitVec 50 → Bool) : (s.l1Drop p).cur = s.cur := rfl
@[simp] theorem State.l1Drop_records (s : State) (p : CoreId → BitVec 12 → BitVec 50 → Bool) : (s.l1Drop p).records = s.records := rfl
@[simp] theorem State.l1Drop_icache (s : State) (p : CoreId → BitVec 12 → BitVec 50 → Bool) : (s.l1Drop p).icache = s.icache := rfl
@[simp] theorem State.l1Drop_l2 (s : State) (p : CoreId → BitVec 12 → BitVec 50 → Bool) : (s.l1Drop p).l2 = s.l2 := rfl
@[simp] theorem State.l1Drop_channels (s : State) (p : CoreId → BitVec 12 → BitVec 50 → Bool) : (s.l1Drop p).channels = s.channels := rfl
@[simp] theorem State.l1Drop_mxEntries (s : State) (p : CoreId → BitVec 12 → BitVec 50 → Bool) : (s.l1Drop p).mxEntries = s.mxEntries := rfl
@[simp] theorem State.l1Drop_twills (s : State) (p : CoreId → BitVec 12 → BitVec 50 → Bool) : (s.l1Drop p).twills = s.twills := rfl
@[simp] theorem State.l1Drop_partials (s : State) (p : CoreId → BitVec 12 → BitVec 50 → Bool) : (s.l1Drop p).partials = s.partials := rfl
@[simp] theorem State.l1Drop_peerReqs (s : State) (p : CoreId → BitVec 12 → BitVec 50 → Bool) : (s.l1Drop p).peerReqs = s.peerReqs := rfl
@[simp] theorem State.l1Drop_slots (s : State) (p : CoreId → BitVec 12 → BitVec 50 → Bool) : (s.l1Drop p).slots = s.slots := rfl
@[simp] theorem State.l1Drop_keys (s : State) (p : CoreId → BitVec 12 → BitVec 50 → Bool) : (s.l1Drop p).keys = s.keys := rfl
@[simp] theorem State.icDrop_mem (s : State) (p : Die → Quad → BitVec 12 → BitVec 50 → Bool) : (s.icDrop p).mem = s.mem := rfl
@[simp] theorem State.icDrop_regs (s : State) (p : Die → Quad → BitVec 12 → BitVec 50 → Bool) : (s.icDrop p).regs = s.regs := rfl
@[simp] theorem State.icDrop_strands (s : State) (p : Die → Quad → BitVec 12 → BitVec 50 → Bool) : (s.icDrop p).strands = s.strands := rfl
@[simp] theorem State.icDrop_gangs (s : State) (p : Die → Quad → BitVec 12 → BitVec 50 → Bool) : (s.icDrop p).gangs = s.gangs := rfl
@[simp] theorem State.icDrop_launches (s : State) (p : Die → Quad → BitVec 12 → BitVec 50 → Bool) : (s.icDrop p).launches = s.launches := rfl
@[simp] theorem State.icDrop_reqs (s : State) (p : Die → Quad → BitVec 12 → BitVec 50 → Bool) : (s.icDrop p).reqs = s.reqs := rfl
@[simp] theorem State.icDrop_results (s : State) (p : Die → Quad → BitVec 12 → BitVec 50 → Bool) : (s.icDrop p).results = s.results := rfl
@[simp] theorem State.icDrop_cycle (s : State) (p : Die → Quad → BitVec 12 → BitVec 50 → Bool) : (s.icDrop p).cycle = s.cycle := rfl
@[simp] theorem State.icDrop_cur (s : State) (p : Die → Quad → BitVec 12 → BitVec 50 → Bool) : (s.icDrop p).cur = s.cur := rfl
@[simp] theorem State.icDrop_records (s : State) (p : Die → Quad → BitVec 12 → BitVec 50 → Bool) : (s.icDrop p).records = s.records := rfl
@[simp] theorem State.icDrop_l1 (s : State) (p : Die → Quad → BitVec 12 → BitVec 50 → Bool) : (s.icDrop p).l1 = s.l1 := rfl
@[simp] theorem State.icDrop_l2 (s : State) (p : Die → Quad → BitVec 12 → BitVec 50 → Bool) : (s.icDrop p).l2 = s.l2 := rfl
@[simp] theorem State.icDrop_channels (s : State) (p : Die → Quad → BitVec 12 → BitVec 50 → Bool) : (s.icDrop p).channels = s.channels := rfl
@[simp] theorem State.icDrop_mxEntries (s : State) (p : Die → Quad → BitVec 12 → BitVec 50 → Bool) : (s.icDrop p).mxEntries = s.mxEntries := rfl
@[simp] theorem State.icDrop_twills (s : State) (p : Die → Quad → BitVec 12 → BitVec 50 → Bool) : (s.icDrop p).twills = s.twills := rfl
@[simp] theorem State.icDrop_partials (s : State) (p : Die → Quad → BitVec 12 → BitVec 50 → Bool) : (s.icDrop p).partials = s.partials := rfl
@[simp] theorem State.icDrop_peerReqs (s : State) (p : Die → Quad → BitVec 12 → BitVec 50 → Bool) : (s.icDrop p).peerReqs = s.peerReqs := rfl
@[simp] theorem State.icDrop_slots (s : State) (p : Die → Quad → BitVec 12 → BitVec 50 → Bool) : (s.icDrop p).slots = s.slots := rfl
@[simp] theorem State.icDrop_keys (s : State) (p : Die → Quad → BitVec 12 → BitVec 50 → Bool) : (s.icDrop p).keys = s.keys := rfl

/-! ### The registers of a strand -/

@[simp] theorem Strand.setV_who (st : Strand) (r : Nat) (act : Word) (f : Nat → Word) : (st.setV r act f).who = st.who := rfl
@[simp] theorem Strand.setV_ctxSlot (st : Strand) (r : Nat) (act : Word) (f : Nat → Word) : (st.setV r act f).ctxSlot = st.ctxSlot := rfl
@[simp] theorem Strand.setV_core (st : Strand) (r : Nat) (act : Word) (f : Nat → Word) : (st.setV r act f).core = st.core := rfl
@[simp] theorem Strand.setV_slot (st : Strand) (r : Nat) (act : Word) (f : Nat → Word) : (st.setV r act f).slot = st.slot := rfl
@[simp] theorem Strand.setV_state (st : Strand) (r : Nat) (act : Word) (f : Nat → Word) : (st.setV r act f).state = st.state := rfl
@[simp] theorem Strand.setV_before (st : Strand) (r : Nat) (act : Word) (f : Nat → Word) : (st.setV r act f).before = st.before := rfl
@[simp] theorem Strand.setV_park (st : Strand) (r : Nat) (act : Word) (f : Nat → Word) : (st.setV r act f).park = st.park := rfl
@[simp] theorem Strand.setV_waiting (st : Strand) (r : Nat) (act : Word) (f : Nat → Word) : (st.setV r act f).waiting = st.waiting := rfl
@[simp] theorem Strand.setV_remote (st : Strand) (r : Nat) (act : Word) (f : Nat → Word) : (st.setV r act f).remote = st.remote := rfl
@[simp] theorem Strand.setV_script (st : Strand) (r : Nat) (act : Word) (f : Nat → Word) : (st.setV r act f).script = st.script := rfl
@[simp] theorem Strand.setV_owed (st : Strand) (r : Nat) (act : Word) (f : Nat → Word) : (st.setV r act f).owed = st.owed := rfl
@[simp] theorem Strand.setV_entering (st : Strand) (r : Nat) (act : Word) (f : Nat → Word) : (st.setV r act f).entering = st.entering := rfl
@[simp] theorem Strand.setV_pc (st : Strand) (r : Nat) (act : Word) (f : Nat → Word) : (st.setV r act f).pc = st.pc := rfl
@[simp] theorem Strand.setV_rptAt (st : Strand) (r : Nat) (act : Word) (f : Nat → Word) : (st.setV r act f).rptAt = st.rptAt := rfl
@[simp] theorem Strand.setV_reissue (st : Strand) (r : Nat) (act : Word) (f : Nat → Word) : (st.setV r act f).reissue = st.reissue := rfl
@[simp] theorem Strand.setV_w (st : Strand) (r : Nat) (act : Word) (f : Nat → Word) : (st.setV r act f).w = st.w := rfl
@[simp] theorem Strand.setV_m (st : Strand) (r : Nat) (act : Word) (f : Nat → Word) : (st.setV r act f).m = st.m := rfl
@[simp] theorem Strand.setV_b (st : Strand) (r : Nat) (act : Word) (f : Nat → Word) : (st.setV r act f).b = st.b := rfl
@[simp] theorem Strand.setV_emptyW (st : Strand) (r : Nat) (act : Word) (f : Nat → Word) : (st.setV r act f).emptyW = st.emptyW := rfl
@[simp] theorem Strand.setV_live (st : Strand) (r : Nat) (act : Word) (f : Nat → Word) : (st.setV r act f).live = st.live := rfl
@[simp] theorem Strand.setV_sr (st : Strand) (r : Nat) (act : Word) (f : Nat → Word) : (st.setV r act f).sr = st.sr := rfl
@[simp] theorem Strand.setV_quadCoherent (st : Strand) (r : Nat) (act : Word) (f : Nat → Word) : (st.setV r act f).quadCoherent = st.quadCoherent := rfl
@[simp] theorem Strand.setV_leaseDecl (st : Strand) (r : Nat) (act : Word) (f : Nat → Word) : (st.setV r act f).leaseDecl = st.leaseDecl := rfl
@[simp] theorem Strand.setV_leaseLines (st : Strand) (r : Nat) (act : Word) (f : Nat → Word) : (st.setV r act f).leaseLines = st.leaseLines := rfl
@[simp] theorem Strand.setV_leasePeak (st : Strand) (r : Nat) (act : Word) (f : Nat → Word) : (st.setV r act f).leasePeak = st.leasePeak := rfl
@[simp] theorem Strand.setV_leaseSeen (st : Strand) (r : Nat) (act : Word) (f : Nat → Word) : (st.setV r act f).leaseSeen = st.leaseSeen := rfl
@[simp] theorem Strand.setV_admission (st : Strand) (r : Nat) (act : Word) (f : Nat → Word) : (st.setV r act f).admission = st.admission := rfl
@[simp] theorem Strand.setV_order (st : Strand) (r : Nat) (act : Word) (f : Nat → Word) : (st.setV r act f).order = st.order := rfl
@[simp] theorem Strand.setV_spell (st : Strand) (r : Nat) (act : Word) (f : Nat → Word) : (st.setV r act f).spell = st.spell := rfl
@[simp] theorem Strand.setV_waitSince (st : Strand) (r : Nat) (act : Word) (f : Nat → Word) : (st.setV r act f).waitSince = st.waitSince := rfl
@[simp] theorem Strand.setV_issueSince (st : Strand) (r : Nat) (act : Word) (f : Nat → Word) : (st.setV r act f).issueSince = st.issueSince := rfl
@[simp] theorem Strand.setV_yielded (st : Strand) (r : Nat) (act : Word) (f : Nat → Word) : (st.setV r act f).yielded = st.yielded := rfl
@[simp] theorem Strand.setV_posted (st : Strand) (r : Nat) (act : Word) (f : Nat → Word) : (st.setV r act f).posted = st.posted := rfl
@[simp] theorem Strand.setV_mfail (st : Strand) (r : Nat) (act : Word) (f : Nat → Word) : (st.setV r act f).mfail = st.mfail := rfl
@[simp] theorem Strand.setV_claim (st : Strand) (r : Nat) (act : Word) (f : Nat → Word) : (st.setV r act f).claim = st.claim := rfl
@[simp] theorem Strand.setV_openBatch (st : Strand) (r : Nat) (act : Word) (f : Nat → Word) : (st.setV r act f).openBatch = st.openBatch := rfl
@[simp] theorem Strand.setV_sealedBatches (st : Strand) (r : Nat) (act : Word) (f : Nat → Word) : (st.setV r act f).sealedBatches = st.sealedBatches := rfl
@[simp] theorem Strand.setV_tickets (st : Strand) (r : Nat) (act : Word) (f : Nat → Word) : (st.setV r act f).tickets = st.tickets := rfl
@[simp] theorem Strand.setW_who (st : Strand) (r : Nat) (x : Word) : (st.setW r x).who = st.who := rfl
@[simp] theorem Strand.setW_ctxSlot (st : Strand) (r : Nat) (x : Word) : (st.setW r x).ctxSlot = st.ctxSlot := rfl
@[simp] theorem Strand.setW_core (st : Strand) (r : Nat) (x : Word) : (st.setW r x).core = st.core := rfl
@[simp] theorem Strand.setW_slot (st : Strand) (r : Nat) (x : Word) : (st.setW r x).slot = st.slot := rfl
@[simp] theorem Strand.setW_state (st : Strand) (r : Nat) (x : Word) : (st.setW r x).state = st.state := rfl
@[simp] theorem Strand.setW_before (st : Strand) (r : Nat) (x : Word) : (st.setW r x).before = st.before := rfl
@[simp] theorem Strand.setW_park (st : Strand) (r : Nat) (x : Word) : (st.setW r x).park = st.park := rfl
@[simp] theorem Strand.setW_waiting (st : Strand) (r : Nat) (x : Word) : (st.setW r x).waiting = st.waiting := rfl
@[simp] theorem Strand.setW_remote (st : Strand) (r : Nat) (x : Word) : (st.setW r x).remote = st.remote := rfl
@[simp] theorem Strand.setW_script (st : Strand) (r : Nat) (x : Word) : (st.setW r x).script = st.script := rfl
@[simp] theorem Strand.setW_owed (st : Strand) (r : Nat) (x : Word) : (st.setW r x).owed = st.owed := rfl
@[simp] theorem Strand.setW_entering (st : Strand) (r : Nat) (x : Word) : (st.setW r x).entering = st.entering := rfl
@[simp] theorem Strand.setW_pc (st : Strand) (r : Nat) (x : Word) : (st.setW r x).pc = st.pc := rfl
@[simp] theorem Strand.setW_rptAt (st : Strand) (r : Nat) (x : Word) : (st.setW r x).rptAt = st.rptAt := rfl
@[simp] theorem Strand.setW_reissue (st : Strand) (r : Nat) (x : Word) : (st.setW r x).reissue = st.reissue := rfl
@[simp] theorem Strand.setW_v (st : Strand) (r : Nat) (x : Word) : (st.setW r x).v = st.v := rfl
@[simp] theorem Strand.setW_m (st : Strand) (r : Nat) (x : Word) : (st.setW r x).m = st.m := rfl
@[simp] theorem Strand.setW_b (st : Strand) (r : Nat) (x : Word) : (st.setW r x).b = st.b := rfl
@[simp] theorem Strand.setW_emptyV (st : Strand) (r : Nat) (x : Word) : (st.setW r x).emptyV = st.emptyV := rfl
@[simp] theorem Strand.setW_live (st : Strand) (r : Nat) (x : Word) : (st.setW r x).live = st.live := rfl
@[simp] theorem Strand.setW_sr (st : Strand) (r : Nat) (x : Word) : (st.setW r x).sr = st.sr := rfl
@[simp] theorem Strand.setW_quadCoherent (st : Strand) (r : Nat) (x : Word) : (st.setW r x).quadCoherent = st.quadCoherent := rfl
@[simp] theorem Strand.setW_leaseDecl (st : Strand) (r : Nat) (x : Word) : (st.setW r x).leaseDecl = st.leaseDecl := rfl
@[simp] theorem Strand.setW_leaseLines (st : Strand) (r : Nat) (x : Word) : (st.setW r x).leaseLines = st.leaseLines := rfl
@[simp] theorem Strand.setW_leasePeak (st : Strand) (r : Nat) (x : Word) : (st.setW r x).leasePeak = st.leasePeak := rfl
@[simp] theorem Strand.setW_leaseSeen (st : Strand) (r : Nat) (x : Word) : (st.setW r x).leaseSeen = st.leaseSeen := rfl
@[simp] theorem Strand.setW_admission (st : Strand) (r : Nat) (x : Word) : (st.setW r x).admission = st.admission := rfl
@[simp] theorem Strand.setW_order (st : Strand) (r : Nat) (x : Word) : (st.setW r x).order = st.order := rfl
@[simp] theorem Strand.setW_spell (st : Strand) (r : Nat) (x : Word) : (st.setW r x).spell = st.spell := rfl
@[simp] theorem Strand.setW_waitSince (st : Strand) (r : Nat) (x : Word) : (st.setW r x).waitSince = st.waitSince := rfl
@[simp] theorem Strand.setW_issueSince (st : Strand) (r : Nat) (x : Word) : (st.setW r x).issueSince = st.issueSince := rfl
@[simp] theorem Strand.setW_yielded (st : Strand) (r : Nat) (x : Word) : (st.setW r x).yielded = st.yielded := rfl
@[simp] theorem Strand.setW_posted (st : Strand) (r : Nat) (x : Word) : (st.setW r x).posted = st.posted := rfl
@[simp] theorem Strand.setW_mfail (st : Strand) (r : Nat) (x : Word) : (st.setW r x).mfail = st.mfail := rfl
@[simp] theorem Strand.setW_claim (st : Strand) (r : Nat) (x : Word) : (st.setW r x).claim = st.claim := rfl
@[simp] theorem Strand.setW_openBatch (st : Strand) (r : Nat) (x : Word) : (st.setW r x).openBatch = st.openBatch := rfl
@[simp] theorem Strand.setW_sealedBatches (st : Strand) (r : Nat) (x : Word) : (st.setW r x).sealedBatches = st.sealedBatches := rfl
@[simp] theorem Strand.setW_tickets (st : Strand) (r : Nat) (x : Word) : (st.setW r x).tickets = st.tickets := rfl
@[simp] theorem Strand.setW2_who (st : Strand) (r : Nat) (x : W64) : (st.setW2 r x).who = st.who := rfl
@[simp] theorem Strand.setW2_ctxSlot (st : Strand) (r : Nat) (x : W64) : (st.setW2 r x).ctxSlot = st.ctxSlot := rfl
@[simp] theorem Strand.setW2_core (st : Strand) (r : Nat) (x : W64) : (st.setW2 r x).core = st.core := rfl
@[simp] theorem Strand.setW2_slot (st : Strand) (r : Nat) (x : W64) : (st.setW2 r x).slot = st.slot := rfl
@[simp] theorem Strand.setW2_state (st : Strand) (r : Nat) (x : W64) : (st.setW2 r x).state = st.state := rfl
@[simp] theorem Strand.setW2_before (st : Strand) (r : Nat) (x : W64) : (st.setW2 r x).before = st.before := rfl
@[simp] theorem Strand.setW2_park (st : Strand) (r : Nat) (x : W64) : (st.setW2 r x).park = st.park := rfl
@[simp] theorem Strand.setW2_waiting (st : Strand) (r : Nat) (x : W64) : (st.setW2 r x).waiting = st.waiting := rfl
@[simp] theorem Strand.setW2_remote (st : Strand) (r : Nat) (x : W64) : (st.setW2 r x).remote = st.remote := rfl
@[simp] theorem Strand.setW2_script (st : Strand) (r : Nat) (x : W64) : (st.setW2 r x).script = st.script := rfl
@[simp] theorem Strand.setW2_owed (st : Strand) (r : Nat) (x : W64) : (st.setW2 r x).owed = st.owed := rfl
@[simp] theorem Strand.setW2_entering (st : Strand) (r : Nat) (x : W64) : (st.setW2 r x).entering = st.entering := rfl
@[simp] theorem Strand.setW2_pc (st : Strand) (r : Nat) (x : W64) : (st.setW2 r x).pc = st.pc := rfl
@[simp] theorem Strand.setW2_rptAt (st : Strand) (r : Nat) (x : W64) : (st.setW2 r x).rptAt = st.rptAt := rfl
@[simp] theorem Strand.setW2_reissue (st : Strand) (r : Nat) (x : W64) : (st.setW2 r x).reissue = st.reissue := rfl
@[simp] theorem Strand.setW2_v (st : Strand) (r : Nat) (x : W64) : (st.setW2 r x).v = st.v := rfl
@[simp] theorem Strand.setW2_m (st : Strand) (r : Nat) (x : W64) : (st.setW2 r x).m = st.m := rfl
@[simp] theorem Strand.setW2_b (st : Strand) (r : Nat) (x : W64) : (st.setW2 r x).b = st.b := rfl
@[simp] theorem Strand.setW2_emptyV (st : Strand) (r : Nat) (x : W64) : (st.setW2 r x).emptyV = st.emptyV := rfl
@[simp] theorem Strand.setW2_live (st : Strand) (r : Nat) (x : W64) : (st.setW2 r x).live = st.live := rfl
@[simp] theorem Strand.setW2_sr (st : Strand) (r : Nat) (x : W64) : (st.setW2 r x).sr = st.sr := rfl
@[simp] theorem Strand.setW2_quadCoherent (st : Strand) (r : Nat) (x : W64) : (st.setW2 r x).quadCoherent = st.quadCoherent := rfl
@[simp] theorem Strand.setW2_leaseDecl (st : Strand) (r : Nat) (x : W64) : (st.setW2 r x).leaseDecl = st.leaseDecl := rfl
@[simp] theorem Strand.setW2_leaseLines (st : Strand) (r : Nat) (x : W64) : (st.setW2 r x).leaseLines = st.leaseLines := rfl
@[simp] theorem Strand.setW2_leasePeak (st : Strand) (r : Nat) (x : W64) : (st.setW2 r x).leasePeak = st.leasePeak := rfl
@[simp] theorem Strand.setW2_leaseSeen (st : Strand) (r : Nat) (x : W64) : (st.setW2 r x).leaseSeen = st.leaseSeen := rfl
@[simp] theorem Strand.setW2_admission (st : Strand) (r : Nat) (x : W64) : (st.setW2 r x).admission = st.admission := rfl
@[simp] theorem Strand.setW2_order (st : Strand) (r : Nat) (x : W64) : (st.setW2 r x).order = st.order := rfl
@[simp] theorem Strand.setW2_spell (st : Strand) (r : Nat) (x : W64) : (st.setW2 r x).spell = st.spell := rfl
@[simp] theorem Strand.setW2_waitSince (st : Strand) (r : Nat) (x : W64) : (st.setW2 r x).waitSince = st.waitSince := rfl
@[simp] theorem Strand.setW2_issueSince (st : Strand) (r : Nat) (x : W64) : (st.setW2 r x).issueSince = st.issueSince := rfl
@[simp] theorem Strand.setW2_yielded (st : Strand) (r : Nat) (x : W64) : (st.setW2 r x).yielded = st.yielded := rfl
@[simp] theorem Strand.setW2_posted (st : Strand) (r : Nat) (x : W64) : (st.setW2 r x).posted = st.posted := rfl
@[simp] theorem Strand.setW2_mfail (st : Strand) (r : Nat) (x : W64) : (st.setW2 r x).mfail = st.mfail := rfl
@[simp] theorem Strand.setW2_claim (st : Strand) (r : Nat) (x : W64) : (st.setW2 r x).claim = st.claim := rfl
@[simp] theorem Strand.setW2_openBatch (st : Strand) (r : Nat) (x : W64) : (st.setW2 r x).openBatch = st.openBatch := rfl
@[simp] theorem Strand.setW2_sealedBatches (st : Strand) (r : Nat) (x : W64) : (st.setW2 r x).sealedBatches = st.sealedBatches := rfl
@[simp] theorem Strand.setW2_tickets (st : Strand) (r : Nat) (x : W64) : (st.setW2 r x).tickets = st.tickets := rfl
@[simp] theorem Strand.setM_who (st : Strand) (r : Nat) (x : Word) : (st.setM r x).who = st.who := rfl
@[simp] theorem Strand.setM_ctxSlot (st : Strand) (r : Nat) (x : Word) : (st.setM r x).ctxSlot = st.ctxSlot := rfl
@[simp] theorem Strand.setM_core (st : Strand) (r : Nat) (x : Word) : (st.setM r x).core = st.core := rfl
@[simp] theorem Strand.setM_slot (st : Strand) (r : Nat) (x : Word) : (st.setM r x).slot = st.slot := rfl
@[simp] theorem Strand.setM_state (st : Strand) (r : Nat) (x : Word) : (st.setM r x).state = st.state := rfl
@[simp] theorem Strand.setM_before (st : Strand) (r : Nat) (x : Word) : (st.setM r x).before = st.before := rfl
@[simp] theorem Strand.setM_park (st : Strand) (r : Nat) (x : Word) : (st.setM r x).park = st.park := rfl
@[simp] theorem Strand.setM_waiting (st : Strand) (r : Nat) (x : Word) : (st.setM r x).waiting = st.waiting := rfl
@[simp] theorem Strand.setM_remote (st : Strand) (r : Nat) (x : Word) : (st.setM r x).remote = st.remote := rfl
@[simp] theorem Strand.setM_script (st : Strand) (r : Nat) (x : Word) : (st.setM r x).script = st.script := rfl
@[simp] theorem Strand.setM_owed (st : Strand) (r : Nat) (x : Word) : (st.setM r x).owed = st.owed := rfl
@[simp] theorem Strand.setM_entering (st : Strand) (r : Nat) (x : Word) : (st.setM r x).entering = st.entering := rfl
@[simp] theorem Strand.setM_pc (st : Strand) (r : Nat) (x : Word) : (st.setM r x).pc = st.pc := rfl
@[simp] theorem Strand.setM_rptAt (st : Strand) (r : Nat) (x : Word) : (st.setM r x).rptAt = st.rptAt := rfl
@[simp] theorem Strand.setM_reissue (st : Strand) (r : Nat) (x : Word) : (st.setM r x).reissue = st.reissue := rfl
@[simp] theorem Strand.setM_v (st : Strand) (r : Nat) (x : Word) : (st.setM r x).v = st.v := rfl
@[simp] theorem Strand.setM_w (st : Strand) (r : Nat) (x : Word) : (st.setM r x).w = st.w := rfl
@[simp] theorem Strand.setM_b (st : Strand) (r : Nat) (x : Word) : (st.setM r x).b = st.b := rfl
@[simp] theorem Strand.setM_emptyV (st : Strand) (r : Nat) (x : Word) : (st.setM r x).emptyV = st.emptyV := rfl
@[simp] theorem Strand.setM_emptyW (st : Strand) (r : Nat) (x : Word) : (st.setM r x).emptyW = st.emptyW := rfl
@[simp] theorem Strand.setM_live (st : Strand) (r : Nat) (x : Word) : (st.setM r x).live = st.live := rfl
@[simp] theorem Strand.setM_sr (st : Strand) (r : Nat) (x : Word) : (st.setM r x).sr = st.sr := rfl
@[simp] theorem Strand.setM_quadCoherent (st : Strand) (r : Nat) (x : Word) : (st.setM r x).quadCoherent = st.quadCoherent := rfl
@[simp] theorem Strand.setM_leaseDecl (st : Strand) (r : Nat) (x : Word) : (st.setM r x).leaseDecl = st.leaseDecl := rfl
@[simp] theorem Strand.setM_leaseLines (st : Strand) (r : Nat) (x : Word) : (st.setM r x).leaseLines = st.leaseLines := rfl
@[simp] theorem Strand.setM_leasePeak (st : Strand) (r : Nat) (x : Word) : (st.setM r x).leasePeak = st.leasePeak := rfl
@[simp] theorem Strand.setM_leaseSeen (st : Strand) (r : Nat) (x : Word) : (st.setM r x).leaseSeen = st.leaseSeen := rfl
@[simp] theorem Strand.setM_admission (st : Strand) (r : Nat) (x : Word) : (st.setM r x).admission = st.admission := rfl
@[simp] theorem Strand.setM_order (st : Strand) (r : Nat) (x : Word) : (st.setM r x).order = st.order := rfl
@[simp] theorem Strand.setM_spell (st : Strand) (r : Nat) (x : Word) : (st.setM r x).spell = st.spell := rfl
@[simp] theorem Strand.setM_waitSince (st : Strand) (r : Nat) (x : Word) : (st.setM r x).waitSince = st.waitSince := rfl
@[simp] theorem Strand.setM_issueSince (st : Strand) (r : Nat) (x : Word) : (st.setM r x).issueSince = st.issueSince := rfl
@[simp] theorem Strand.setM_yielded (st : Strand) (r : Nat) (x : Word) : (st.setM r x).yielded = st.yielded := rfl
@[simp] theorem Strand.setM_posted (st : Strand) (r : Nat) (x : Word) : (st.setM r x).posted = st.posted := rfl
@[simp] theorem Strand.setM_mfail (st : Strand) (r : Nat) (x : Word) : (st.setM r x).mfail = st.mfail := rfl
@[simp] theorem Strand.setM_claim (st : Strand) (r : Nat) (x : Word) : (st.setM r x).claim = st.claim := rfl
@[simp] theorem Strand.setM_openBatch (st : Strand) (r : Nat) (x : Word) : (st.setM r x).openBatch = st.openBatch := rfl
@[simp] theorem Strand.setM_sealedBatches (st : Strand) (r : Nat) (x : Word) : (st.setM r x).sealedBatches = st.sealedBatches := rfl
@[simp] theorem Strand.setM_tickets (st : Strand) (r : Nat) (x : Word) : (st.setM r x).tickets = st.tickets := rfl
@[simp] theorem Strand.setB_who (st : Strand) (r : Nat) (x : BitVec 128) : (st.setB r x).who = st.who := rfl
@[simp] theorem Strand.setB_ctxSlot (st : Strand) (r : Nat) (x : BitVec 128) : (st.setB r x).ctxSlot = st.ctxSlot := rfl
@[simp] theorem Strand.setB_core (st : Strand) (r : Nat) (x : BitVec 128) : (st.setB r x).core = st.core := rfl
@[simp] theorem Strand.setB_slot (st : Strand) (r : Nat) (x : BitVec 128) : (st.setB r x).slot = st.slot := rfl
@[simp] theorem Strand.setB_state (st : Strand) (r : Nat) (x : BitVec 128) : (st.setB r x).state = st.state := rfl
@[simp] theorem Strand.setB_before (st : Strand) (r : Nat) (x : BitVec 128) : (st.setB r x).before = st.before := rfl
@[simp] theorem Strand.setB_park (st : Strand) (r : Nat) (x : BitVec 128) : (st.setB r x).park = st.park := rfl
@[simp] theorem Strand.setB_waiting (st : Strand) (r : Nat) (x : BitVec 128) : (st.setB r x).waiting = st.waiting := rfl
@[simp] theorem Strand.setB_remote (st : Strand) (r : Nat) (x : BitVec 128) : (st.setB r x).remote = st.remote := rfl
@[simp] theorem Strand.setB_script (st : Strand) (r : Nat) (x : BitVec 128) : (st.setB r x).script = st.script := rfl
@[simp] theorem Strand.setB_owed (st : Strand) (r : Nat) (x : BitVec 128) : (st.setB r x).owed = st.owed := rfl
@[simp] theorem Strand.setB_entering (st : Strand) (r : Nat) (x : BitVec 128) : (st.setB r x).entering = st.entering := rfl
@[simp] theorem Strand.setB_pc (st : Strand) (r : Nat) (x : BitVec 128) : (st.setB r x).pc = st.pc := rfl
@[simp] theorem Strand.setB_rptAt (st : Strand) (r : Nat) (x : BitVec 128) : (st.setB r x).rptAt = st.rptAt := rfl
@[simp] theorem Strand.setB_reissue (st : Strand) (r : Nat) (x : BitVec 128) : (st.setB r x).reissue = st.reissue := rfl
@[simp] theorem Strand.setB_v (st : Strand) (r : Nat) (x : BitVec 128) : (st.setB r x).v = st.v := rfl
@[simp] theorem Strand.setB_w (st : Strand) (r : Nat) (x : BitVec 128) : (st.setB r x).w = st.w := rfl
@[simp] theorem Strand.setB_m (st : Strand) (r : Nat) (x : BitVec 128) : (st.setB r x).m = st.m := rfl
@[simp] theorem Strand.setB_emptyV (st : Strand) (r : Nat) (x : BitVec 128) : (st.setB r x).emptyV = st.emptyV := rfl
@[simp] theorem Strand.setB_emptyW (st : Strand) (r : Nat) (x : BitVec 128) : (st.setB r x).emptyW = st.emptyW := rfl
@[simp] theorem Strand.setB_live (st : Strand) (r : Nat) (x : BitVec 128) : (st.setB r x).live = st.live := rfl
@[simp] theorem Strand.setB_sr (st : Strand) (r : Nat) (x : BitVec 128) : (st.setB r x).sr = st.sr := rfl
@[simp] theorem Strand.setB_quadCoherent (st : Strand) (r : Nat) (x : BitVec 128) : (st.setB r x).quadCoherent = st.quadCoherent := rfl
@[simp] theorem Strand.setB_leaseDecl (st : Strand) (r : Nat) (x : BitVec 128) : (st.setB r x).leaseDecl = st.leaseDecl := rfl
@[simp] theorem Strand.setB_leaseLines (st : Strand) (r : Nat) (x : BitVec 128) : (st.setB r x).leaseLines = st.leaseLines := rfl
@[simp] theorem Strand.setB_leasePeak (st : Strand) (r : Nat) (x : BitVec 128) : (st.setB r x).leasePeak = st.leasePeak := rfl
@[simp] theorem Strand.setB_leaseSeen (st : Strand) (r : Nat) (x : BitVec 128) : (st.setB r x).leaseSeen = st.leaseSeen := rfl
@[simp] theorem Strand.setB_admission (st : Strand) (r : Nat) (x : BitVec 128) : (st.setB r x).admission = st.admission := rfl
@[simp] theorem Strand.setB_order (st : Strand) (r : Nat) (x : BitVec 128) : (st.setB r x).order = st.order := rfl
@[simp] theorem Strand.setB_spell (st : Strand) (r : Nat) (x : BitVec 128) : (st.setB r x).spell = st.spell := rfl
@[simp] theorem Strand.setB_waitSince (st : Strand) (r : Nat) (x : BitVec 128) : (st.setB r x).waitSince = st.waitSince := rfl
@[simp] theorem Strand.setB_issueSince (st : Strand) (r : Nat) (x : BitVec 128) : (st.setB r x).issueSince = st.issueSince := rfl
@[simp] theorem Strand.setB_yielded (st : Strand) (r : Nat) (x : BitVec 128) : (st.setB r x).yielded = st.yielded := rfl
@[simp] theorem Strand.setB_posted (st : Strand) (r : Nat) (x : BitVec 128) : (st.setB r x).posted = st.posted := rfl
@[simp] theorem Strand.setB_mfail (st : Strand) (r : Nat) (x : BitVec 128) : (st.setB r x).mfail = st.mfail := rfl
@[simp] theorem Strand.setB_claim (st : Strand) (r : Nat) (x : BitVec 128) : (st.setB r x).claim = st.claim := rfl
@[simp] theorem Strand.setB_openBatch (st : Strand) (r : Nat) (x : BitVec 128) : (st.setB r x).openBatch = st.openBatch := rfl
@[simp] theorem Strand.setB_sealedBatches (st : Strand) (r : Nat) (x : BitVec 128) : (st.setB r x).sealedBatches = st.sealedBatches := rfl
@[simp] theorem Strand.setB_tickets (st : Strand) (r : Nat) (x : BitVec 128) : (st.setB r x).tickets = st.tickets := rfl
@[simp] theorem Strand.clearBits_who (st : Strand) (vs ws : List Nat) : (st.clearBits vs ws).who = st.who := rfl
@[simp] theorem Strand.clearBits_ctxSlot (st : Strand) (vs ws : List Nat) : (st.clearBits vs ws).ctxSlot = st.ctxSlot := rfl
@[simp] theorem Strand.clearBits_core (st : Strand) (vs ws : List Nat) : (st.clearBits vs ws).core = st.core := rfl
@[simp] theorem Strand.clearBits_slot (st : Strand) (vs ws : List Nat) : (st.clearBits vs ws).slot = st.slot := rfl
@[simp] theorem Strand.clearBits_state (st : Strand) (vs ws : List Nat) : (st.clearBits vs ws).state = st.state := rfl
@[simp] theorem Strand.clearBits_before (st : Strand) (vs ws : List Nat) : (st.clearBits vs ws).before = st.before := rfl
@[simp] theorem Strand.clearBits_park (st : Strand) (vs ws : List Nat) : (st.clearBits vs ws).park = st.park := rfl
@[simp] theorem Strand.clearBits_waiting (st : Strand) (vs ws : List Nat) : (st.clearBits vs ws).waiting = st.waiting := rfl
@[simp] theorem Strand.clearBits_remote (st : Strand) (vs ws : List Nat) : (st.clearBits vs ws).remote = st.remote := rfl
@[simp] theorem Strand.clearBits_script (st : Strand) (vs ws : List Nat) : (st.clearBits vs ws).script = st.script := rfl
@[simp] theorem Strand.clearBits_owed (st : Strand) (vs ws : List Nat) : (st.clearBits vs ws).owed = st.owed := rfl
@[simp] theorem Strand.clearBits_entering (st : Strand) (vs ws : List Nat) : (st.clearBits vs ws).entering = st.entering := rfl
@[simp] theorem Strand.clearBits_pc (st : Strand) (vs ws : List Nat) : (st.clearBits vs ws).pc = st.pc := rfl
@[simp] theorem Strand.clearBits_rptAt (st : Strand) (vs ws : List Nat) : (st.clearBits vs ws).rptAt = st.rptAt := rfl
@[simp] theorem Strand.clearBits_reissue (st : Strand) (vs ws : List Nat) : (st.clearBits vs ws).reissue = st.reissue := rfl
@[simp] theorem Strand.clearBits_v (st : Strand) (vs ws : List Nat) : (st.clearBits vs ws).v = st.v := rfl
@[simp] theorem Strand.clearBits_w (st : Strand) (vs ws : List Nat) : (st.clearBits vs ws).w = st.w := rfl
@[simp] theorem Strand.clearBits_m (st : Strand) (vs ws : List Nat) : (st.clearBits vs ws).m = st.m := rfl
@[simp] theorem Strand.clearBits_b (st : Strand) (vs ws : List Nat) : (st.clearBits vs ws).b = st.b := rfl
@[simp] theorem Strand.clearBits_live (st : Strand) (vs ws : List Nat) : (st.clearBits vs ws).live = st.live := rfl
@[simp] theorem Strand.clearBits_sr (st : Strand) (vs ws : List Nat) : (st.clearBits vs ws).sr = st.sr := rfl
@[simp] theorem Strand.clearBits_quadCoherent (st : Strand) (vs ws : List Nat) : (st.clearBits vs ws).quadCoherent = st.quadCoherent := rfl
@[simp] theorem Strand.clearBits_leaseDecl (st : Strand) (vs ws : List Nat) : (st.clearBits vs ws).leaseDecl = st.leaseDecl := rfl
@[simp] theorem Strand.clearBits_leaseLines (st : Strand) (vs ws : List Nat) : (st.clearBits vs ws).leaseLines = st.leaseLines := rfl
@[simp] theorem Strand.clearBits_leasePeak (st : Strand) (vs ws : List Nat) : (st.clearBits vs ws).leasePeak = st.leasePeak := rfl
@[simp] theorem Strand.clearBits_leaseSeen (st : Strand) (vs ws : List Nat) : (st.clearBits vs ws).leaseSeen = st.leaseSeen := rfl
@[simp] theorem Strand.clearBits_admission (st : Strand) (vs ws : List Nat) : (st.clearBits vs ws).admission = st.admission := rfl
@[simp] theorem Strand.clearBits_order (st : Strand) (vs ws : List Nat) : (st.clearBits vs ws).order = st.order := rfl
@[simp] theorem Strand.clearBits_spell (st : Strand) (vs ws : List Nat) : (st.clearBits vs ws).spell = st.spell := rfl
@[simp] theorem Strand.clearBits_waitSince (st : Strand) (vs ws : List Nat) : (st.clearBits vs ws).waitSince = st.waitSince := rfl
@[simp] theorem Strand.clearBits_issueSince (st : Strand) (vs ws : List Nat) : (st.clearBits vs ws).issueSince = st.issueSince := rfl
@[simp] theorem Strand.clearBits_yielded (st : Strand) (vs ws : List Nat) : (st.clearBits vs ws).yielded = st.yielded := rfl
@[simp] theorem Strand.clearBits_posted (st : Strand) (vs ws : List Nat) : (st.clearBits vs ws).posted = st.posted := rfl
@[simp] theorem Strand.clearBits_mfail (st : Strand) (vs ws : List Nat) : (st.clearBits vs ws).mfail = st.mfail := rfl
@[simp] theorem Strand.clearBits_claim (st : Strand) (vs ws : List Nat) : (st.clearBits vs ws).claim = st.claim := rfl
@[simp] theorem Strand.clearBits_openBatch (st : Strand) (vs ws : List Nat) : (st.clearBits vs ws).openBatch = st.openBatch := rfl
@[simp] theorem Strand.clearBits_sealedBatches (st : Strand) (vs ws : List Nat) : (st.clearBits vs ws).sealedBatches = st.sealedBatches := rfl
@[simp] theorem Strand.clearBits_tickets (st : Strand) (vs ws : List Nat) : (st.clearBits vs ws).tickets = st.tickets := rfl
@[simp] theorem Strand.setBits_who (st : Strand) (vs ws : List Nat) : (st.setBits vs ws).who = st.who := rfl
@[simp] theorem Strand.setBits_ctxSlot (st : Strand) (vs ws : List Nat) : (st.setBits vs ws).ctxSlot = st.ctxSlot := rfl
@[simp] theorem Strand.setBits_core (st : Strand) (vs ws : List Nat) : (st.setBits vs ws).core = st.core := rfl
@[simp] theorem Strand.setBits_slot (st : Strand) (vs ws : List Nat) : (st.setBits vs ws).slot = st.slot := rfl
@[simp] theorem Strand.setBits_state (st : Strand) (vs ws : List Nat) : (st.setBits vs ws).state = st.state := rfl
@[simp] theorem Strand.setBits_before (st : Strand) (vs ws : List Nat) : (st.setBits vs ws).before = st.before := rfl
@[simp] theorem Strand.setBits_park (st : Strand) (vs ws : List Nat) : (st.setBits vs ws).park = st.park := rfl
@[simp] theorem Strand.setBits_waiting (st : Strand) (vs ws : List Nat) : (st.setBits vs ws).waiting = st.waiting := rfl
@[simp] theorem Strand.setBits_remote (st : Strand) (vs ws : List Nat) : (st.setBits vs ws).remote = st.remote := rfl
@[simp] theorem Strand.setBits_script (st : Strand) (vs ws : List Nat) : (st.setBits vs ws).script = st.script := rfl
@[simp] theorem Strand.setBits_owed (st : Strand) (vs ws : List Nat) : (st.setBits vs ws).owed = st.owed := rfl
@[simp] theorem Strand.setBits_entering (st : Strand) (vs ws : List Nat) : (st.setBits vs ws).entering = st.entering := rfl
@[simp] theorem Strand.setBits_pc (st : Strand) (vs ws : List Nat) : (st.setBits vs ws).pc = st.pc := rfl
@[simp] theorem Strand.setBits_rptAt (st : Strand) (vs ws : List Nat) : (st.setBits vs ws).rptAt = st.rptAt := rfl
@[simp] theorem Strand.setBits_reissue (st : Strand) (vs ws : List Nat) : (st.setBits vs ws).reissue = st.reissue := rfl
@[simp] theorem Strand.setBits_v (st : Strand) (vs ws : List Nat) : (st.setBits vs ws).v = st.v := rfl
@[simp] theorem Strand.setBits_w (st : Strand) (vs ws : List Nat) : (st.setBits vs ws).w = st.w := rfl
@[simp] theorem Strand.setBits_m (st : Strand) (vs ws : List Nat) : (st.setBits vs ws).m = st.m := rfl
@[simp] theorem Strand.setBits_b (st : Strand) (vs ws : List Nat) : (st.setBits vs ws).b = st.b := rfl
@[simp] theorem Strand.setBits_live (st : Strand) (vs ws : List Nat) : (st.setBits vs ws).live = st.live := rfl
@[simp] theorem Strand.setBits_sr (st : Strand) (vs ws : List Nat) : (st.setBits vs ws).sr = st.sr := rfl
@[simp] theorem Strand.setBits_quadCoherent (st : Strand) (vs ws : List Nat) : (st.setBits vs ws).quadCoherent = st.quadCoherent := rfl
@[simp] theorem Strand.setBits_leaseDecl (st : Strand) (vs ws : List Nat) : (st.setBits vs ws).leaseDecl = st.leaseDecl := rfl
@[simp] theorem Strand.setBits_leaseLines (st : Strand) (vs ws : List Nat) : (st.setBits vs ws).leaseLines = st.leaseLines := rfl
@[simp] theorem Strand.setBits_leasePeak (st : Strand) (vs ws : List Nat) : (st.setBits vs ws).leasePeak = st.leasePeak := rfl
@[simp] theorem Strand.setBits_leaseSeen (st : Strand) (vs ws : List Nat) : (st.setBits vs ws).leaseSeen = st.leaseSeen := rfl
@[simp] theorem Strand.setBits_admission (st : Strand) (vs ws : List Nat) : (st.setBits vs ws).admission = st.admission := rfl
@[simp] theorem Strand.setBits_order (st : Strand) (vs ws : List Nat) : (st.setBits vs ws).order = st.order := rfl
@[simp] theorem Strand.setBits_spell (st : Strand) (vs ws : List Nat) : (st.setBits vs ws).spell = st.spell := rfl
@[simp] theorem Strand.setBits_waitSince (st : Strand) (vs ws : List Nat) : (st.setBits vs ws).waitSince = st.waitSince := rfl
@[simp] theorem Strand.setBits_issueSince (st : Strand) (vs ws : List Nat) : (st.setBits vs ws).issueSince = st.issueSince := rfl
@[simp] theorem Strand.setBits_yielded (st : Strand) (vs ws : List Nat) : (st.setBits vs ws).yielded = st.yielded := rfl
@[simp] theorem Strand.setBits_posted (st : Strand) (vs ws : List Nat) : (st.setBits vs ws).posted = st.posted := rfl
@[simp] theorem Strand.setBits_mfail (st : Strand) (vs ws : List Nat) : (st.setBits vs ws).mfail = st.mfail := rfl
@[simp] theorem Strand.setBits_claim (st : Strand) (vs ws : List Nat) : (st.setBits vs ws).claim = st.claim := rfl
@[simp] theorem Strand.setBits_openBatch (st : Strand) (vs ws : List Nat) : (st.setBits vs ws).openBatch = st.openBatch := rfl
@[simp] theorem Strand.setBits_sealedBatches (st : Strand) (vs ws : List Nat) : (st.setBits vs ws).sealedBatches = st.sealedBatches := rfl
@[simp] theorem Strand.setBits_tickets (st : Strand) (vs ws : List Nat) : (st.setBits vs ws).tickets = st.tickets := rfl
@[simp] theorem Strand.orFlags_who (st : Strand) (f : BitVec 6) : (st.orFlags f).who = st.who := rfl
@[simp] theorem Strand.orFlags_ctxSlot (st : Strand) (f : BitVec 6) : (st.orFlags f).ctxSlot = st.ctxSlot := rfl
@[simp] theorem Strand.orFlags_core (st : Strand) (f : BitVec 6) : (st.orFlags f).core = st.core := rfl
@[simp] theorem Strand.orFlags_slot (st : Strand) (f : BitVec 6) : (st.orFlags f).slot = st.slot := rfl
@[simp] theorem Strand.orFlags_state (st : Strand) (f : BitVec 6) : (st.orFlags f).state = st.state := rfl
@[simp] theorem Strand.orFlags_before (st : Strand) (f : BitVec 6) : (st.orFlags f).before = st.before := rfl
@[simp] theorem Strand.orFlags_park (st : Strand) (f : BitVec 6) : (st.orFlags f).park = st.park := rfl
@[simp] theorem Strand.orFlags_waiting (st : Strand) (f : BitVec 6) : (st.orFlags f).waiting = st.waiting := rfl
@[simp] theorem Strand.orFlags_remote (st : Strand) (f : BitVec 6) : (st.orFlags f).remote = st.remote := rfl
@[simp] theorem Strand.orFlags_script (st : Strand) (f : BitVec 6) : (st.orFlags f).script = st.script := rfl
@[simp] theorem Strand.orFlags_owed (st : Strand) (f : BitVec 6) : (st.orFlags f).owed = st.owed := rfl
@[simp] theorem Strand.orFlags_entering (st : Strand) (f : BitVec 6) : (st.orFlags f).entering = st.entering := rfl
@[simp] theorem Strand.orFlags_pc (st : Strand) (f : BitVec 6) : (st.orFlags f).pc = st.pc := rfl
@[simp] theorem Strand.orFlags_rptAt (st : Strand) (f : BitVec 6) : (st.orFlags f).rptAt = st.rptAt := rfl
@[simp] theorem Strand.orFlags_reissue (st : Strand) (f : BitVec 6) : (st.orFlags f).reissue = st.reissue := rfl
@[simp] theorem Strand.orFlags_v (st : Strand) (f : BitVec 6) : (st.orFlags f).v = st.v := rfl
@[simp] theorem Strand.orFlags_w (st : Strand) (f : BitVec 6) : (st.orFlags f).w = st.w := rfl
@[simp] theorem Strand.orFlags_m (st : Strand) (f : BitVec 6) : (st.orFlags f).m = st.m := rfl
@[simp] theorem Strand.orFlags_b (st : Strand) (f : BitVec 6) : (st.orFlags f).b = st.b := rfl
@[simp] theorem Strand.orFlags_emptyV (st : Strand) (f : BitVec 6) : (st.orFlags f).emptyV = st.emptyV := rfl
@[simp] theorem Strand.orFlags_emptyW (st : Strand) (f : BitVec 6) : (st.orFlags f).emptyW = st.emptyW := rfl
@[simp] theorem Strand.orFlags_live (st : Strand) (f : BitVec 6) : (st.orFlags f).live = st.live := rfl
@[simp] theorem Strand.orFlags_quadCoherent (st : Strand) (f : BitVec 6) : (st.orFlags f).quadCoherent = st.quadCoherent := rfl
@[simp] theorem Strand.orFlags_leaseDecl (st : Strand) (f : BitVec 6) : (st.orFlags f).leaseDecl = st.leaseDecl := rfl
@[simp] theorem Strand.orFlags_leaseLines (st : Strand) (f : BitVec 6) : (st.orFlags f).leaseLines = st.leaseLines := rfl
@[simp] theorem Strand.orFlags_leasePeak (st : Strand) (f : BitVec 6) : (st.orFlags f).leasePeak = st.leasePeak := rfl
@[simp] theorem Strand.orFlags_leaseSeen (st : Strand) (f : BitVec 6) : (st.orFlags f).leaseSeen = st.leaseSeen := rfl
@[simp] theorem Strand.orFlags_admission (st : Strand) (f : BitVec 6) : (st.orFlags f).admission = st.admission := rfl
@[simp] theorem Strand.orFlags_order (st : Strand) (f : BitVec 6) : (st.orFlags f).order = st.order := rfl
@[simp] theorem Strand.orFlags_spell (st : Strand) (f : BitVec 6) : (st.orFlags f).spell = st.spell := rfl
@[simp] theorem Strand.orFlags_waitSince (st : Strand) (f : BitVec 6) : (st.orFlags f).waitSince = st.waitSince := rfl
@[simp] theorem Strand.orFlags_issueSince (st : Strand) (f : BitVec 6) : (st.orFlags f).issueSince = st.issueSince := rfl
@[simp] theorem Strand.orFlags_yielded (st : Strand) (f : BitVec 6) : (st.orFlags f).yielded = st.yielded := rfl
@[simp] theorem Strand.orFlags_posted (st : Strand) (f : BitVec 6) : (st.orFlags f).posted = st.posted := rfl
@[simp] theorem Strand.orFlags_mfail (st : Strand) (f : BitVec 6) : (st.orFlags f).mfail = st.mfail := rfl
@[simp] theorem Strand.orFlags_claim (st : Strand) (f : BitVec 6) : (st.orFlags f).claim = st.claim := rfl
@[simp] theorem Strand.orFlags_openBatch (st : Strand) (f : BitVec 6) : (st.orFlags f).openBatch = st.openBatch := rfl
@[simp] theorem Strand.orFlags_sealedBatches (st : Strand) (f : BitVec 6) : (st.orFlags f).sealedBatches = st.sealedBatches := rfl
@[simp] theorem Strand.orFlags_tickets (st : Strand) (f : BitVec 6) : (st.orFlags f).tickets = st.tickets := rfl
@[simp] theorem Strand.hold_who (st : Strand) (p : Park) : (st.hold p).who = st.who := rfl
@[simp] theorem Strand.hold_ctxSlot (st : Strand) (p : Park) : (st.hold p).ctxSlot = st.ctxSlot := rfl
@[simp] theorem Strand.hold_core (st : Strand) (p : Park) : (st.hold p).core = st.core := rfl
@[simp] theorem Strand.hold_slot (st : Strand) (p : Park) : (st.hold p).slot = st.slot := rfl
@[simp] theorem Strand.hold_before (st : Strand) (p : Park) : (st.hold p).before = st.before := rfl
@[simp] theorem Strand.hold_waiting (st : Strand) (p : Park) : (st.hold p).waiting = st.waiting := rfl
@[simp] theorem Strand.hold_remote (st : Strand) (p : Park) : (st.hold p).remote = st.remote := rfl
@[simp] theorem Strand.hold_script (st : Strand) (p : Park) : (st.hold p).script = st.script := rfl
@[simp] theorem Strand.hold_owed (st : Strand) (p : Park) : (st.hold p).owed = st.owed := rfl
@[simp] theorem Strand.hold_entering (st : Strand) (p : Park) : (st.hold p).entering = st.entering := rfl
@[simp] theorem Strand.hold_pc (st : Strand) (p : Park) : (st.hold p).pc = st.pc := rfl
@[simp] theorem Strand.hold_rptAt (st : Strand) (p : Park) : (st.hold p).rptAt = st.rptAt := rfl
@[simp] theorem Strand.hold_reissue (st : Strand) (p : Park) : (st.hold p).reissue = st.reissue := rfl
@[simp] theorem Strand.hold_v (st : Strand) (p : Park) : (st.hold p).v = st.v := rfl
@[simp] theorem Strand.hold_w (st : Strand) (p : Park) : (st.hold p).w = st.w := rfl
@[simp] theorem Strand.hold_m (st : Strand) (p : Park) : (st.hold p).m = st.m := rfl
@[simp] theorem Strand.hold_b (st : Strand) (p : Park) : (st.hold p).b = st.b := rfl
@[simp] theorem Strand.hold_emptyV (st : Strand) (p : Park) : (st.hold p).emptyV = st.emptyV := rfl
@[simp] theorem Strand.hold_emptyW (st : Strand) (p : Park) : (st.hold p).emptyW = st.emptyW := rfl
@[simp] theorem Strand.hold_live (st : Strand) (p : Park) : (st.hold p).live = st.live := rfl
@[simp] theorem Strand.hold_sr (st : Strand) (p : Park) : (st.hold p).sr = st.sr := rfl
@[simp] theorem Strand.hold_quadCoherent (st : Strand) (p : Park) : (st.hold p).quadCoherent = st.quadCoherent := rfl
@[simp] theorem Strand.hold_leaseDecl (st : Strand) (p : Park) : (st.hold p).leaseDecl = st.leaseDecl := rfl
@[simp] theorem Strand.hold_leaseLines (st : Strand) (p : Park) : (st.hold p).leaseLines = st.leaseLines := rfl
@[simp] theorem Strand.hold_leasePeak (st : Strand) (p : Park) : (st.hold p).leasePeak = st.leasePeak := rfl
@[simp] theorem Strand.hold_leaseSeen (st : Strand) (p : Park) : (st.hold p).leaseSeen = st.leaseSeen := rfl
@[simp] theorem Strand.hold_admission (st : Strand) (p : Park) : (st.hold p).admission = st.admission := rfl
@[simp] theorem Strand.hold_order (st : Strand) (p : Park) : (st.hold p).order = st.order := rfl
@[simp] theorem Strand.hold_spell (st : Strand) (p : Park) : (st.hold p).spell = st.spell := rfl
@[simp] theorem Strand.hold_waitSince (st : Strand) (p : Park) : (st.hold p).waitSince = st.waitSince := rfl
@[simp] theorem Strand.hold_issueSince (st : Strand) (p : Park) : (st.hold p).issueSince = st.issueSince := rfl
@[simp] theorem Strand.hold_yielded (st : Strand) (p : Park) : (st.hold p).yielded = st.yielded := rfl
@[simp] theorem Strand.hold_posted (st : Strand) (p : Park) : (st.hold p).posted = st.posted := rfl
@[simp] theorem Strand.hold_mfail (st : Strand) (p : Park) : (st.hold p).mfail = st.mfail := rfl
@[simp] theorem Strand.hold_claim (st : Strand) (p : Park) : (st.hold p).claim = st.claim := rfl
@[simp] theorem Strand.hold_openBatch (st : Strand) (p : Park) : (st.hold p).openBatch = st.openBatch := rfl
@[simp] theorem Strand.hold_sealedBatches (st : Strand) (p : Park) : (st.hold p).sealedBatches = st.sealedBatches := rfl
@[simp] theorem Strand.hold_tickets (st : Strand) (p : Park) : (st.hold p).tickets = st.tickets := rfl
@[simp] theorem Strand.parkAt_who (st : Strand) (p : Park) : (st.parkAt p).who = st.who := rfl
@[simp] theorem Strand.parkAt_ctxSlot (st : Strand) (p : Park) : (st.parkAt p).ctxSlot = st.ctxSlot := rfl
@[simp] theorem Strand.parkAt_core (st : Strand) (p : Park) : (st.parkAt p).core = st.core := rfl
@[simp] theorem Strand.parkAt_slot (st : Strand) (p : Park) : (st.parkAt p).slot = st.slot := rfl
@[simp] theorem Strand.parkAt_before (st : Strand) (p : Park) : (st.parkAt p).before = st.before := rfl
@[simp] theorem Strand.parkAt_waiting (st : Strand) (p : Park) : (st.parkAt p).waiting = st.waiting := rfl
@[simp] theorem Strand.parkAt_remote (st : Strand) (p : Park) : (st.parkAt p).remote = st.remote := rfl
@[simp] theorem Strand.parkAt_script (st : Strand) (p : Park) : (st.parkAt p).script = st.script := rfl
@[simp] theorem Strand.parkAt_owed (st : Strand) (p : Park) : (st.parkAt p).owed = st.owed := rfl
@[simp] theorem Strand.parkAt_entering (st : Strand) (p : Park) : (st.parkAt p).entering = st.entering := rfl
@[simp] theorem Strand.parkAt_pc (st : Strand) (p : Park) : (st.parkAt p).pc = st.pc := rfl
@[simp] theorem Strand.parkAt_rptAt (st : Strand) (p : Park) : (st.parkAt p).rptAt = st.rptAt := rfl
@[simp] theorem Strand.parkAt_reissue (st : Strand) (p : Park) : (st.parkAt p).reissue = st.reissue := rfl
@[simp] theorem Strand.parkAt_v (st : Strand) (p : Park) : (st.parkAt p).v = st.v := rfl
@[simp] theorem Strand.parkAt_w (st : Strand) (p : Park) : (st.parkAt p).w = st.w := rfl
@[simp] theorem Strand.parkAt_m (st : Strand) (p : Park) : (st.parkAt p).m = st.m := rfl
@[simp] theorem Strand.parkAt_b (st : Strand) (p : Park) : (st.parkAt p).b = st.b := rfl
@[simp] theorem Strand.parkAt_emptyV (st : Strand) (p : Park) : (st.parkAt p).emptyV = st.emptyV := rfl
@[simp] theorem Strand.parkAt_emptyW (st : Strand) (p : Park) : (st.parkAt p).emptyW = st.emptyW := rfl
@[simp] theorem Strand.parkAt_live (st : Strand) (p : Park) : (st.parkAt p).live = st.live := rfl
@[simp] theorem Strand.parkAt_sr (st : Strand) (p : Park) : (st.parkAt p).sr = st.sr := rfl
@[simp] theorem Strand.parkAt_quadCoherent (st : Strand) (p : Park) : (st.parkAt p).quadCoherent = st.quadCoherent := rfl
@[simp] theorem Strand.parkAt_leaseDecl (st : Strand) (p : Park) : (st.parkAt p).leaseDecl = st.leaseDecl := rfl
@[simp] theorem Strand.parkAt_leaseLines (st : Strand) (p : Park) : (st.parkAt p).leaseLines = st.leaseLines := rfl
@[simp] theorem Strand.parkAt_leasePeak (st : Strand) (p : Park) : (st.parkAt p).leasePeak = st.leasePeak := rfl
@[simp] theorem Strand.parkAt_leaseSeen (st : Strand) (p : Park) : (st.parkAt p).leaseSeen = st.leaseSeen := rfl
@[simp] theorem Strand.parkAt_admission (st : Strand) (p : Park) : (st.parkAt p).admission = st.admission := rfl
@[simp] theorem Strand.parkAt_order (st : Strand) (p : Park) : (st.parkAt p).order = st.order := rfl
@[simp] theorem Strand.parkAt_spell (st : Strand) (p : Park) : (st.parkAt p).spell = st.spell := rfl
@[simp] theorem Strand.parkAt_waitSince (st : Strand) (p : Park) : (st.parkAt p).waitSince = st.waitSince := rfl
@[simp] theorem Strand.parkAt_issueSince (st : Strand) (p : Park) : (st.parkAt p).issueSince = st.issueSince := rfl
@[simp] theorem Strand.parkAt_yielded (st : Strand) (p : Park) : (st.parkAt p).yielded = st.yielded := rfl
@[simp] theorem Strand.parkAt_posted (st : Strand) (p : Park) : (st.parkAt p).posted = st.posted := rfl
@[simp] theorem Strand.parkAt_mfail (st : Strand) (p : Park) : (st.parkAt p).mfail = st.mfail := rfl
@[simp] theorem Strand.parkAt_claim (st : Strand) (p : Park) : (st.parkAt p).claim = st.claim := rfl
@[simp] theorem Strand.parkAt_openBatch (st : Strand) (p : Park) : (st.parkAt p).openBatch = st.openBatch := rfl
@[simp] theorem Strand.parkAt_sealedBatches (st : Strand) (p : Park) : (st.parkAt p).sealedBatches = st.sealedBatches := rfl
@[simp] theorem Strand.parkAt_tickets (st : Strand) (p : Park) : (st.parkAt p).tickets = st.tickets := rfl

/-! ### What was written -/

theorem State.setReg_reg (s : State) (r q : CReg) (v : W64) : (s.setReg r v).reg q = if q = r then v else s.reg q := by
  simp only [State.reg, State.setReg]
  by_cases hq : q = r
  · subst hq
    rw [if_pos rfl]
    by_cases hv : v == resetValue q
    · have none_ : (s.regs.filter (fun e => e.1 != q)).find? (fun e => e.1 == q) = none := by
        simp [List.find?_eq_none]
      rw [if_pos hv, none_]
      exact (eq_of_beq hv).symm
    · rw [if_neg hv, List.find?_cons_of_pos (by simp)]
  · rw [if_neg hq]
    have same : (s.regs.filter (fun e => e.1 != r)).find? (fun e => e.1 == q) = s.regs.find? (fun e => e.1 == q) := by
      rw [List.find?_filter]
      congr 1
      funext e
      by_cases he : e.1 = q
      · simp [he, hq]
      · simp [he]
    have all_ : (if v == resetValue r then s.regs.filter (fun e => e.1 != r) else (r, v) :: s.regs.filter (fun e => e.1 != r)).find? (fun e => e.1 == q)
        = s.regs.find? (fun e => e.1 == q) := by
      split
      · exact same
      · rw [List.find?_cons_of_neg (by simpa using fun h : r = q => hq h.symm), same]
    rw [all_]

@[simp] theorem State.setReg_reg_self (s : State) (r : CReg) (v : W64) : (s.setReg r v).reg r = v := by rw [State.setReg_reg, if_pos rfl]

theorem State.setReg_reg_ne (s : State) {r q : CReg} (v : W64) (h : q ≠ r) : (s.setReg r v).reg q = s.reg q := by rw [State.setReg_reg, if_neg h]

@[simp] theorem State.modStrand_length (s : State) (i : Nat) (f : Strand → Strand) : (s.modStrand i f).strands.length = s.strands.length := by
  unfold State.modStrand; split <;> simp

theorem State.modStrand_get (s : State) (i j : Nat) (f : Strand → Strand) :
    (s.modStrand i f).strands[j]? = if j = i then s.strands[j]?.map f else s.strands[j]? := by
  unfold State.modStrand
  cases h : s.strands[i]? with
  | none =>
    by_cases hj : j = i
    · subst hj; simp [h]
    · simp [hj]
  | some st =>
    by_cases hj : j = i
    · subst hj
      obtain ⟨hl, -⟩ := List.getElem?_eq_some_iff.1 h
      simp [List.getElem?_set_self hl, h]
    · simp only [if_neg hj]
      exact List.getElem?_set_ne (fun e => hj e.symm)

end Sys2Proof.Machine
end

