-- ==== Sys2Proof/Laws/Traps.lean ====
section
/-! SUPPORT. Taking an exception and returning from one (R255, R431, R434): the outcomes of `State.takeTrap`, one lemma each, and what handler entry
and the return leave in each register. -/

namespace Sys2Proof.Machine

open Sys2Proof

theorem escalates_iff {st : Strand} : (st.sr.hnd || st.sr.handler &&& ~~~3 == 0) = true ↔ st.sr.hnd = true ∨ st.sr.handler &&& ~~~3 = 0 := by
  rw [Bool.or_eq_true, beq_iff_eq]

/-- No strand, no trap. -/
theorem State.takeTrap_none {s : State} {i : Nat} (h : s.strands[i]? = none) (t : Trap) (epc : W64) (r : Word) : s.takeTrap i t epc r = s := by
  simp [State.takeTrap, h]

/-- Outside a handler and with one set, the strand enters it, and nothing else changes. -/
theorem State.takeTrap_enters {s : State} {i : Nat} {st : Strand} (h : s.strands[i]? = some st) (hh : st.sr.hnd = false)
    (hv : st.sr.handler &&& ~~~3 ≠ 0) (t : Trap) (epc : W64) (r : Word) :
    s.takeTrap i t epc r = { s with strands := s.strands.set i { st.enter t epc r with waitSince := s.cycle } } := by
  simp only [State.takeTrap, h, hh, Bool.false_or]
  rw [if_neg (by simpa using hv), State.modStrand_some h]

/-- The firmware slot inside a handler, or with none, stops. -/
theorem State.takeTrap_stops {s : State} {i : Nat} {st : Strand} (h : s.strands[i]? = some st)
    (hh : st.sr.hnd = true ∨ st.sr.handler &&& ~~~3 = 0) (hf : st.isFirmware = true) (t : Trap) (epc : W64) (r : Word) :
    s.takeTrap i t epc r = s.stopFirmware i st.core := by
  simp only [State.takeTrap, h, hf, if_true]
  rw [if_pos (escalates_iff.2 hh)]

/-- Any other strand inside a handler, or with none, freezes with its gang, and CTXSTAT records the event. -/
theorem State.takeTrap_escalates {s : State} {i : Nat} {st : Strand} (h : s.strands[i]? = some st)
    (hh : st.sr.hnd = true ∨ st.sr.handler &&& ~~~3 = 0) (hf : st.isFirmware = false) (t : Trap) (epc : W64) (r : Word) :
    s.takeTrap i t epc r = (((s.modStrand i Strand.stopWait).freezeGangs (s.freezeSet st.who.ctx st.who.gang)).modStrand i (fun x => { x.halt with sr := st.sr })).recordCtx
      st.ctxSlot 1 t.cls.toNat t.detail.toNat st.who.gang.toNat := by
  simp only [State.takeTrap, h, hf, Bool.false_eq_true, if_false]
  rw [if_pos (escalates_iff.2 hh)]

@[simp] theorem State.recordCtx_mem (s : State) (k : Slot) (a b c d : Nat) : (s.recordCtx k a b c d).mem = s.mem := by
  unfold State.recordCtx
  simp only
  split <;> exact State.setReg_mem _ _ _

theorem State.freezeEntries_mem (s : State) (l : List (BitVec 12 × BitVec 24)) : (s.freezeEntries l).mem = s.mem := by
  have inner : ∀ (ps : List Nat) (u : State), (ps.foldl State.unpin u).mem = u.mem := by
    intro ps
    induction ps with
    | nil => intro u; rfl
    | cons p ps ih => intro u; rw [List.foldl_cons, ih]; rfl
  have outer : ∀ (es : List MxEntry) (u : State), (es.foldl (fun s e => e.pins.foldl State.unpin s) u).mem = u.mem := by
    intro es
    induction es with
    | nil => intro u; rfl
    | cons e es ih => intro u; rw [List.foldl_cons, ih, inner]
  exact outer _ s

@[simp] theorem State.freezeGangs_mem (s : State) (l : List (BitVec 12 × BitVec 24)) : (s.freezeGangs l).mem = s.mem := State.freezeEntries_mem s l

/-- Whatever a trap comes to, no byte of memory changes. -/
@[simp] theorem State.takeTrap_mem (s : State) (i : Nat) (t : Trap) (epc : W64) (r : Word) : (s.takeTrap i t epc r).mem = s.mem := by
  unfold State.takeTrap
  split
  · rfl
  · split
    · split
      · simp [State.stopFirmware]
      · simp
    · simp

/-! ### The registers of handler entry and of the return -/

section Entry
variable (st : Strand) (t : Trap) (epc : W64) (r : Word)

@[simp] theorem Strand.enter_pc : (st.enter t epc r).pc = st.sr.handler &&& ~~~3 := rfl
@[simp] theorem Strand.enter_cause : (st.enter t epc r).sr.cause = t.cause := rfl
@[simp] theorem Strand.enter_epc : (st.enter t epc r).sr.epc = epc &&& ~~~3 := rfl
@[simp] theorem Strand.enter_emask : (st.enter t epc r).sr.emask = st.mask 0 := rfl
@[simp] theorem Strand.enter_donemask : (st.enter t epc r).sr.donemask = t.done := rfl
@[simp] theorem Strand.enter_rptstate : (st.enter t epc r).sr.rptstate = r := rfl
@[simp] theorem Strand.enter_hnd : (st.enter t epc r).sr.hnd = true := rfl
@[simp] theorem Strand.enter_mode : (st.enter t epc r).sr.mode = if st.isFirmware then .firmware else .supervisor := rfl
@[simp] theorem Strand.enter_v : (st.enter t epc r).v = st.v := rfl
@[simp] theorem Strand.enter_w : (st.enter t epc r).w = st.w := rfl
@[simp] theorem Strand.enter_b : (st.enter t epc r).b = st.b := rfl
@[simp] theorem Strand.enter_rptAt : (st.enter t epc r).rptAt = 0 := rfl

@[simp] theorem Strand.returnFrom_pc : st.returnFrom.pc = st.sr.epc &&& ~~~3 := rfl
@[simp] theorem Strand.returnFrom_hnd : st.returnFrom.sr.hnd = false := rfl
@[simp] theorem Strand.returnFrom_mode : st.returnFrom.sr.mode = if st.isFirmware then .firmware else .user := rfl
@[simp] theorem Strand.returnFrom_v : st.returnFrom.v = st.v := rfl
@[simp] theorem Strand.returnFrom_w : st.returnFrom.w = st.w := rfl
@[simp] theorem Strand.returnFrom_b : st.returnFrom.b = st.b := rfl
@[simp] theorem Strand.returnFrom_reissue : st.returnFrom.reissue = true := rfl

end Entry

/-! ### The end of an iteration -/

/-- Whatever an iteration comes to, ending it changes no byte of memory. -/
theorem finish_mem (i : Instr) (idx k : Nat) (before : Strand) (s : State) (a : After) : (finish i idx k before s a).mem = s.mem := by
  unfold finish
  split
  · split <;> simp
  · simp
  · rfl
  · simp
  · simp

/-- Issuing a sequence changes memory only through its body. -/
theorem issue_mem_wf {i : Instr} {body : Body} {s t : State} (hb : ∀ k, (body k s).1.mem.wf = true) (hs : s.mem.wf = true)
    (h : issue i body s = .next t) : t.mem.wf = true := by
  unfold issue at h
  split at h
  · cases h
  · simp only at h
    split at h <;> cases h
    · simp [hs]
    · simp [hs]
    · simp [hs]
    · split <;> simp [finish_mem, State.heldBack, hb, hs]

end Sys2Proof.Machine
end

