-- ==== Sys2Proof/Tests/Slice0.lean ====
section
/-! SUPPORT. Tests: ill-formed sequences are refused; words written out from the spec's encodings decode; single steps give what the spec's own
examples give; and concrete states that meet the hypotheses of each statement. -/

namespace Sys2Proof.Tests

set_option Elab.async false

open Sys2Proof Sys2Proof.Machine Sys2Proof.Claims

/-! ### Well-formed and ill-formed sequences (R139 to R148) -/

def nop : Pfx := ⟨none, none, none⟩
def lit (x : Word) : Pfx := ⟨none, none, some x⟩
def rep (n sd sa sb : Nat) : Pfx := ⟨some ⟨BitVec.ofNat 8 n, BitVec.ofNat 4 sd, BitVec.ofNat 4 sa, BitVec.ofNat 4 sb⟩, none, none⟩
def noExt : Ext := ⟨0, false, false, false, false, false, false, 0, false⟩
def ext (e : Ext) : Pfx := ⟨none, some e, none⟩

/-! ### The states of the tests -/

/-- The state of `withFetchWord`: one gang of one strand, in a handler. Page 1 of its context lies in frame 0x100 of die 0. -/
def probe : State := State.reset.withFetchWord 32 0

/-- That state with another strand. -/
def withSt (st : Strand) : State := { probe with strands := [st] }

/-- The same strand in user mode, outside a handler, with a handler at 0x10040. -/
def userStrand : Strand := { probeStrand with sr := { probeStrand.sr with hnd := false, mode := .user, handler := 0x10040 } }

/-- A firmware strand. -/
def fwStrand : Strand := { probeStrand with who := ⟨0xFFF, 0xFFFFFF, 0, 0⟩, sr := { probeStrand.sr with mode := .firmware, hnd := false, handler := 0x10040 } }

/-- A buffer record (R131): base, extent, stride and out-of-bounds policy. -/
def recOf (base extent stride oobp : Nat) : BitVec 128 := BitVec.ofNat 128 (base + extent * 2 ^ 64 + stride * 2 ^ 96 + oobp * 2 ^ 120 + 2 ^ 127)

/-- A strand with records over page 1, lane numbers in v1 and v2, and pairs of addresses in w. -/
def memStrand : Strand :=
  { probeStrand with
    b := [recOf 0x10000 32 16 0, recOf 0x10000 4 4 0, recOf 0x10000 0 0 0x9] ++ List.replicate 13 0
    v := (probeStrand.v.set 1 ((List.range 32).map (BitVec.ofNat 32))).set 2 ((List.range 32).map (fun l => BitVec.ofNat 32 (7 * l + 1)))
    w := [0, 0, 0x10000, 0, 0x10100, 0, 5, 0, 0x10200, 0, 1] ++ List.replicate 53 0 }

/-- The answer of one execution: the issuing strand afterwards. -/
def after (i : Instr) (s : State) : Option Strand :=
  match exec i s with
  | .next t => t.strands[s.cur]?
  | _ => none

/-- The state afterwards. -/
def nextOf (i : Instr) (s : State) : Option State :=
  match exec i s with
  | .next t => some t
  | _ => none

/-- A state with memory in the frame of page 1, one request under way, and the result that its answer fills. -/
def reqState (r : Req) : State :=
  { withSt memStrand with
    mem := [(0x1000000, 0x78), (0x1000001, 0x56), (0x1000002, 0x34), (0x1000003, 0x12), (0x1000004, 0xFF)]
    reqs := [r]
    results := [⟨3, memStrand.who, [], [4], [], [], [], [], [7], 0, 0⟩]
    nextId := 8 }

/-- A request of that strand to the word at the start of the frame. -/
def reqOf (size : Nat) (x : Access) : Req := ⟨7, memStrand.who, memStrand.core, 1, 0x1000000, size, x, some ⟨3, none, [4], none⟩, 0, 1⟩

/-- A sequence of each form with all it may carry is well formed. -/
theorem test_wf_good :
    (Instr.iadd nop 4 1 2).wf = true ∧ (Instr.iadd (lit 5) 4 1 0).wf = true ∧ (Instr.iadd (rep 4 1 1 1) 4 8 12).wf = true
      ∧ (Instr.iadd (ext { noExt with pred := 1, pinv := true, sat := true }) 4 1 2).wf = true
      ∧ (Instr.fadd (ext { noExt with rmo := 5 }) 4 1 2).wf = true
      ∧ (Instr.selL (ext { noExt with pred := 2 }) 4 1 2).wf = true ∧ (Instr.dadd nop 4 2 6).wf = true := by decide +kernel

/-- R142: INV without a predicate, TEA of an absent source, UB beside a literal, a rounding override below 4 or where nothing rounds, SAT where
nothing saturates, and a predicate before a uniform instruction are misplaced. -/
theorem test_wf_ext :
    (Instr.iadd (ext { noExt with pinv := true }) 4 1 2).wf = false
      ∧ (Instr.movi (ext { noExt with tea := true }) 4 7).wf = false
      ∧ (Instr.iadd ⟨none, some { noExt with ub := true }, some 5⟩ 4 1 0).wf = false
      ∧ (Instr.fadd (ext { noExt with rmo := 3 }) 4 1 2).wf = false ∧ (Instr.iadd (ext { noExt with rmo := 4 }) 4 1 2).wf = false
      ∧ (Instr.andL (ext { noExt with sat := true }) 4 1 2).wf = false
      ∧ (Instr.sadd (ext { noExt with pred := 1 }) 4 1 2 0).wf = false
      ∧ (Instr.iadd (ext { noExt with ua := true }) 4 64 2).wf = false := by decide +kernel

/-- R143: `rpt` before a uniform instruction, or with a stride over a mask field. -/
theorem test_wf_rpt :
    (Instr.sadd (rep 2 0 0 0) 4 1 2 0).wf = false ∧ (Instr.icmp (rep 2 1 0 0) 0 1 2 3).wf = false
      ∧ (Instr.regroup (rep 2 0 0 0) 4 2 7).wf = false := by decide +kernel

/-- R145: a literal where none is taken, or beside a non-zero field. -/
theorem test_wf_lit : (Instr.iabs (lit 5) 4 1).wf = false ∧ (Instr.iadd (lit 5) 4 1 3).wf = false ∧ (Instr.dadd (lit 5) 4 2 0).wf = false := by
  decide +kernel

/-- R140, R188, R189, R191: a reserved condition or kind, and `sel` without a predicate. -/
theorem test_wf_fields : (Instr.icmp nop 10 1 2 3).wf = false ∧ (Instr.selL nop 4 1 2).wf = false ∧ (Instr.lid nop 4 3).wf = false := by
  decide +kernel

/-- R139, R144: a pair in an odd register is refused with the ranges of the registers. -/
theorem test_odd_pairs : verdict (.dadd nop 5 2 6) probeStrand = .trap Trap.illegal ∧ verdict (.sadd nop 3 2 4 1) probeStrand = .trap Trap.illegal
    ∧ verdict (.movw nop 4 3) probeStrand = .trap Trap.illegal ∧ verdict (.iadd nop 4 1 2) probeStrand = .go 0 := by decide +kernel

/-! ### Words of the spec's encodings (R137 to R147) -/

theorem test_decode_int : decodeTableWord 32 0x0E220405 = some (.icmp nop 2 2 4 5) ∧ decodeTableWord 32 0x02080406 = some (.iaddc nop 8 4 6) := by
  decide +kernel
theorem test_decode_float : decodeTableWord 32 0x24030102 = some (.fadd nop 3 1 2) ∧ decodeTableWord 32 0x27080204 = some (.ffma nop 8 2 4)
    ∧ decodeTableWord 32 0x2A210405 = some (.fcmp nop 2 1 4 5) ∧ decodeTableWord 32 0x2B020001 = some (.fdiv nop 2 0 1)
    ∧ decodeTableWord 32 0x3F0607B0 = some (.cvt nop 6 7 11 0) := by decide +kernel
theorem test_decode_crosslane : decodeTableWord 32 0x45030201 = some (.shflXor nop 3 2 1) ∧ decodeTableWord 32 0x49030400 = some (.ballot nop 3 4)
    ∧ decodeTableWord 32 0x51090200 = some (.mcount nop 9 2) ∧ decodeTableWord 32 0x52101017 = some (.regroup nop 16 16 23) := by decide +kernel
theorem test_decode_memory : decodeTableWord 32 0x56060523 = some (.ldB32 nop 6 5 2 3) ∧ decodeTableWord 32 0x60070530 = some (.atomB32 nop 7 5 3 0)
    ∧ decodeTableWord 32 0x64080530 = some (.atomCas128 nop 8 5 3 0) ∧ decodeTableWord 32 0x690C0948 = some (.redFPair nop 12 9 4 0) := by
  decide +kernel
theorem test_decode_rays_reservoirs : decodeTableWord 32 0x70080010 = some (.trace nop 8 0 16) ∧ decodeTableWord 32 0x710C0010 = some (.traceocc nop 12 0 16)
    ∧ decodeTableWord 32 0x72140008 = some (.trres nop 20 0 8) ∧ decodeTableWord 32 0x73181C10 = some (.ltwalk nop 24 28 16)
    ∧ decodeTableWord 32 0x6B081018 = some (.rsvupd nop 8 16 24) ∧ decodeTableWord 32 0x6C081018 = some (.rsvmrg nop 8 16 24)
    ∧ decodeTableWord 32 0x741E0204 = some (.rng nop 30 2 4) := by decide +kernel
theorem test_decode_sections : decodeTableWord 32 0x75000406 = some (.osenter nop 4 6) ∧ decodeTableWord 32 0x76020406 = some (.osenterAny nop 2 4 6)
    ∧ decodeTableWord 32 0x78140250 = some (.emit nop 20 2 5 0) := by decide +kernel
theorem test_decode_uniform : decodeTableWord 32 0x818A0B01 = some (.sadd nop 34 32 44 1) ∧ decodeTableWord 32 0xAA600008 = some (.brany 3 8)
    ∧ decodeTableWord 32 0xB0183FFB = some (.loopW 6 (BitVec.ofInt 14 (-5))) := by decide +kernel
theorem test_decode_sync : decodeTableWord 32 0xD9284185 = some (.waitc nop 10 4 6 0 5) ∧ decodeTableWord 32 0xD6384203 = some (.tbarArrive nop 14 4 8 3) := by
  decide +kernel
theorem test_decode_matrix : decodeTableWord 32 0xEB204180 = some (.mma nop 8 4 6) ∧ decodeTableWord 32 0xEC206280 = some (.mmaGath nop 8 6 5)
    ∧ decodeTableWord 32 0xEA000001 = some (.mz nop 1) ∧ decodeTableWord 32 0xEE004282 = some (.mdrain nop 4 10 0 2) := by decide +kernel
/-- Unassigned opcodes and non-zero reserved bits decode to nothing (R146 to R148). -/
theorem test_decode_refused : decodeTableWord 32 0 = none ∧ decodeTableWord 32 0xFFFFFFFF = none ∧ decodeTableWord 32 0x51090201 = none := by
  decide +kernel
/-- R138: `rpt`, `ext`, the word and its literal are one sequence of four words and the literal's own prefix. -/
theorem test_decode_prefixes : decodeSeq [0xFE042200, 0xFD600800, 0x010A1400, 0xFF000000, 0x00010000]
    = .ok (.iadd ⟨some ⟨4, 2, 2, 0⟩, some { noExt with pred := 3, sat := true }, some 0x10000⟩ 10 20 0, 5) := by rfl
theorem test_encode : (encode (.icmp nop 2 2 4 5)) = [0x0E220405] ∧ encode (.waitc nop 10 4 6 0 5) = [0xD9284185] := by decide +kernel

/-! ### The hypotheses of the statements can be met -/

/-- No lane is active: m0 is 0. -/
def idleStrand : Strand := { memStrand with m := memStrand.m.set 0 0 }
/-- The firmware slot, as the issuing strand. -/
def fwState : State := { withSt fwStrand with gangs := [] }

/-- The per-lane instructions of R180 to R206 and R211 to R216. -/
def laneInstrs : List Instr :=
  [.iadd nop 4 1 2, .isub (ext { noExt with sat := true }) 4 1 2, .imul nop 4 1 2, .imad nop 4 1 2, .imulh nop 4 1 2, .imulhn nop 4 1 2, .iabs nop 4 1,
   .imin nop 4 1 2, .imax nop 4 1 2, .iminn nop 4 1 2, .imaxn nop 4 1 2, .andL nop 4 1 2, .orL nop 4 1 2, .xorL nop 4 1 2, .andn nop 4 1 2,
   .notL nop 4 1, .shl nop 4 1 2, .shr nop 4 1 2, .sra nop 4 1 2, .rotl (lit 33) 4 1 0, .popc nop 4 1, .clz nop 4 1, .ctz nop 4 1, .brev nop 4 1,
   .bfe nop 4 1 2, .bfes nop 4 1 2, .bfi nop 4 1 2, .mov nop 4 1, .movw nop 4 2, .movi nop 4 7, .lid nop 4 2, .iaddc nop 4 1 2, .isubb nop 4 1 2,
   .icmp nop 9 2 1 2, .fadd (ext { noExt with rmo := 7 }) 4 1 2, .fsub nop 4 1 2, .fmul nop 4 1 2, .ffma nop 4 1 2, .fmin nop 4 1 2, .fmax nop 4 1 2,
   .hadd2 nop 4 1 2, .hmul2 nop 4 1 2, .hfma2 nop 4 1 2, .badd2 nop 4 1 2, .bmul2 nop 4 1 2, .bfma2 nop 4 1 2, .fdot2b nop 4 1 2, .frnd nop 4 1,
   .ffrac nop 4 1, .fdiv nop 4 1 2, .frcp nop 4 1, .frsq nop 4 1, .fsqrt nop 4 1, .fexp2 nop 4 1, .flog2 nop 4 1, .fsinr nop 4 1, .fcosr nop 4 1,
   .dadd nop 4 2 6, .dmul nop 4 2 6, .dfma nop 4 2 6, .fcmp nop 5 3 1 2, .cvt nop 4 2 0 1, .ddx nop 4 1, .ddy nop 4 1,
   .shfl nop 4 1 2, .shflUp nop 4 1 31, .shflDown nop 4 1 1, .shflXor nop 4 1 16, .bcast nop 4 1 31, .vany nop 4 1, .vall nop 4 1, .redadd nop 4 1,
   .redmin nop 4 1, .redmax nop 4 1, .redminIdx nop 4 1 2, .redmaxIdx nop 4 1 2, .redfadd nop 4 1, .scanadd nop 4 1, .mcount nop 4 2, .ballot nop 3 1]

/-- Each of them executes with active lanes. -/
theorem witness_LaneInstructions : ∀ i ∈ laneInstrs, Ready i (withSt memStrand) memStrand 0 ∧ memStrand.active i.px ≠ 0 := by
  unfold Ready; decide +kernel
/-- Each of them executes with no active lane. -/
theorem witness_LaneInstructions_idle : ∀ i ∈ laneInstrs, Ready i (withSt idleStrand) idleStrand 0 ∧ idleStrand.active i.px = 0 := by
  unfold Ready; decide +kernel
/-- `sel` needs its predicate, and an iteration of a repeat runs in the middle of it. -/
theorem witness_LaneSelectAndMoves : Ready (.selL (ext { noExt with pred := 2, pinv := true }) 4 1 2) (withSt memStrand) memStrand 0
    ∧ (∃ g, (withSt memStrand).gangOf memStrand = some g)
    ∧ Ready (.iadd (rep 3 1 1 1) 4 8 12) (withSt { memStrand with rptAt := 2 }) { memStrand with rptAt := 2 } 2 := by
  refine ⟨?_, ⟨probeGang, by decide +kernel⟩, ?_⟩ <;> unfold Ready <;> decide +kernel
theorem witness_NaNsAreCanonical : (fp32.decode 0x7F800001).isNan = true ∧ (fp32.decode 0xFFFFFFFF).isNan = true
    ∧ (fp32.decode (fAdd fp32 .rd 0x7F800000 0xFF800000).bits).isNan = true ∧ (fp32.decode (fMul fp32 .rz 0 0x7F800000).bits).isNan = true := by
  decide +kernel
theorem witness_RegroupArrives : Ready (.regroup nop 4 1 7) (withSt memStrand) memStrand 0 ∧ memStrand.isFirmware = false
    ∧ (withSt memStrand).gangOf memStrand = some probeGang
    ∧ Ready (.regroup nop 4 1 7) fwState fwStrand 0 ∧ fwStrand.isFirmware = true := by
  unfold Ready; decide +kernel
/-- The other strand of the workgroup, which waits at the `regroup`. -/
def regroupWaits : Strand :=
  { memStrand with who := { memStrand.who with widx := 1 }, slot := 1, state := .parked, park := some .regroup, waiting := some (.regroup nop 4 1 7) }
/-- The last strand to arrive, of two and of one. -/
theorem witness_RegroupCompletes :
    let g2 := { probeGang with regroups := [⟨2, 1, 0⟩] }
    let s2 := { withSt memStrand with strands := [memStrand, regroupWaits], gangs := [g2], lbars := [] }
    let s1 := { withSt memStrand with gangs := [probeGang], lbars := [] }
    (∀ x ∈ [(s2, g2), (s1, probeGang)], Ready (.regroup nop 4 1 7) x.1 memStrand 0 ∧ x.1.gangOf memStrand = some x.2 ∧ 0 < x.2.kernel.wgs
      ∧ (x.1.counter x.2 (.regroup 0)).registered = (x.1.counter x.2 (.regroup 0)).arrived + 1
      ∧ (∀ c ∈ [Counter.wg 0, .gang, .launch], (x.1.counter x.2 c).arrived = 0)
      ∧ (∀ z ∈ x.1.strands, x.1.member x.2 (.regroup 0) z = true → (Counter.regroup 0).has z = true → regroupFields z.waiting = (4, 1, 7)))
    ∧ memStrand.state = .active ∧ memStrand.who.wg = 0 ∧ s1.strands = [memStrand] ∧ s1.cur = 0 := by
  unfold Ready; decide +kernel

/-! #### Per-lane memory -/

/-- Every lane passed its checks at a home of the package, or is out of range. -/
def goodLane (o : Nat × LaneRes) : Bool := match o.2 with | .out => true | .ok (.mem _) _ => true | _ => false

theorem goodLane_iff (o : Nat × LaneRes) (h : goodLane o = true) : o.2 = .out ∨ ∃ a v, o.2 = .ok (.mem a) v := by
  unfold goodLane at h
  split at h
  · exact .inl ‹_›
  · exact .inr ⟨_, _, ‹_›⟩
  · cases h

/-- The forms of the statements, with destination v4, index v1 and record b. -/
def ldForm (b : BitVec 4) (n : Nat) : LaneForm := form nop b 1 0 .read n n (fun _ => .read n) (groupOf (dstOf nop 4 0) n) 0 memStrand
def atomForm (b : BitVec 4) (wide : Bool) : LaneForm :=
  let n := if wide then 8 else 4
  form nop b 1 0 .write n n (fun l => .atomic wide 8 (BitVec.ofNat 64 (memStrand.laneGroup (dstOf nop 4 0) ((n + 3) / 4) l))) (groupOf (dstOf nop 4 0) n) 0 memStrand
def casForm (b : BitVec 4) (n : Nat) : LaneForm := form nop b 1 0 .write n n
  (fun l => .cas n (BitVec.ofNat 128 (memStrand.laneGroup (dstOf nop 4 0) ((n + 3) / 4) l))
    (BitVec.ofNat 128 (memStrand.laneGroup (dstOf nop 4 0 + (n + 3) / 4) ((n + 3) / 4) l))) (groupOf (dstOf nop 4 0) n) 0 memStrand
def stForm (b : BitVec 4) (n : Nat) : LaneForm :=
  form nop b 1 0 .write n n (fun l => .write (leBytes n (memStrand.laneGroup (dstOf nop 4 0) ((n + 3) / 4) l))) [] 0 memStrand
def redForm (b : BitVec 4) (n align : Nat) (acc : W64 → Access) : LaneForm :=
  form nop b 1 0 .write align align (fun l => acc (BitVec.ofNat 64 (memStrand.laneGroup (dstOf nop 4 0) ((n + 3) / 4) l))) [] 0 memStrand

/-- The instructions of R228 to R237 with their forms: record 0 has an extent of 32, record 1 of 4. -/
def memForms : List (Instr × LaneForm) :=
  [(.ldB8 nop 4 1 0 0, ldForm 0 1), (.ldB16 nop 4 1 0 0, ldForm 0 2), (.ldB32 nop 4 1 1 0, ldForm 1 4), (.ldB64 nop 4 1 0 0, ldForm 0 8),
   (.ldB128 nop 4 1 0 0, ldForm 0 16), (.atomB32 nop 4 1 0 8, atomForm 0 false), (.atomB64 nop 4 1 0 8, atomForm 0 true),
   (.atomCasB32 nop 4 1 1 0, casForm 1 4), (.atomCasB64 nop 4 1 0 0, casForm 0 8), (.atomCas128 nop 4 1 0 0, casForm 0 16),
   (.stB8 nop 4 1 0 0, stForm 0 1), (.stB16 nop 4 1 0 0, stForm 0 2), (.stB32 nop 4 1 1 0, stForm 1 4), (.stB64 nop 4 1 0 0, stForm 0 8),
   (.stB128 nop 4 1 0 0, stForm 0 16), (.redB32 nop 4 1 0 7, redForm 0 4 4 (.redInt false 7)), (.redB64 nop 4 1 0 9, redForm 0 8 8 (.redInt true 9)),
   (.redF nop 4 1 0 0 1, redForm 0 4 4 (.redFloat 0 1 false)), (.redFFtz nop 4 1 0 0 1, redForm 0 4 4 (.redFloat 0 1 true)),
   (.redFPair nop 4 1 0 1, redForm 0 8 16 (.redPair true))]

theorem witness_LanesStart : ∀ x ∈ memForms, Ready x.1 (withSt memStrand) memStrand 0 ∧ memStrand.active x.1.px ≠ 0 ∧ recordBad x.2.record = false
    ∧ (checkLanes memStrand x.2 (lanesOf (memStrand.active x.1.px)) (withSt memStrand)).1.stalled = []
    ∧ (checkLanes memStrand x.2 (lanesOf (memStrand.active x.1.px)) (withSt memStrand)).2.all goodLane = true := by
  unfold Ready; decide +kernel
/-- The clauses of R222 to R224 at the ends of the extent. -/
theorem witness_LaneAddresses :
    (let r := recOf 0x10000 4 4 0; let n := (r.extractLsb' 64 32).toNat; (3 : Word).toNat + 0 < n ∧ n ≤ (3 : Word).toNat + 1 ∧ (r.extractLsb' 120 4).toNat = 0)
    ∧ (let r := recOf 0x10000 4 4 1; (r.extractLsb' 64 32).toNat ≤ (4 : Word).toNat ∧ (r.extractLsb' 120 4).toNat = 1)
    ∧ (let r := recOf 0x10000 4 4 2; (r.extractLsb' 64 32).toNat ≤ (4 : Word).toNat ∧ (r.extractLsb' 120 4).toNat = 2 ∧ 0 < (r.extractLsb' 64 32).toNat)
    ∧ (let r := recOf 0x10000 0 4 2; (r.extractLsb' 64 32).toNat = 0 ∧ (r.extractLsb' 120 4).toNat = 2) := by decide +kernel
theorem witness_RecordFaultsAndPrefetch :
    (∀ i ∈ [Instr.ldB8 nop 4 1 2 0, .ldB16 nop 4 1 2 0, .ldB32 nop 4 1 2 0, .ldB64 nop 4 1 2 0, .ldB128 nop 4 1 2 0, .stB8 nop 4 1 2 0,
        .stB16 nop 4 1 2 0, .stB32 nop 4 1 2 0, .stB64 nop 4 1 2 0, .stB128 nop 4 1 2 0, .pf nop 1 2 0, .atomB32 nop 4 1 2 0,
        .atomB64 nop 4 1 2 0, .atomCasB32 nop 4 1 2 0, .atomCasB64 nop 4 1 2 0, .atomCas128 nop 4 1 2 0, .redB32 nop 4 1 2 0,
        .redB64 nop 4 1 2 0, .redF nop 4 1 2 0 0, .redFFtz nop 4 1 2 0 0, .redFPair nop 4 1 2 0],
      Ready i (withSt memStrand) memStrand 0 ∧ (memStrand.active i.px).getLsbD 0 = true ∧ recordBad (memStrand.brec 2) = true)
    ∧ (let lines := form nop 0 1 0 .read 128 1 (fun _ => .read 128) [] 0 memStrand
       ((lanesOf (memStrand.active nop)).foldl (fun s l =>
          match indexOf lines.record (lines.index l) lines.off with | .at a => s.prefetch memStrand lines a | _ => s) (withSt memStrand)).stalled = [])
    ∧ (Ready (.pf nop 1 0 0) (withSt memStrand) memStrand 0 ∧ recordBad (memStrand.brec 0) = false)
    ∧ Ready (.pf nop 1 2 0) (withSt idleStrand) idleStrand 0 ∧ idleStrand.active nop = 0 := by
  unfold Ready; decide +kernel

/-- The requests of the home statements. -/
def atHome : List Req := [reqOf 4 (.read 4), reqOf 4 (.write [1, 2, 3, 4]), reqOf 8 (.atomic true 9 5), reqOf 4 (.cas 4 0x12345678 7), reqOf 4 (.redInt false 0 5),
  { reqOf 8 (.redInt true 7 5) with core := ⟨1, 0, 0⟩ }]
theorem witness_HomeAccesses : (∀ r ∈ atHome, Performs (reqState r) 7 r ∧ (reqState r).partials = [] ∧ r.path ≠ 0 ∧ r.path ≠ 4)
    ∧ dieOf (reqOf 4 (.redInt false 0 5)).addr = (reqOf 4 (.redInt false 0 5)).core.die ∧ isDevice 0x1000000 = true ∧ dieOf 0x1000000 ≠ (1 : Die)
    ∧ Uncopied (reqState (reqOf 4 (.read 4))) 0x1000000 := by
  refine ⟨by unfold Performs; decide +kernel, by decide +kernel, by decide +kernel, by decide +kernel, ?_⟩
  intro c hc
  cases hc

/-- A strand that holds for v4, and the result that fills it. -/
def heldStrand : Strand := { memStrand with state := .held, park := some .register, emptyV := [4] }
def arrived : Result := ⟨3, memStrand.who, [4], [], [(4, 31, 5)], [], [], [], [], 1, 0⟩
theorem witness_FillsResumeAndResultsArrive :
    (let q := reqOf 4 (.read 4)
     (reqState q).reqs = [q] ∧ isDevice q.addr = true ∧ q.access.special = false ∧ (reqState q).l2Ready q.addr q.size = true
      ∧ ∃ l ∈ linesOf q.addr q.size, (reqState q).homeSlot l
          = ((BitVec.ofNat 4 ((reqState q).homeSlot l).1).toNat, (BitVec.ofNat 15 ((reqState q).homeSlot l).2).toNat))
    ∧ (let s : State := { withSt heldStrand with results := [arrived, ⟨5, memStrand.who, [], [63], [], [(63, 9)], [], [], [], 0, 0⟩] }
       s.results.find? (fun x => x.id == 3) = some arrived ∧ arrived.pending = [] ∧ s.findStrand arrived.who = some 0 ∧ s.strands[0]? = some heldStrand
        ∧ (∀ x ∈ s.strands, x.remote = none) ∧ 4 < heldStrand.allotment ∧ (31 : Nat) < 32) := by
  decide +kernel

/-! #### Uniform instructions -/

/-- w registers: pairs of addresses in page 1 (path 1), small numbers, and values for each clause. -/
def uniWords : List Word := [0x10000, 0x10000000, 5, 0, 0x10200, 0x10000000, 0, 0, 1, 0, 0x10002, 0x10000000, 0x20000, 0x30000000, 0x80000000, 0, 0x12345678, 1]
def uniStrand : Strand := { memStrand with w := uniWords ++ List.replicate 46 0, m := [0xFF, 0xF, 0, 3, 4, 5, 6, 7] }
def uniState : State := withSt uniStrand

/-- The uniform instructions whose effect needs nothing but their checks. -/
def uniInstrs : List Instr :=
  [.sadd (ext { noExt with sat := true }) 20 0 2 1, .ssub nop 20 0 2 0, .smul nop 20 0 2 1, .sand nop 20 0 2 0, .sor nop 20 0 2 0, .sxor nop 20 0 2 0,
   .sshl nop 20 0 2 1, .sshr nop 20 0 2 0, .ssra nop 20 0 2 0, .smin nop 20 0 2 0 0, .smax nop 20 0 2 1 1, .smov nop 20 0 0, .smulh nop 20 0 2 0,
   .scmp nop 20 0 2 1 9, .ssel nop 20 0 2 8, .sli nop 20 0x20000, .slih nop 20 7, .spopc nop 20 0, .sclz nop 20 0, .sbfe nop 20 0 2 1,
   .sfadd nop 20 0 2, .sfmul nop 20 0 2, .sffma nop 20 0 2, .sfmin nop 20 0 2, .sfmax nop 20 0 2, .sfcmp nop 20 0 2 3, .sfrcp nop 20 0, .sfsqrt nop 20 0,
   .sfcvt nop 20 0 0 1, .br 5, .brw 8 0 5, .brany 1 5, .brall 1 5, .brnone 2 5, .callU 5, .ret nop 0, .jmpw nop 0 2, .loopW 8 5, .nop nop, .yield nop,
   .sleep nop 0, .sleep nop 5, .trapU nop 7, .exitL nop, .mand nop 0 1 2, .mor nop 0 1 2, .mxor nop 0 1 2, .mandn nop 0 1 2, .mnot nop 0 1, .mmov nop 0 1,
   .wtom nop 0 2, .mtow nop 20 1, .mpopc nop 20 1, .mffs nop 20 1]

theorem witness_UniformInstructions : ∀ i ∈ uniInstrs, Ready i uniState uniStrand 0 := by unfold Ready; decide +kernel
/-- Both ways of each branch, of `loop` and of the targets of jumps. -/
theorem witness_BranchesAndJumps :
    uniStrand.wreg 6 = 0 ∧ uniStrand.wreg 8 ≠ 0
    ∧ uniStrand.mask 1 &&& uniStrand.mask 0 ≠ 0 ∧ ¬(uniStrand.mask 2 &&& uniStrand.mask 0 ≠ 0)
    ∧ ¬(uniStrand.mask 0 &&& ~~~uniStrand.mask 1 = 0) ∧ uniStrand.mask 0 &&& ~~~uniStrand.mask 0 = 0
    ∧ uniStrand.wreg 8 - 1 = 0 ∧ uniStrand.wreg 2 - 1 ≠ 0
    ∧ (uniStrand.wpair 0).extractLsb' 60 4 = 1 ∧ (uniStrand.wpair 0).extractLsb' 0 2 = 0 ∧ (uniStrand.wpair 0).extractLsb' 57 3 = 0
    ∧ (uniStrand.wpair 10).extractLsb' 0 2 ≠ 0 ∧ (uniStrand.wpair 12).extractLsb' 60 4 = 3 := by
  decide +kernel
/-- A sleeping strand, and the ways to `exit`. -/
def sleeper : Strand := { userStrand with state := .parked, park := some (.sleep 100), waiting := some (.sleep nop 100) }
def leaver (m0 live : Word) (posted : Nat) (rfault : W64) : Strand :=
  { uniStrand with m := uniStrand.m.set 0 m0, live := live, posted := posted, sr := { uniStrand.sr with rfault := rfault } }
theorem witness_NopYieldSleepTrap : (withSt sleeper).findStrand sleeper.who = some 0 ∧ (withSt sleeper).strands[0]? = some sleeper
    ∧ sleeper.state = .parked ∧ sleeper.isFirmware = false ∧ sleeper.park = some (.sleep 100) ∧ sleeper.waiting = some (.sleep nop 100) := by decide +kernel
theorem witness_ExitsLeave :
    (∀ x ∈ [leaver 0 0xFF 0 0, leaver 0xF 0xFF 0 0, leaver 0xFF 0xFF 1 0, leaver 0xFF 0xFF 0 (1 <<< 63), leaver 0xFF 0xFF 0 0],
      Ready (.exitL nop) (withSt x) x 0 ∧ (withSt x).statusReq x.who = false ∧ (withSt x).statusSec x.who = false)
    ∧ (let x := leaver 0xFF 0xFF 0 0
       let k : KeyEntry := ⟨0, 0, 0, x.who.ctx, 9, 0, some (x.who, 0), false, 0, 0⟩
       ({ withSt x with keyReqs := [⟨0, x.who.ctx, 9, 4, x.who, 0⟩] } : State).statusReq x.who = true
        ∧ ({ withSt x with keys := [k] } : State).statusReq x.who = false ∧ ({ withSt x with keys := [k] } : State).statusSec x.who = true) := by
  unfold Ready; decide +kernel
theorem witness_MaskInstructions : (ext { noExt with pred := 1 }).extD.pred ≠ 0 := by decide +kernel

/-- No access on the way to here waited for a way or a die, and these bytes are at hand (R24, R73, R93, R466). -/
def handy (s : State) (x : Nat) : Bool := s.stalled.isEmpty && s.l2Ready x 16 && s.deadDies.isEmpty && s.vaultUpsets.isEmpty
theorem handy_spec {s : State} {x : Nat} (h : handy s x = true) : s.stalled = [] ∧ AtHand s x 16 := by
  simp only [handy, Bool.and_eq_true, List.isEmpty_iff] at h
  exact ⟨h.1.1.1, h.1.1.2, h.1.2, h.2⟩
/-- An access at a home of the package. -/
def atMem {β : Type} (r : State × Ans (Place × β)) (p : State → Bool) : Bool :=
  match r with | (s1, .ok (.mem x, _)) => handy s1 x && p s1 | _ => false
theorem atMem_spec {β : Type} {r : State × Ans (Place × β)} {p : State → Bool} (h : atMem r p = true) :
    ∃ s1 x b, r = (s1, .ok (.mem x, b)) ∧ handy s1 x = true ∧ p s1 = true := by
  unfold atMem at h
  split at h
  · exact ⟨_, _, _, rfl, by simpa using h⟩
  · cases h
/-- An access that faults. -/
def isBad {β : Type} (r : State × Ans β) : Bool := match r with | (s1, .bad _) => s1.stalled.isEmpty | _ => false
theorem isBad_spec {β : Type} {r : State × Ans β} (h : isBad r = true) : ∃ s1 f, r = (s1, .bad f) ∧ s1.stalled = [] := by
  unfold isBad at h
  split at h
  · exact ⟨_, _, rfl, by simpa using h⟩
  · cases h

theorem witness_UniformMemory :
    (∀ i ∈ [Instr.sld 20 0 3 1, .sld 20 0 4 0, .satom 20 0 1 8, .sst 20 0 3 (-1), .recst 3 0 0, .recld 3 0 0], Ready i uniState uniStrand 0)
    ∧ (∀ n ∈ [1, 2, 4, 8, 16], ∀ k ∈ [AccessKind.read, .write], atMem (uniState.placeUniform uniStrand (uniStrand.wpair 0) n k) (fun s => s.partials.isEmpty) = true
        ∧ isBad (uniState.placeUniform uniStrand (uniStrand.wpair 12) n k) = true)
    ∧ uniState.reqs = [] ∧ uniState.results = [] ∧ uniState.partials = [] ∧ field (uniStrand.wpair 0) 63 60 = 1
    ∧ uniState.findStrand uniStrand.who = some uniState.cur := by
  unfold Ready; decide +kernel

/-! #### System registers and instructions -/

theorem witness_SystemRegisterReads : (∀ n ∈ [0, 1, 2, 5, 8, 0x0D, 0x0E, 0x12, 0x13, 0x14, 0x15], Ready (.srd nop 20 (BitVec.ofNat 8 n)) uniState uniStrand 0)
    ∧ Ready (.srd nop 20 0) (withSt userStrand) userStrand 0 ∧ userStrand.sr.mode = .user ∧ uniStrand.sr.mode = .supervisor
    ∧ Ready (.srd nop 20 0) fwState fwStrand 0 ∧ fwStrand.sr.mode = .firmware := by unfold Ready; decide +kernel
/-- A refused value, a read-only register, a narrow and a wide register, and sr.rfault. -/
theorem witness_SystemRegisterWrites :
    Ready (.swr nop 14 0x09) uniState uniStrand 0 ∧ (uniStrand.wreg 14).setWidth 64 &&& ~~~srFields 0x09 ≠ 0
    ∧ Ready (.swr nop 6 0x14) uniState uniStrand 0 ∧ (uniStrand.wreg 6).setWidth 64 &&& ~~~srFields 0x14 = 0
    ∧ Ready (.swr nop 2 0x03) uniState uniStrand 0 ∧ (uniStrand.wreg 2).setWidth 64 &&& ~~~srFields 0x03 = 0
    ∧ Ready (.swr nop 0 0x0D) uniState uniStrand 0 ∧ uniStrand.wpair 0 &&& ~~~srFields 0x0D = 0
    ∧ Ready (.swr nop 6 0x0E) uniState uniStrand 0 ∧ (uniStrand.wpair 6).getLsbD 63 = false := by unfold Ready; decide +kernel
def outStrand : Strand := { uniStrand with sr := { uniStrand.sr with hnd := false } }
theorem witness_ReturnsFromHandlers : Ready (.rfe nop) uniState uniStrand 0 ∧ uniStrand.sr.hnd = true
    ∧ Ready (.rfe nop) (withSt outStrand) outStrand 0 ∧ outStrand.sr.hnd = false
    ∧ (Instr.rfe nop).wf = true ∧ userStrand.sr.mode = .user ∧ userStrand.rptAt = 0 ∧ userStrand.owed = none := by unfold Ready; decide +kernel
def postedStrand : Strand := { uniStrand with posted := 1 }
def ownRound (n : Nat) : Round := ⟨n, .strand uniStrand.who, 1, 1, 0, 0, false, [], [], [], []⟩
theorem witness_TlbinvStartsARound :
    (∀ i ∈ [Instr.tlbinv nop 0 6 0 0, .tlbinv nop 0 2 1 0, .tlbinv nop 0 6 0 1, .tlbinv nop 0 6 1 2], Ready i uniState uniStrand 0)
    ∧ (uniStrand.wreg 6).toNat = 0 ∧ (uniStrand.wreg 2).toNat ≠ 0 ∧ (uniStrand.wreg 2).toNat ≤ 2 ^ 20 ∧ uniStrand.posted = 0
    ∧ Ready (.tlbinv nop 0 2 1 0) (withSt postedStrand) postedStrand 0 ∧ postedStrand.posted ≠ 0
    ∧ (uniState.rounds.filter Round.own).length < 16 ∧ uniState.reqs = [] ∧ uniState.results = []
    ∧ 16 ≤ (({ uniState with rounds := (List.range 16).map ownRound } : State).rounds.filter Round.own).length := by unfold Ready; decide +kernel
/-- Die 0 valid, a ready queue with two frames, a partition with a reservation of slot 0. -/
def sysState : State := { uniState with
  regs := [(.vdmap, 0x0FE4), (.rqptr 0, 0x0000000100000003), (.ubpart 0, 0x00400000), (.ubrsv 0 0, 0x00100002)] ++ uniState.regs
  slots := [⟨0, 1, 1, 0, 0x40, 0, 1⟩, ⟨0, 1, 7, 0, 0x41, 0, 1⟩] }
theorem witness_SystemInstructionResults :
    (∀ i ∈ [Instr.frpop nop 20 2, .frpop nop 20 6, .frpop nop 20 8, .cflush nop 0 2 0, .cflush nop 0 2 1, .cflush nop 0 0 2, .ubres nop 20 16 6, .ubres nop 20 6 8,
        .ubres nop 20 6 2, .roleget nop 20 3], Ready i sysState uniStrand 0)
    ∧ bits (uniStrand.wreg 2) 31 2 ≠ 0 ∧ bits (uniStrand.wreg 6) 31 2 = 0 ∧ sysState.dieValid ((uniStrand.wreg 6).extractLsb' 0 2) = true
    ∧ sysState.reqs = [] ∧ sysState.results = [] ∧ sysState.partials = []
    ∧ (sysState.popReady 0).1.stalled = sysState.stalled ∧ sysState.readyCount 0 ≠ 0 ∧ sysState.readyCount 1 = 0 ∧ (uniStrand.wreg 8).extractLsb' 0 2 = (1 : Die)
    ∧ bits (uniStrand.wreg 16) 31 6 ≠ 0 ∧ bits (uniStrand.wreg 6) 31 6 = 0 ∧ bits (uniStrand.wreg 2) 31 12 = 0
    ∧ (match sysState.setLimit 0 0 5 with | some s1 => (s1.reg (.ubrsv 0 0)).getLsbD 30 == false | none => false) = true
    ∧ (match sysState.setLimit 0 0 1 with | some s1 => (s1.reg (.ubrsv 0 0)).getLsbD 30 | none => false) = true
    ∧ sysState.gangOf uniStrand = some probeGang := by unfold Ready; decide +kernel
theorem witness_PageDiscardAndMigration :
    (∀ i ∈ [Instr.ubdisc nop 12 2 0 0, .ubdisc nop 4 2 0 0, .ubdisc nop 0 6 0 0, .ubdisc nop 0 2 0 0, .ubdisc nop 0 2 1 0, .ubmig nop 20 12 2 0,
        .ubmig nop 20 4 2 0, .ubmig nop 20 0 6 0, .ubmig nop 20 0 6 5], Ready i sysState uniStrand 0)
    ∧ bits (uniStrand.wpair 12) 63 60 = 3 ∧ bits (uniStrand.wpair 4) 63 60 = 1 ∧ bits (uniStrand.wpair 4) 59 57 = 0 ∧ bits (uniStrand.wpair 4) 15 0 ≠ 0
    ∧ bits (uniStrand.wpair 0) 63 60 = 1 ∧ bits (uniStrand.wpair 0) 59 57 = 0 ∧ bits (uniStrand.wpair 0) 15 0 = 0
    ∧ (uniStrand.wreg 6).toNat = 0 ∧ (uniStrand.wreg 2).toNat ≠ 0 ∧ (uniStrand.wreg 2).toNat ≤ 2 ^ 20
    ∧ (sysState.migrate 1 0 (bits (uniStrand.wpair 0) 56 0) (uniStrand.wreg 6)).1.stalled = sysState.stalled
    ∧ sysState.reqs = [] ∧ sysState.results = [] ∧ uniStrand.park = none
    ∧ sysState.ctxOf 0 = some 1 ∧ sysState.ctxOf 5 = none := by unfold Ready; decide +kernel

/-! #### Synchronisation -/

/-- A strand with addresses of page 1 and of its vault, and one whose posted store has faulted. -/
def syncStrand : Strand :=
  { uniStrand with w := [0x10000, 0x10000000, 5, 0, 0x10200, 0x10000000, 0, 0, 1, 0, 0x40, 0x20000000, 7, 0] ++ List.replicate 50 0 }
def syncMem : Memory := [(0x1000000, 2), (0x1000004, 3), (0x1000008, 1), (0x100000C, 7)]
def syncState (st : Strand) : State := { withSt st with mem := syncMem }
def faulted (st : Strand) : Strand := { st with sr := { st.sr with rfault := 0x8000000000000001 } }
/-- The same, at an instruction. -/
def waitingAt (st : Strand) (x : StrandState) (p : Park) (i : Instr) : Strand := { st with state := x, park := some p, waiting := some i }

theorem witness_FencesOrder :
    (∀ i ∈ [Instr.fence nop 0 0, .fence nop 1 1, .fence nop 0 2, .fence nop 1 3, .fence nop 0 4], Ready i (syncState syncStrand) syncStrand 0)
    ∧ Ready (.fence nop 0 0) (syncState (faulted syncStrand)) (faulted syncStrand) 0
    ∧ Ready (.fence nop 0 4) (syncState postedStrand) postedStrand 0 ∧ postedStrand.posted ≠ 0 ∧ syncStrand.posted = 0
    ∧ (faulted syncStrand).sr.rfault.getLsbD 63 = true ∧ syncStrand.sr.rfault.getLsbD 63 = false ∧ (syncState syncStrand).reqs = []
    ∧ (let s := { syncState syncStrand with reqs := [homeReq syncStrand 0x1000000000010000 7 0x1000000 4 (.write [1, 2, 3, 4])] }
       (s.drain syncStrand.who).stalled = s.stalled) := by
  unfold Ready; decide +kernel
theorem witness_ReleasesAndAcquires :
    (∀ x ∈ [0, 1], Ready (.rel nop 0 2 x 1) (syncState syncStrand) syncStrand 0) ∧ Ready (.acq nop 20 0 1) (syncState syncStrand) syncStrand 0
    ∧ syncStrand.posted = 0 ∧ syncStrand.sr.rfault.getLsbD 63 = false ∧ (syncState syncStrand).reqs = [] ∧ (syncState syncStrand).results = []
    ∧ atMem ((syncState syncStrand).placeObject syncStrand (syncStrand.wpair 0) 8 .read [0, 1]) (fun s => s.partials.isEmpty) = true
    ∧ atMem ((syncState syncStrand).findObject syncStrand (syncStrand.wpair 0) 8 .write [0, 1]) (fun s => s.partials.isEmpty) = true := by
  unfold Ready; decide +kernel
def region0 : Region := ⟨1, 0x10000, 0, 9⟩
theorem witness_RegionsBindAndUnbind :
    (∀ i ∈ [Instr.bind nop 20 0 6 9, .unbind nop 20 0 6 9, .unbind nop 20 0 0 63], Ready i (syncState syncStrand) syncStrand 0)
    ∧ bits (syncStrand.wpair 0) 63 60 ≤ 1 ∧ bits (syncStrand.wpair 0) 59 57 = 0 ∧ syncStrand.remote = none
    ∧ bits (syncStrand.wpair 6) 63 57 = 0 ∧ (syncStrand.wpair 6).toNat % 2 ^ 9 = 0
    ∧ region0 ∈ [region0] ∧ region0 ∉ (syncState syncStrand).regions
    ∧ 1024 ≤ ((List.replicate 1024 { region0 with k := 4 }).filter (fun x => x.ctx = syncStrand.who.ctx)).length
    ∧ region0 ∉ List.replicate 1024 { region0 with k := 4 } := by unfold Ready; decide +kernel
/-- The gang without LBAR. -/
def noLbar : State := { syncState syncStrand with gangs := [{ probeGang with kernel := { probeKernel with lbar := false } }], lbars := [] }
def fwState1 : State := { fwState with gangs := [{ probeGang with ctx := 0xFFF, gang := 0xFFFFFF }] }
theorem witness_BarriersAreReached :
    (∀ i ∈ [Instr.bar nop 0 0, .bar nop 1 0, .bar nop 0 1, .bar nop 1 2], Ready i (syncState syncStrand) syncStrand 0)
    ∧ Ready (.bar nop 0 2) (syncState (faulted syncStrand)) (faulted syncStrand) 0 ∧ Ready (.bar nop 1 2) noLbar syncStrand 0
    ∧ (syncState syncStrand).gangOf syncStrand = some probeGang ∧ probeGang.kernel.lbar = true
    ∧ (syncState syncStrand).coresident probeGang = true ∧ syncStrand.isFirmware = false
    ∧ (noLbar.gangOf syncStrand).map (·.kernel.lbar) = some false
    ∧ Ready (.bar nop 0 0) fwState1 fwStrand 0 ∧ (fwState1.gangOf fwStrand).isSome = true ∧ fwStrand.isFirmware = true := by
  unfold Ready; decide +kernel
theorem witness_LoneBarrierCompletes :
    let g := { probeGang with kernel := { probeKernel with lbar := false } }
    Ready (.bar nop 0 0) noLbar syncStrand 0 ∧ noLbar.strands = [syncStrand] ∧ noLbar.cur = 0 ∧ noLbar.gangs = [g] ∧ g.ctx = syncStrand.who.ctx
    ∧ g.gang = syncStrand.who.gang ∧ syncStrand.who.wg = 0 ∧ syncStrand.isFirmware = false ∧ syncStrand.sr.rfault.getLsbD 63 = false
    ∧ noLbar.reqs = [] ∧ g.kernel.wgs = 1 ∧ g.kernel.lbar = false ∧ g.wgBars = [⟨1, 0, 0⟩] ∧ g.regroups = [⟨1, 0, 0⟩]
    ∧ g.gangBar = ⟨1, 0, 0⟩ ∧ noLbar.coresident g = false := by unfold Ready; decide +kernel

/-- An answer of `placeTbar` at a home. -/
def atTbar (r : State × Ans Place) (p : State → Nat → Bool) : Bool := match r with | (s1, .ok (.mem x)) => handy s1 x && p s1 x | _ => false
theorem atTbar_spec {r : State × Ans Place} {p : State → Nat → Bool} (h : atTbar r p = true) :
    ∃ s1 x, r = (s1, .ok (.mem x)) ∧ handy s1 x = true ∧ p s1 x = true := by
  unfold atTbar at h
  split at h
  · exact ⟨_, _, rfl, by simpa using h⟩
  · cases h
/-- A strand with a mapped vault. -/
def vaultGang : Gang := { probeGang with kernel := { probeKernel with vault := 4 }, vat := some 0 }
def vaultState (st : Strand) : State :=
  { syncState st with gangs := [vaultGang], regs := (.vat 0 0 0, 0x80000400) :: (syncState st).regs }
theorem witness_TransactionBarriersStart :
    (∀ i ∈ [Instr.tbarArrive nop 20 0 2 0, .tbarArrive nop 20 0 2 4, .tbarExpect nop 0 2, .tbarWait nop 20 0 2, .tbarWait nop 20 0 12],
      Ready i (syncState syncStrand) syncStrand 0)
    ∧ (syncState syncStrand).reqs = [] ∧ syncStrand.posted = 0 ∧ syncStrand.sr.rfault.getLsbD 63 = false ∧ (syncState syncStrand).results = []
    ∧ (∀ k ∈ [AccessKind.read, .write], atTbar ((syncState syncStrand).placeTbar syncStrand (syncStrand.wpair 0) k)
        (fun s x => s.partials.isEmpty && !isVault x && s.mem.nat (x + 12) 4 == 7) = true)
    ∧ Ready (.tbarWait nop 20 10 6) (vaultState syncStrand) syncStrand 0 ∧ (vaultState syncStrand).reqs = [] ∧ (vaultState syncStrand).results = []
    ∧ atTbar ((vaultState syncStrand).placeTbar syncStrand (syncStrand.wpair 10) .read)
        (fun s x => s.partials.isEmpty && isVault x && s.mem.nat (x + 12) 4 == 0 && s.vaultWaits.isEmpty) = true := by
  unfold Ready; decide +kernel
def arriveReq (addr expect : Nat) (page : Option PageSlot) : Req := homeReq syncStrand 0x1000000000010000 7 addr 16 (.tbar 1 expect page)
def arriving (addr expect : Nat) (page : Option PageSlot) : State :=
  { syncState (waitingAt syncStrand .held .tbar (.tbarArrive nop 20 0 2 0)) with reqs := [arriveReq addr expect page], nextId := 8 }
/-- A page of the context on die 0, without a slot: its reservation is empty, or has room. -/
def barrierPage : PageSlot := ⟨0, 1, 7, 0, 0x41, 0, 0⟩
def roomy (s : State) : State := { s with regs := (.ubrsv 0 0, 0x00010000) :: s.regs }
theorem witness_TransactionBarrierUpdates :
    (∀ a ∈ [0x1000000, 0x1000010], ∀ e ∈ [0, 5, 0xFFFFFFFF], ∀ p ∈ [none, some barrierPage], let s := arriving a e p
      s.reqs = [arriveReq a e p] ∧ (arriveReq a e p).access = .tbar 1 e p ∧ e < 2 ^ 32 ∧ s.partials = [] ∧ s.vaultWaits = [] ∧ s.cancels = []
      ∧ Waits s (arriveReq a e p).who 0 (waitingAt syncStrand .held .tbar (.tbarArrive nop 20 0 2 0)))
    ∧ (arriving 0x1000000 5 none).allocSlot barrierPage = none ∧ ((roomy (arriving 0x1000000 5 none)).allocSlot barrierPage).isSome = true
    ∧ (arriving 0x1000000 5 none).mem.nat 0x1000000 4 ≠ 0 ∧ (arriving 0x1000010 5 none).mem.nat 0x1000010 4 = 0
    ∧ (let m : Memory := [(0x1000000, 1), (0x1000004, 3), (0x100000C, 7)]
       m.nat 0x1000000 4 = 1 ∧ (m.nat 0x1000008 4 + 0) % 2 ^ 32 = 0) := by unfold Waits; decide +kernel

def waitcI (x : BitVec 1) (c : BitVec 4) : Instr := .waitc nop 20 0 2 x c
def armReq (x : BitVec 1) (c : BitVec 4) (v : W64) : Req := homeReq syncStrand 0x1000000000010000 7 0x1000000 (if x = 1 then 8 else 4) (.arm (x = 1) c v)
def arming (x : BitVec 1) (c : BitVec 4) (v : W64) : State :=
  { syncState (waitingAt syncStrand .parked (.waitc none) (waitcI x c)) with reqs := [armReq x c v], nextId := 8 }
/-- The set of the word's monitors, full. -/
def fullSet : List Monitor := (List.range 8).map fun w =>
  ⟨(probe.homeSlot 0x1000000).1, (probe.homeSlot 0x1000000).2 % 1024, w, 0x1000000, false, 0, 0, 1, 0, ⟨1, 0xFFFFFE, 0, 1⟩, false⟩
theorem witness_WaitcArms :
    (∀ x ∈ [0, 1], Ready (waitcI x 0) (syncState syncStrand) syncStrand 0
      ∧ atMem ((syncState syncStrand).placeObject syncStrand (syncStrand.wpair 0) (if x = 1 then 8 else 4) .read [0, 1, 4])
          (fun s => s.partials.isEmpty) = true)
    ∧ (∀ x ∈ [0, 1], let s := arming x 0 5
        s.reqs = [armReq x 0 5] ∧ (armReq x 0 5).access = .arm (x = 1) 0 5 ∧ s.partials = [] ∧ s.findStrand syncStrand.who = some 0 ∧ s.monitors = []
        ∧ syncStrand.isFirmware = false)
    ∧ BitVec.ofNat 64 ((arming 1 0 0).mem.nat 0x1000000 8) = 0x300000002 ∧ BitVec.ofNat 32 ((arming 0 0 5).mem.nat 0x1000000 4) ≠ 5
    ∧ (∀ w < 8, ∃ m ∈ fullSet, m.slice = ((arming 0 0 5).homeSlot 0x1000000).1 ∧ m.set = ((arming 0 0 5).homeSlot 0x1000000).2 % 1024 ∧ m.way = w) := by
  unfold Ready; decide +kernel
def waitcAt (p : Park) : Strand := waitingAt syncStrand .parked p (waitcI 0 0)
theorem witness_WaitcEnds :
    (∀ p ∈ [Park.waitc none, .waitc (some 0), .rearm 0 none], (syncState (waitcAt p)).findStrand (waitcAt p).who = some 0
      ∧ (syncState (waitcAt p)).strands[0]? = some (waitcAt p) ∧ (waitcAt p).isFirmware = false
      ∧ atMem ((syncState (waitcAt p)).placeObject (waitcAt p) ((waitcAt p).wpair 0) 4 .read [0, 1, 4]) (fun s => s.partials.isEmpty) = true)
    ∧ ({ syncState (waitcAt (.waitc none)) with wakes := [⟨syncStrand.who, 9⟩] } : State).wakeable syncStrand.who = true := by
  decide +kernel
def pollAt : Strand := waitingAt syncStrand .parked (.rearm 0 none) (.tbarWait nop 20 10 6)
/-- A vault place found. -/
def atVault (r : Ans Nat) (p : Nat → Bool) : Bool := match r with | .ok x => p x | .bad _ => false
theorem witness_VaultPollEnds :
    atVault ((vaultState pollAt).vaultPlace pollAt.who.ctx ((vaultState pollAt).gangOf pollAt) (pollAt.wpair 10))
      (fun x => (vaultState pollAt).mem.nat (x + 12) 4 == 0 && (vaultState pollAt).mem.nat (x + 12) 4 == (pollAt.wreg 6).toNat
        && (vaultState pollAt).mem.nat (x + 12) 4 != (pollAt.wreg 12).toNat) = true
    ∧ (vaultState pollAt).findStrand pollAt.who = some 0 ∧ (vaultState pollAt).strands[0]? = some pollAt ∧ pollAt.isFirmware = false
    ∧ (vaultState pollAt).vaultWaits = [] := by decide +kernel
theorem witness_LeasesAndPrefetch :
    (∀ i ∈ [Instr.leaseW nop 2, .leaseW nop 6, .ipf nop 0 2, .ipf nop 12 2], Ready i (syncState syncStrand) syncStrand 0)
    ∧ Ready (.leaseW nop 2) fwState fwStrand 0 ∧ fwStrand.isFirmware = true
    ∧ (∀ x ∈ (syncState syncStrand).strands, x.core = syncStrand.core → x.inActiveSet = true → x.isFirmware = false → x.who = syncStrand.who)
    ∧ (∀ n ∈ [0, 2], (prefetchLines syncStrand (min 64 (syncStrand.wreg 2).toNat)
        (BitVec.ofNat 64 (lineOf (syncStrand.wpair (n * 6)).toNat)) (syncState syncStrand)).stalled = (syncState syncStrand).stalled) := by
  unfold Ready; decide +kernel

/-! #### Steps, words, traps -/

/-- Five words at the program counter: `iadd` with its three prefixes (R150). -/
def aheadWords : List Word := [0xFE042200, 0xFD600800, 0x010A1400, 0xFF000000, 0x00010000]
def ahead : State := { probe with icache := probe.icache.map (fun l => { l with data := aheadWords.flatMap bytesOfWord ++ l.data.drop 20 }) }
def aheadInstr : Instr := .iadd ⟨some ⟨4, 2, 2, 0⟩, some ⟨3, false, false, false, false, false, false, 0, true⟩, some 0x10000⟩ 10 20 0
/-- The words stand in order in the instruction cache. -/
def fetchesAll (st : Strand) : Nat → List Word → State → Bool
  | _, [], _ => true
  | n, w :: ws, s => match s.fetchWord st (st.pc + BitVec.ofNat 64 (4 * n)) with
    | (s', .word x false) => x == w && fetchesAll st (n + 1) ws s'
    | _ => false
theorem fetchesAll_spec (st : Strand) (ws : List Word) : ∀ n s, fetchesAll st n ws s = true → ∃ t, Fetched st n ws s t := by
  induction ws with
  | nil => exact fun _ s _ => ⟨s, rfl⟩
  | cons w ws ih =>
    intro n s h
    simp only [fetchesAll] at h
    split at h
    next s' x heq =>
      simp only [Bool.and_eq_true, beq_iff_eq] at h
      obtain ⟨t, ht⟩ := ih _ _ h.2
      exact ⟨t, s', h.1 ▸ heq, ht⟩
    · cases h
theorem test_ahead_decodes : decodeSeq aheadWords = .ok (aheadInstr, 5) := rfl
theorem test_prefixes_need_more : decodeSeq (aheadWords.take 1) = .error .truncated ∧ decodeSeq (aheadWords.take 2) = .error .truncated
    ∧ decodeSeq (aheadWords.take 3) = .error .truncated ∧ decodeSeq (aheadWords.take 4) = .error .truncated := ⟨rfl, rfl, rfl, rfl⟩
/-- Fetching leaves `x`, and executing the instruction there a next state of the same epoch. -/
def issues (i : Instr) (st : Strand) (ws : List Word) (s : State) : Bool :=
  fetchesAll st 0 ws s && (match fetchSeq st maxWords [] [] s with
    | (x, _) => match exec i x with | .next y => x.stalled.isEmpty && y.cycle / 4096 == s.cycle / 4096 | _ => false)
theorem witness_StepRunsDecoded :
    let u := (stepped ahead []).passTo (ahead.cycle + 1)
    ahead.agenda = [.issue 0 1] ∧ u.strands[0]? = some probeStrand ∧ MayIssue u probeStrand ∧ aheadWords.length = 5
    ∧ issues aheadInstr probeStrand aheadWords (atTurn u 0 probeStrand) = true ∧ u.stalled = []
    ∧ (opInfo .moduleReset).form = .event ∧ (∃ t, exec .moduleReset (stepped ahead []) = .next t) := by
  unfold MayIssue
  exact ⟨rfl, rfl, by decide +kernel, rfl, by decide +kernel, rfl, rfl, _, rfl⟩
/-- A firmware slot at the same words, with nothing else under way, at a step whose turns begin with those of strands. -/
def fwAhead : State := { ahead with
  agenda := [], stepNo := 2, strands := [fwStrand], gangs := [], lbars := []
  quadTlb := ahead.quadTlb.map (fun x => (x.1, x.2.1, { x.2.2 with ctx := 0xFFF }))
  icache := ahead.icache.map (fun l => { l with ctx := 0xFFF }) }
/-- The word at `a` is `w`, for a strand of firmware. -/
def fwWord (s : State) (st : Strand) (a : W64) (w : Word) : Bool :=
  (field a 63 60 == 0 && field a 59 57 == 0) && match s.firmwareLeaf (field a 56 0) with
    | .bad _ => false
    | .ok l => (permission st.fetchReq l).isNone && match (s.placeOf st.fetchReq.ctx (field a 56 0) l).addr with
      | none => false
      | some _ => match s.icLine st.core.die st.core.quad st.who.ctx (vlineOf (field a 56 0)) with
        | none => false
        | some x => (patchAt (s.gangOf st) a).isNone && BitVec.ofNat 32 (leNat ((x.data.drop (field a 6 0)).take 4)) == w
theorem fwWord_spec (s : State) (st : Strand) (a : W64) (w : Word) (hf : st.fetchReq.ctx = firmwareCtx) (h : fwWord s st a w = true) :
    s.fetchWord st a = (s, .word w false) := by
  simp only [fwWord, Bool.and_eq_true, beq_iff_eq] at h
  obtain ⟨⟨h1, h2⟩, h⟩ := h
  split at h
  · cases h
  next l hl =>
    simp only [Option.isNone_iff_eq_none, Bool.and_eq_true] at h
    obtain ⟨hp, h⟩ := h
    split at h
    · cases h
    next x hx =>
      split at h
      · cases h
      next y hy =>
        simp only [Bool.and_eq_true, Option.isNone_iff_eq_none, beq_iff_eq] at h
        simp only [State.fetchWord, State.translate, State.lookup, hf, beq_self_eq_true, if_true, hl, hp, h1, h2]
        rw [hf] at hx
        simp [hx, hy, h.1, h.2]
/-- The words of a strand of firmware in one state are those in another with the same translations, cache and gang. -/
theorem fetchesAll_firmware (s t : State) (st : Strand) (hf : st.fetchReq.ctx = firmwareCtx) (h1 : s.firmwareLeaf = t.firmwareLeaf)
    (h2 : s.placeOf = t.placeOf) (h3 : s.icLine = t.icLine) (h4 : s.gangOf st = t.gangOf st) (ws : List Word) :
    ∀ k, (∀ x ∈ ws.zipIdx k, fwWord t st (st.pc + BitVec.ofNat 64 (4 * x.2)) x.1 = true) → fetchesAll st k ws s = true := by
  have hw : fwWord s st = fwWord t st := by funext a w; simp only [fwWord, h1, h2, h3, h4]
  induction ws with
  | nil => exact fun _ _ => rfl
  | cons w ws ih =>
    intro k h
    simp only [List.zipIdx_cons, List.mem_cons, forall_eq_or_imp] at h
    rw [fetchesAll, fwWord_spec s st _ w hf (hw ▸ h.1)]
    simp [ih (k + 1) h.2]
/-- A lone active strand that has issued nothing is the one that issues next. -/
theorem nextIssue_lone {s : State} {st : Strand} (h : s.strands = [st]) (ha : st.state = .active) (hs : s.issueStopped st.core.die = false)
    (hi : st.issueSince = 0) : s.nextIssue = some 0 := by
  simp [State.nextIssue, State.strandsWhere, State.firmwareRests, h, ha, hs, hi, List.range_succ]
/-- The turns of strands come first at such a step. -/
theorem idleMoves_issue {s : State} {k : Nat} (h : s.nextIssue = some k) (h3 : s.stepNo % 8 = 3) :
    s.idleMoves = [] ++ (fun x => x.issueTurn k) :: s.idleMoves.tail := by
  simp [State.idleMoves, h, h3]
/-- The clause of an empty agenda, whatever number of cycles the free value is. -/
theorem witness_StepRunsDecoded_idle (n : Nat) :
    let u : State := { fwAhead with stepNo := 3, cycle := n, payer := none }
    u.nextIssue = some 0 ∧ u.idleMoves = [] ++ (fun x => x.issueTurn 0) :: u.idleMoves.tail ∧ u.strands[0]? = some fwStrand ∧ MayIssue u fwStrand
    ∧ fetchesAll fwStrand 0 aheadWords (atTurn u 0 fwStrand) = true := by
  unfold MayIssue
  have h : ({ fwAhead with stepNo := 3, cycle := n, payer := none } : State).nextIssue = some 0 :=
    nextIssue_lone (st := fwStrand) rfl rfl (Eq.trans (b := fwAhead.issueStopped 0) rfl (by decide +kernel)) rfl
  exact ⟨h, idleMoves_issue h rfl, rfl, ⟨rfl, Eq.trans (b := fwAhead.issueStopped 0) rfl (by decide +kernel), rfl, .inl rfl⟩,
    fetchesAll_firmware (atTurn { fwAhead with stepNo := 3, cycle := n, payer := none } 0 fwStrand) fwAhead fwStrand rfl rfl rfl rfl rfl aheadWords 0
      (by decide +kernel)⟩
theorem witness_UndecodedWordsTrap :
    probe.strands[0]? = some probeStrand ∧ probeStrand.state = .active ∧ (∃ e, decodeSeq [0] = .error e ∧ e ≠ .truncated)
    ∧ fetchesAll probeStrand 0 (if ([0] : List Word).dropLast.all leadWord && !leadWord (([0] : List Word).getLastD 0) then [0, 0] else [0])
        (atTurn probe 0 probeStrand) = true ∧ probe.strands[probe.cur]? = some probeStrand ∧ probeStrand.owed = none
    ∧ probeStrand.rptAt = 0 := ⟨rfl, rfl, ⟨_, rfl, by decide⟩, by decide +kernel, rfl, rfl, rfl⟩
def missing : Strand := { probeStrand with state := .held, park := some .fetch }
def isMiss (r : State × SeqAns) (p : State → Bool) : Bool := match r with | (s1, .miss _ _) => p s1 | _ => false
theorem witness_InstructionLinesArrive :
    let s : State := { withSt missing with icache := [] }
    s.findStrand missing.who = some 0 ∧ s.strands[0]? = some missing
    ∧ isMiss (fetchSeq missing maxWords [] [] (s.paidBy missing.who.ctx missing.who.gang missing.core.die))
        (fun s1 => decide (s1.strands = s.strands) && s1.partials.isEmpty) = true := by decide +kernel
theorem witness_EncodingDecodesBack : aheadInstr.wf = true ∧ (Instr.icmp nop 2 2 4 5).wf = true ∧ wordKind 0x0E220405 ≠ .lit := by decide +kernel
theorem witness_WordsHaveOneMeaning : decodeSeq [0x0E220405, 5] = .ok (.icmp nop 2 2 4 5, 1) := rfl
theorem witness_StepKeepsMemory : ahead.mem.wf = true ∧ (match step ahead with | .next t => t.mem.wf | _ => false) = true := by decide +kernel
theorem witness_NothingElseStops :
    (opInfo .moduleReset).form = .event ∧ (ahead.strands[ahead.cur]?).isSome = true ∧ (opInfo aheadInstr).form ≠ .event
    ∧ State.reset.strands[State.reset.cur]? = none := by decide +kernel

/-- A strand that owes a fault, one with empty registers, one at the end of a shortened repeat. -/
def owing : Strand := { probeStrand with owed := some ⟨0x10, 3, some 5, 2, 0x1234, 0x99⟩ }
def empties : Strand := { probeStrand with emptyV := [2, 9] }
def shortened : Strand := { probeStrand with rptAt := 3 }
theorem witness_ChecksInOrder :
    (opInfo aheadInstr).form ≠ .event ∧ (withSt owing).strands[(withSt owing).cur]? = some owing ∧ owing.owed.isSome = true
    ∧ (Instr.icmp nop 11 1 2 3).wf = false ∧ (Instr.rfe nop).wf = true ∧ (opInfo (.rfe nop)).privileged = true ∧ userStrand.sr.mode = .user
    ∧ (Instr.iadd (rep 3 1 1 1) 4 8 12).wf = true ∧ seqCount (Instr.iadd (rep 3 1 1 1) 4 8 12).px ≤ shortened.rptAt
    ∧ probeStrand.rptAt < seqCount nop ∧ rangesOk (.iadd (rep 4 1 1 1) 254 8 12) probeStrand.allotment 3 = false
    ∧ trapsEmpty (.iadd (ext { noExt with tea := true }) 4 2 1) empties 0 = true
    ∧ trapsEmpty (.iadd nop 4 2 1) empties 0 = false ∧ waitsEmpty (.iadd nop 4 2 1) empties 0 = true
    ∧ waitsEmpty (.iadd nop 4 3 1) empties 0 = false ∧ rangesOk (.iadd nop 4 2 1) probeStrand.allotment 0 = true := by decide +kernel
theorem witness_HandlersAreEntered : (withSt userStrand).strands[0]? = some userStrand ∧ Enters userStrand ∧ (withSt fwStrand).strands[0]? = some fwStrand
    ∧ Enters fwStrand ∧ fwStrand.isFirmware = true := by unfold Enters; decide +kernel
def fwInside : Strand := { fwStrand with sr := { fwStrand.sr with hnd := true } }
def noHandler : Strand := { userStrand with sr := { userStrand.sr with handler := 0 } }
theorem witness_SecondFaultsEscalate :
    (∀ st ∈ [probeStrand, noHandler, fwInside], (withSt st).strands[0]? = some st ∧ ¬Enters st) ∧ probeStrand.sr.hnd = true ∧ fwInside.isFirmware = true
    ∧ probeStrand.isFirmware = false ∧ (probe.reg (.ctxstat probeStrand.ctxSlot)).getLsbD 63 = false
    ∧ ∃ g ∈ (probe.takeTrap 0 ⟨0x01, 0, none, 0, 0, 0⟩ 0 0).gangs, g.ctx = probeStrand.who.ctx ∧ g.gang = probeStrand.who.gang := by
  unfold Enters; decide +kernel

/-! #### Ordered sections -/

/-- A register with these values in its first lanes. -/
def laneList (l : List Nat) : List Word := (List.range 32).map (fun j => BitVec.ofNat 32 (l.getD j 0))
/-- A strand with keys in the pair v4:v5 and numbers in v6, for four lanes. -/
def keyStrand (keys seqs : List Nat) : Strand :=
  { uniStrand with
    v := ((uniStrand.v.set 4 (laneList keys)).set 5 (List.replicate 32 0)).set 6 (laneList seqs)
    m := [0xF, 3, 2, 3, 4, 5, 6, 7], live := 0xFF }
def keyEnt (k next : Nat) (h : Option (Who × Nat)) : KeyEntry :=
  ⟨(keySlot 1 (BitVec.ofNat 64 k)).1, (keySlot 1 (BitVec.ofNat 64 k)).2, 0, 1, BitVec.ofNat 64 k, BitVec.ofNat 31 next, h, false, 0, 0⟩
def keyReq (k seq lane : Nat) (w : Who) : KeyReq := ⟨(keySlot 1 (BitVec.ofNat 64 k)).1, 1, BitVec.ofNat 64 k, BitVec.ofNat 31 seq, w, lane⟩
def keyState (st : Strand) : State := { withSt st with regs := (.osctl 0, BitVec.ofNat 64 (10 * 2 ^ 32 + 2 + 5 * 2 ^ 50)) :: (withSt st).regs }
def lone : Strand := { keyStrand [1, 2, 3, 4] [] with m := [0, 3, 2, 3, 4, 5, 6, 7] }
/-- Different keys; one key twice with different numbers; one key twice with one number; and no active lane. -/
theorem witness_SectionsAreAsked :
    let one : Instr := .osenter nop 4 6
    let any : Instr := .osenterAny nop 1 4 6
    let at' := fun (st : Strand) => Ready one (keyState st) st 0 ∧ Ready any (keyState st) st 0
    let a := keyStrand [1, 2, 3, 4] []
    let b := keyStrand [1, 1, 2, 2] [0, 1, 0, 1]
    let c := keyStrand [1, 1, 2, 3] []
    let lanes := lanesOf (a.active nop)
    at' a ∧ at' b ∧ at' c ∧ at' lone ∧ lone.active nop = 0 ∧ a.active nop ≠ 0 ∧ lanes = lanesOf (b.active nop) ∧ lanes = lanesOf (c.active nop)
    ∧ (∀ x ∈ lanes, ∀ y ∈ lanes, keyOf nop 4 a x = keyOf nop 4 a y → x = y)
    ∧ (∀ x ∈ lanes, ∀ y ∈ lanes, keyOf nop 4 b x = keyOf nop 4 b y → seqNo nop 6 b x = seqNo nop 6 b y → x = y)
    ∧ keyOf nop 4 c 0 = keyOf nop 4 c 1 ∧ seqNo nop 6 c 0 = seqNo nop 6 c 1 ∧ 0 ∈ lanes ∧ 1 ∈ lanes := by unfold Ready; decide +kernel
def holding : State :=
  let st := keyStrand [1, 2, 3, 4] []
  { keyState st with keys := [keyEnt 1 0 (some (st.who, 0)), keyEnt 2 0 (some (st.who, 1)), keyEnt 3 0 (some (st.who, 2)), keyEnt 4 0 (some (st.who, 3))] }
theorem witness_SectionsAreLeft :
    let st := keyStrand [1, 2, 3, 4] []
    Ready (.osleave nop 4 6) holding st 0 ∧ holding.reqs = []
    ∧ (∀ l ∈ lanesOf (st.active nop), holding.holds st.who l (keyOf nop 4 st l) (seqNo nop 6 st l) = true)
    ∧ (let s := { holding with keys := holding.keys.drop 1 }
       0 ∈ lanesOf (st.active nop) ∧ s.holds st.who 0 (keyOf nop 4 st 0) (seqNo nop 6 st 0) = false) := by unfold Ready; decide +kernel
def reqMsg (op : KeyOp) (seq : Nat) : KeyMsg := ⟨op, 1, 1, BitVec.ofNat 31 seq, uniStrand.who, 0, 0⟩
def tabled (keys : List KeyEntry) (reqs : List KeyReq) (m : KeyMsg) : State := { keyState uniStrand with keys := keys, keyReqs := reqs, keyMsgs := [m] }
/-- The first message; the entry free at NEXT 3 for the numbers 3, 5 and 1; no entry, with room in the slot and the set; and a full set. -/
theorem witness_RequestsReachTheTable :
    let slice := (keySlot 1 1).1
    (∀ q ∈ [3, 5, 1, 0], let m := reqMsg .request q
      NextMsg (tabled [] [] m) 0 m ∧ m.op = .request ∧ (tabled [keyEnt 1 3 none] [] m).keyStored 1 1 = []
      ∧ (tabled [keyEnt 1 3 none] [] m).keyEntry 1 1 = some (keyEnt 1 3 none) ∧ (keyEnt 1 3 none).holder = none
      ∧ ((tabled [keyEnt 1 3 none] [] m).keyReqs.filter (fun r => r.slice = slice)).length < 16384)
    ∧ (let s := tabled [] [] (reqMsg .request 0)
       s.keyEntry 1 1 = none ∧ s.slotOf 1 = some 0 ∧ (s.keyWay slice (keySlot 1 1).2).isSome = true
       ∧ bits (s.reg (.osctl 0)) 16 0 < bits (s.reg (.osctl 0)) 48 32)
    ∧ (let st := { waitingAt uniStrand .parked .osenter (.osenter nop 4 6) with entering := [⟨0, 1, 0, .sent⟩] }
       let full := (List.range 16).map (fun w => { keyEnt 1 0 none with way := w, key := 77 })
       let s : State := { keyState st with keys := full, keyMsgs := [reqMsg .request 0] }
       s.keyEntry 1 1 = none ∧ s.keyWay slice (keySlot 1 1).2 = none ∧ s.keyStored 1 1 = []
       ∧ ∀ x ∈ s.strands, x.who = uniStrand.who → x.entering = [⟨0, 1, 0, .sent⟩]) := by unfold NextMsg; decide +kernel
theorem witness_LeavesAndWithdrawals :
    let w := uniStrand.who
    let e := keyEnt 1 3 (some (w, 0))
    let r := keyReq 1 4 2 ⟨1, 0xFFFFFE, 0, 1⟩
    (∀ m ∈ [reqMsg (.leave true) 3, reqMsg (.leave false) 3, reqMsg .withdraw 3], NextMsg (tabled [e] [] m) 0 m ∧ (tabled [e] [] m).keyEntry 1 1 = some e
      ∧ e.holder = some (m.who, m.lane) ∧ e.next = m.seq ∧ (tabled [e] [] m).keyStored 1 1 = [] ∧ m.seq + 1 ≠ 0
      ∧ (tabled [e] [r] m).keyStored 1 1 = [r] ∧ r.seq = m.seq + 1) := by unfold NextMsg; decide +kernel
def entering (x : LaneEntry) : Strand := { waitingAt userStrand .parked .osenter (.osenter nop 4 6) with entering := [⟨0, 1, 3, x⟩] }
theorem witness_GrantsRetriesStalls :
    let st := entering .sent
    let g : Grant := ⟨st.who, 0, 1, 3⟩
    let m : KeyMsg := { reqMsg .request 3 with at_ := 55 }
    let s : State := { keyState st with keys := [keyEnt 1 3 (some (st.who, 0))], keyGrants := [g], keyRetries := [m] }
    s.keyGrants[0]? = some g ∧ s.findStrand g.who = some 0 ∧ s.strands[0]? = some st ∧ st.isFirmware = false ∧ s.keyBusy g.who = false
    ∧ s.holds g.who g.lane g.key g.seq = true ∧ s.keyRetries[0]? = some m
    ∧ (let z : State := { s with strands := [{ st with state := .frozen }] }
       z.grantHeld g.who = true ∧ z.keyEntry g.who.ctx g.key = some (keyEnt 1 3 (some (st.who, 0))))
    ∧ (let r := keyReq 1 3 0 st.who
       let z : State := { s with keys := [keyEnt 1 1 none], keyReqs := [r] }
       z.keyEntry 1 1 = some (keyEnt 1 1 none) ∧ z.slotOf 1 = some 0 ∧ bits (z.reg (.osctl 0)) 61 50 ≠ 0 ∧ z.keyStored 1 1 = [r]
       ∧ z.findStrand r.who = some 0 ∧ z.keyBusy r.who = false ∧ Enters st) := by unfold Enters; decide +kernel
theorem witness_OsctlWrites :
    let s := keyState uniStrand
    let old := s.reg (.osctl 0)
    let bad := fun (v : W64) => 65536 < bits v 48 32 ∨ bits v 48 32 < bits old 16 0
      ∨ (bits v 48 32 ≠ 0 ∧ (s.reg (.trbase 0)).getLsbD 63 = false) ∨ v.getLsbD 49 = true ∨ bits v 31 17 ≠ 0
    bad 0xFFFFFFFFFFFFFFFF ∧ bad 0x0002000500000000 ∧ bad 0x0000000500020000 ∧ bad 0 ∧ ¬bad 0xC000000500000000 := by decide +kernel

/-! #### Rings, packets, records -/

/-- The header of a ring (R105, Table 1), with its entries at 0x10400 and its tags at 0x10300. -/
def ringHeader (reserve acquire release logn logsz cq : Nat) : List Byte :=
  leBytes 8 reserve ++ leBytes 8 acquire ++ leBytes 8 release ++ leBytes 8 0x1000000000010400 ++ leBytes 8 0x1000000000010300
    ++ leBytes 4 (logn + logsz * 256 + cq * 65536) ++ leBytes 20 0
def ringStrand : Strand := { uniStrand with w := [0x10000, 0x10000000, 5, 0, 6, 0, 4, 0, 7, 0] ++ List.replicate 54 0 }
def ringState (reserve acquire release cq : Nat) (tags : List Nat) : State :=
  { withSt ringStrand with mem := ((withSt ringStrand).mem.put 0x1000000 (ringHeader reserve acquire release 2 6 cq)).put 0x1000300 (tags.flatMap (leBytes 4)) }
def ringAddr : W64 := 0x1000000000010000
/-- The answer of one access of a series. -/
def seriesOk (r : State × Step1) (p : State → List Byte → Bool) : Bool := match r with | (t, .ok bs) => t.stalled.isEmpty && p t bs | _ => false
theorem seriesOk_spec {r : State × Step1} {p : State → List Byte → Bool} (h : seriesOk r p = true) :
    ∃ t bs, r = (t, .ok bs) ∧ t.stalled = [] ∧ p t bs = true := by
  unfold seriesOk at h
  split at h
  · exact ⟨_, _, rfl, by simpa using h⟩
  · cases h
/-- The header read, then a condition on what follows. -/
def ringThen (i : Instr) (st : Strand) (s : State) (h : W64) (p : State → Ring → Bool) : Bool :=
  seriesOk (s.series i st h 64 [0, 1] (.read 64) 64) (fun t bs => match ringOf 0 bs with | some r => p t r | none => false)
/-- The tag of the entry at ACQUIRE. -/
def tagThen (i : Instr) (st : Strand) (s : State) (r : Ring) (p : State → Nat → Bool) : Bool :=
  seriesOk (s.series i st (r.tags + BitVec.ofNat 64 (r.acquire % 2 ^ r.logn * 4)) 4 [0, 1, 2, 3, 4] (.read 4) 4) (fun t bs => p t (leNat bs))
theorem witness_SeriesAccesses : (∀ k ∈ [AccessKind.read, .write],
    atMem ((ringState 6 5 5 0 [1, 6, 7, 4]).placeObject ringStrand ringAddr 8 k [0, 1]) (fun s => s.partials.isEmpty) = true) := by decide +kernel
/-- The entry is published, and is not. -/
theorem witness_RingEntriesAreAwaited :
    let i : Instr := .ringawait nop 28 0
    let ok := ringState 6 5 5 0 [1, 6, 7, 4]
    let no := ringState 6 5 5 0 [1, 2, 7, 4]
    ringStrand.wpair 0 = ringAddr ∧ Ready i ok ringStrand 0 ∧ Ready i no ringStrand 0 ∧ ringStrand.script = []
    ∧ ringThen i ringStrand ok ringAddr (fun s1 r => !r.cq && r.acquire == 5 && tagThen i ringStrand s1 r (fun s2 x => x == 6
        && seriesOk (s2.series i ringStrand (ringAddr + 8) 8 [0, 1] (.cas 8 (BitVec.ofNat 128 5) (BitVec.ofNat 128 6)) 8) (fun _ bs => leNat bs == 5))) = true
    ∧ ringThen i ringStrand no ringAddr (fun s1 r => !r.cq && r.acquire == 5 && tagThen i ringStrand s1 r (fun s2 x => x != 6
        && atMem (s2.route (ringStrand.xreq .read) (s2.gangOf ringStrand) (r.tags + BitVec.ofNat 64 (r.acquire % 2 ^ r.logn * 4)) 4) (fun _ => true))) = true := by
  unfold Ready; decide +kernel
/-- RELEASE below, at and above n. -/
theorem witness_RingsAreReleased :
    let s := ringState 6 5 5 0 [1, 6, 7, 4]
    (∀ i ∈ [Instr.ringrel nop 0 2, .ringrel nop 0 4, .ringrel nop 0 6, .ringpeek nop 28 0], Ready i s ringStrand 0)
    ∧ ringStrand.script = [] ∧ (ringStrand.wpair 2).toNat = 5 ∧ (ringStrand.wpair 4).toNat = 6 ∧ (ringStrand.wpair 6).toNat = 4
    ∧ ringThen (.ringrel nop 0 2) ringStrand s ringAddr (fun s1 r => !r.cq && r.release == 5 && s1.reqs.isEmpty
        && seriesOk (s1.series (.ringrel nop 0 2) ringStrand (ringAddr + 16) 8 [0, 1] (.write (leBytes 8 6)) 8) (fun _ _ => true)) = true
    ∧ ringThen (.ringrel nop 0 4) ringStrand s ringAddr (fun s1 r => !r.cq && r.release == 5
        && atMem (s1.route (ringStrand.xreq .read) (s1.gangOf ringStrand) (ringAddr + 16) 8) (fun _ => true)) = true
    ∧ ringThen (.ringrel nop 0 6) ringStrand s ringAddr (fun _ r => !r.cq && r.release == 5) = true
    ∧ ringThen (.ringpeek nop 28 0) ringStrand s ringAddr (fun s1 r => !r.cq && tagThen (.ringpeek nop 28 0) ringStrand s1 r (fun _ _ => true)) = true := by
  unfold Ready; decide +kernel
/-- Queue 1 of die 0, enabled, with its ring's header at the flat address 0x10000; role 1 names it. -/
def queueGang : Gang := { probeGang with roles := [0, 0x5000000000000004] ++ List.replicate 14 0 }
def queueState (st : Strand) (release : Nat) : State :=
  { ringState 8 6 release 1 [5, 6, 7, 8] with
    strands := [st], gangs := [queueGang], regs := [(.cqctl 0 1, 1), (.cqhdr 0 1, 0x10000)] ++ (ringState 0 0 0 0 []).regs }
def fullBatch : Strand := { ringStrand with openBatch := ⟨List.replicate 16 ⟨0, 1, 1, false⟩, false, false⟩ }
/-- An index claimed in the queue, and a condition on what follows. -/
def claimThen (i : Instr) (st : Strand) (s : State) (p : State → Ring → Nat → Bool) : Bool :=
  ringThen i st s 0x10000 (fun s1 r => r.cq && r.logsz == 6 && decide (r.logn ≤ 16)
    && seriesOk (s1.series i st 0x10000 8 [0, 1] (.atomic true 0 1) 8) (fun s2 old =>
      p (s2.modCur (fun z => { z with claim := some (BitVec.ofNat 63 (leNat old)) })) r (leNat old)))
theorem witness_PacketsAreSubmitted :
    let st := ringStrand
    (∀ i ∈ [Instr.cqput nop 30 16 1, .halox nop 30 16 1, .cqput nop 30 16 0],
      Ready i (queueState st 5) st 0 ∧ Ready i (queueState st 4) st 0 ∧ Ready i (queueState fullBatch 5) fullBatch 0)
    ∧ (queueState st 5).gangOf st = some queueGang ∧ st.script = [] ∧ st.posted = 0 ∧ st.claim = none ∧ 16 ≤ fullBatch.openBatch.entries.length
    ∧ bits (queueGang.roles.getD 0 0) 63 60 ≠ 5 ∧ bits (queueGang.roles.getD 1 0) 63 60 = 5 ∧ (queueState st 5).dieValid 0 = true
    ∧ ((queueState st 5).reg (.cqctl 0 1)).getLsbD 0 = true
    ∧ claimThen (.cqput nop 30 16 1) st (queueState st 4) (fun s2 r n => n == 8 && decide (r.release + 2 ^ r.logn ≤ n)
        && atMem (s2.route (st.xreq .read) (s2.gangOf st) (0x10000 + 16) 8) (fun _ => true)) = true
    ∧ (∀ halo ∈ [false, true], let i : Instr := if halo = true then .halox nop 30 16 1 else .cqput nop 30 16 1
        claimThen i st (queueState st 5) (fun s2 r n => n == 8 && decide (n < r.release + 2 ^ r.logn)
          && seriesOk (s2.series i st (r.base + BitVec.ofNat 64 (n % 2 ^ r.logn * 2 ^ r.logsz)) 64 [0, 1, 2, 3, 4] (.write (packetBytes st 16 halo)) 64)
            (fun s3 _ => s3.reqs.isEmpty
              && seriesOk (s3.series i st (r.tags + BitVec.ofNat 64 (n % 2 ^ r.logn * 4)) 4 [0, 1, 2, 3, 4] (.write (leBytes 4 9)) 4) (fun _ _ => true))) = true) := by
  unfold Ready; decide +kernel
def batchOf (done : Bool) : Batch := ⟨[⟨0, 1, 5, true⟩, ⟨0, 1, 6, done⟩], false, true⟩
def batched (open_ : Bool) (sealedOnes : List (Option Batch)) : Strand :=
  { uniStrand with openBatch := if open_ then ⟨[⟨0, 1, 7, false⟩], false, false⟩ else ⟨[], false, false⟩, sealedBatches := sealedOnes }
theorem witness_BatchesAreSealed :
    let none4 := batched false [none, none, none, none]
    let one := batched true [some (batchOf false), none, none, none]
    let full := batched true (List.replicate 4 (some (batchOf true)))
    (∀ st ∈ [none4, one, full], Ready (.cseal nop 30) (withSt st) st 0 ∧ Ready (.cwait nop 30 6) (withSt st) st 0 ∧ Ready (.cwait nop 30 2) (withSt st) st 0)
    ∧ none4.openBatch.entries = [] ∧ one.openBatch.entries ≠ [] ∧ one.sealedBatches.getD 1 none = none
    ∧ (∀ j < 1, one.sealedBatches.getD j none ≠ none) ∧ (∀ j < 4, full.sealedBatches.getD j none ≠ none)
    ∧ bits (one.wreg 2) 31 2 ≠ 0 ∧ bits (one.wreg 6) 31 2 = 0 ∧ bits (one.wreg 6) 1 0 = 0
    ∧ (∃ e ∈ (batchOf false).entries, e.done = false) ∧ (∀ e ∈ (batchOf true).entries, e.done = true) := by unfold Ready; decide +kernel

/-- Two lanes, whose slots name node 0; its records have two words. -/
def emitStrand : Strand := { uniStrand with m := [3, 3, 2, 3, 4, 5, 6, 7] }
def graphKernel : Kernel := { probeKernel with node := true, nodeWords := 2 }
def aNode (appended : Nat) : Node := ⟨graphKernel, [], 0x1000000000010800, 4, 3, appended, 0, 7, false⟩
def aLaunch (nodes : List Node) : Launch :=
  { ticket := 0, queue := 1, ctx := 1, slot := 0, packet := List.replicate 64 0, kernel := probeKernel, roles := [], n := 1, next := 0, base := 0
    retired := 0, nodeGangs := 0, status := 0, lastOn := [], deferred := none, room := 0, waits := [], acks := [], nodes := nodes, post := none, closing := none }
def emitState (st : Strand) (appended : Nat) : State :=
  { withSt st with mem := [(0x1000003, 0x80), (0x1000013, 0x80)], launches := [aLaunch [aNode appended]] }
def emitForm (x : BitVec 8) (st : Strand) : LaneForm :=
  { record := st.brec 0, off := 0, index := opA nop x 0 st, align := 8, kind := .read, near := false, access := fun _ => .read 8, size := 8, dest := [] }
/-- The nodes that the slots name, read in order. -/
def slotsThen : List (Nat × LaneRes) → State → List (Nat × Nat) → (State → List (Nat × Nat) → Bool) → Bool
  | [], s, out, p => p s out
  | (l, .ok (.mem x) _) :: rs, s, out, p => match slotNode 1 (s.homeRead x 8).2 with
    | some k => slotsThen rs (s.homeRead x 8).1 (out ++ [(l, k)]) p
    | none => false
  | _ :: _, _, _, _ => false
/-- The first record's place in the buffer. -/
def firstRecord (st : Strand) (s : State) : Bool :=
  match (s.launches.find? (fun z => z.ticket == 0)).bind (fun z => z.nodes[0]?) with
  | some x => decide (x.appended - x.taken < x.cap)
      && atMem (s.placeUniform st (x.buf + BitVec.ofNat 64 (x.appended % x.cap * (4 * x.kernel.nodeWords))) 4 .write) (fun _ => true)
  | none => false
def idle0 : Strand := { emitStrand with m := List.replicate 8 0 }
theorem witness_RecordsAreEmitted :
    (∀ i ∈ [Instr.emit nop 2 1 0 0, .emit nop 255 1 0 0, .emit nop 2 1 3 0], Ready i (emitState emitStrand 0) emitStrand 0
      ∧ Ready i (emitState idle0 0) idle0 0) ∧ idle0.active nop = 0 ∧ emitStrand.active nop ≠ 0
    ∧ recordBad (emitStrand.brec 3) = true ∧ recordBad (emitStrand.brec 0) = false ∧ emitStrand.script = []
    ∧ (∀ n ∈ [0, 4], let s := emitState emitStrand n
        s.graphOf emitStrand = some (aLaunch [aNode n])
        ∧ (let r := emitPlaces emitStrand (emitForm 1 emitStrand) (lanesOf (emitStrand.active nop)) s
           slotsThen r.2 r.1 [] (fun s2 out => s2.reqs.isEmpty && s2.stalled.isEmpty && out == [(0, 0), (1, 0)] && (n == 4 || firstRecord emitStrand s2)) = true))
    ∧ (∀ j < graphKernel.nodeWords, 2 + j ∉ emitStrand.emptyV)
    ∧ 2 + graphKernel.nodeWords ≤ emitStrand.allotment ∧ ¬(255 + graphKernel.nodeWords ≤ emitStrand.allotment) ∧ (aNode 4).cap ≤ (aNode 4).appended := by
  unfold Ready; decide +kernel

/-! #### The matrix engines -/

/-- An answer, and a condition on it. -/
def ansThen {α : Type} (r : State × Ans α) (p : State → α → Bool) : Bool := match r with | (t, .ok x) => p t x | _ => false
theorem ansThen_spec {α : Type} {r : State × Ans α} {p : State → α → Bool} (h : ansThen r p = true) : ∃ t x, r = (t, .ok x) ∧ p t x = true := by
  unfold ansThen at h
  split at h
  · exact ⟨_, _, rfl, h⟩
  · cases h
/-- Pieces of one size that stand one after another do not overlap. -/
theorem apart_run (base size : Nat) (n : Nat) : Apart ((List.range n).map (fun j => base + size * j)) size := by
  intro j k hj hk
  simp only [List.length_map, List.length_range] at hk
  have hj' : j < n := by omega
  left
  simp only [List.getD_eq_getElem?_getD, List.getElem?_map, List.getElem?_range hj', List.getElem?_range hk, Option.map_some, Option.getD_some]
  have := Nat.mul_le_mul_left size (show j + 1 ≤ k from hj)
  rw [Nat.mul_add] at this
  omega
def twoWords (n : Nat) : List Word := [BitVec.ofNat 32 n, BitVec.ofNat 32 (n / 2 ^ 32)]
/-- An MCW word: name, formats, gap (R289). -/
def mcwWord (acc fa fb : Nat) : Nat := acc + fa * 16 + fb * 256 + 2 ^ 20 + 2 ^ 32
def matStrand : Strand :=
  { uniStrand with
    w := twoWords 0x1000000000010000 ++ twoWords 0x1000000000018000 ++ twoWords (mcwWord 3 7 7) ++ twoWords (mcwWord 0 7 7) ++ twoWords (mcwWord 3 7 1)
      ++ twoWords 512 ++ twoWords 0x3000000000000000 ++ twoWords 0xFF ++ twoWords 0x100 ++ twoWords 0x6 ++ twoWords 0x9 ++ List.replicate 42 0
    v := (uniStrand.v.set 10 ((List.range 32).map (fun l => BitVec.ofNat 32 (0x10000 + 256 * l)))).set 11 (List.replicate 32 0x10000000) }
def matGang : Gang := { probeGang with accMap := [none, some 1, none, some 2, none, none, none, some 0] }
def someEntries (n : Nat) : List MxEntry := (List.range n).map (fun j => { MxEntry.start uniStrand .mz 3 0 0 with id := j, who := some ⟨1, 5, 0, 0⟩, tile := 2 })
def matState (st : Strand) (g : Gang) (es : List MxEntry) : State := { withSt st with gangs := [g], mxEntries := es, nextId := 100 }
def enterOk (i : Instr) (acc t : Nat) (s : State) : Bool :=
  match commandFor i matStrand with
  | some c => (c.mcw.extractLsb' 0 3).toNat == acc && matGang.accMap.getD acc none == some t && !(commandOf i matStrand).badMcw
      && (s.entryCheck (some matGang) (commandOf i matStrand)).isNone
      && s.stalled.isEmpty && (c.kind != .gath || (gathLanes matStrand (some matGang) (commandOf i matStrand) (lanesOf (matStrand.mask 0)) s).2.all (fun o => o.2 == .out))
  | none => false
theorem witness_MatrixCommandsEnter :
    let s := matState matStrand matGang []
    (∀ i ∈ [Instr.mz nop 3, .mz nop 0, .mma nop 4 0 2, .mma nop 6 0 2, .mma nop 8 0 2, .mma nop 4 0 12, .mmaGath nop 4 2 5, .mdrain nop 0 10 0 3,
      .mload nop 0 10 0 3], Ready i s matStrand 0)
    ∧ s.mayMatrix matStrand = true ∧ s.gangOf matStrand = some matGang
    ∧ (∀ i ∈ [Instr.mz nop 3, .mma nop 4 0 2, .mmaGath nop 4 2 5, .mdrain nop 0 10 0 3, .mload nop 0 10 0 3], enterOk i 3 2 s = true)
    ∧ matGang.accMap.getD 0 none = none ∧ (commandOf (.mma nop 8 0 2) matStrand).badMcw = true
    ∧ (commandOf (.mma nop 4 0 12) matStrand).badMcw = false ∧ (s.entryCheck (some matGang) (commandOf (.mma nop 4 0 12) matStrand)).isSome = true
    ∧ matStrand.posted = 0 ∧ s.reqs = [] ∧ s.mxRoom 0 0 = true ∧ (matState matStrand matGang (someEntries 32)).mxRoom 0 0 = false
    ∧ (matState matStrand { matGang with kernel := { probeKernel with matrix := false } } []).mayMatrix matStrand = false := by
  unfold Ready; decide +kernel
def matWaiting : Strand := waitingAt matStrand .parked .matrix (.mma nop 4 0 2)
theorem witness_WaitingCommandsEnter :
    let s := matState matWaiting matGang []
    s.findStrand matWaiting.who = some 0 ∧ s.strands[0]? = some matWaiting ∧ matWaiting.isFirmware = false
    ∧ (commandFor (.mma nop 4 0 2) matWaiting).map (fun c => (c.mcw.extractLsb' 0 3).toNat) = some 3 ∧ s.gangOf matWaiting = some matGang
    ∧ matGang.accMap.getD 3 none = some 2 ∧ s.reqs = [] ∧ s.mxRoom 0 0 = true := by decide +kernel
/-- A gather of two rows, with its first segment at a given point. -/
def gathEntry (x : SegState) : MxEntry :=
  { MxEntry.start matStrand .gath (BitVec.ofNat 64 (mcwWord 3 7 7)) 0 0x1000000000018000 with
    id := 5, tile := 2, lanes := 3, rows := [0x1000000000010000, 0x1000000000010400], segs := [⟨0, 0x1000000000010000, x⟩] }
def aPost : Post := ⟨4, 0, 0, 1, 0, 1, 0, 0x10, 0, 0x10000, 0, 0, .unfixable⟩
theorem witness_MatrixSegmentsAreFetched :
    let e := gathEntry .todo
    let s := matState matStrand matGang [e]
    let f := gathEntry (.posted 4)
    let z := { matState matStrand matGang [f] with posts := [aPost] }
    (s.mxTable 0 0)[0]? = some e ∧ e.frozen = false ∧ s.mxHeldBack e = false ∧ s.segReady e ⟨0, 0x1000000000010000, .todo⟩ = true
    ∧ (match fetchVectors e 0 (e.segVectors ⟨0, 0x1000000000010000, .todo⟩) [] [] (s.paidBy e.ctx e.gang e.die) with
        | (s1, .ok (vs, _), 0) => decide (s1.mxEntries = s.mxEntries) && vs.length == 8
        | _ => false) = true
    ∧ (z.mxTable 0 0)[0]? = some f ∧ z.mxHeldBack f = false ∧ z.segReady f ⟨0, 0x1000000000010000, .posted 4⟩ = true ∧ z.postState 4 = .unfixable
    ∧ f.who = some matStrand.who ∧ z.findStrand matStrand.who = some 0 ∧ matStrand.park = none ∧ e.scaledFmt 0 = none
    ∧ ansThen (s.entryPlace e 0 .read 0x1000000000010000 (e.vectorAlign 0)) (fun s1 x => match x with | .inl _ => s1.partials.isEmpty | .inr _ => false) = true := by
  decide +kernel
def loneEntry (kind : MxKind) (mcw : Nat) (a b : Nat) : MxEntry :=
  { MxEntry.start matStrand kind (BitVec.ofNat 64 mcw) (BitVec.ofNat 64 a) (BitVec.ofNat 64 b) with id := 5, tile := 3 }
/-- A pass in BF16 (format 4) with a vector of its first column. -/
def passEntry : MxEntry :=
  let e := loneEntry .mma (mcwWord 3 4 4) 0x1000000000010000 0x1000000000018000
  { e with held := [⟨1, 0x1000000000018000, List.replicate (e.vectorSize 1) 0x3F, none, []⟩] }
def isNext (e : MxEntry) : Prop := (matState matStrand matGang [e]).mxNext 0 0 = some e ∧ e.pins = [] ∧ e.tile < 8
theorem witness_MatrixEntriesApply :
    isNext (loneEntry .mz 3 0 0) ∧ isNext (loneEntry (.load 0) 3 0x1000000000010000 512) ∧ isNext (loneEntry (.load 1) 3 0x1000000000010000 256)
    ∧ isNext (loneEntry (.load 2) 3 0x1000000000010000 256) ∧ isNext (loneEntry .mma (mcwWord 3 7 7) 0x1000000000010000 0x1000000000018000)
    ∧ isNext passEntry ∧ passEntry.isPass = true ∧ bits passEntry.mcw 7 4 ≠ 7 ∧ ((passEntry.operandVecs 1).getD 0 ([], none)).1 ≠ [] := by
  unfold isNext; decide +kernel
/-- The places of a drain stand one after another. -/
def drainRun (e : MxEntry) (s0 : State) : Bool :=
  match drainTargets e (e.vectors 0) s0 with
  | (s1, .inl ts) => ts.map (·.2) == (List.range 512).map (fun j => 0x1000000 + 128 * j) && s1.partials.isEmpty
  | _ => false
theorem witness_MatrixEntriesApply_drain :
    let e := loneEntry (.drain 0) 3 0x1000000000010000 512
    let s := matState matStrand matGang [e]
    isNext e ∧ drainRun e (({ s with cycle := max s.cycle (s.mxBusy.get 0 0) } : State).paidBy e.ctx e.gang 0) = true
    ∧ Apart ((List.range 512).map (fun j => 0x1000000 + 128 * j)) 128 := by
  refine ⟨?_, ?_, apart_run _ _ _⟩
  · unfold isNext; decide +kernel
  · decide +kernel
theorem witness_MatrixEntriesAge :
    let e := { loneEntry .mz 3 0 0 with readyAt := some 7 }
    (((matState matStrand matGang [e]).mxTable 0 0)[0]? = some e) ∧ e.readyAt = some 7 ∧ e.aged = false
    ∧ 7 + 1024 ≤ (1031 : Nat) := by decide +kernel
theorem witness_TilesAreMapped :
    let s := matState matStrand matGang []
    let full := matState matStrand { matGang with accMap := [none, none, none, none, some 3, some 4, some 5, some 7] } []
    let busy := matState matStrand matGang [{ loneEntry .mz 3 0 0 with tile := 2 }]
    (∀ i ∈ [Instr.malloc nop 40 14, .malloc nop 40 16, .malloc nop 40 18, .malloc nop 40 20, .mfree nop 14, .msync nop 40], Ready i s matStrand 0 ∧ Ready i busy matStrand 0
      ∧ Ready i full matStrand 0)
    ∧ s.mayMatrix matStrand = true ∧ s.gangOf matStrand = some matGang ∧ matGang.accMap.length = 8
    ∧ bits (matStrand.wreg 16) 31 8 ≠ 0 ∧ (matStrand.wreg 18).getLsbD 1 = true ∧ matGang.accMap.getD 1 none ≠ none
    ∧ bits (matStrand.wreg 20) 31 8 = 0 ∧ ((List.range 8).filter (fun n => (matStrand.wreg 20).getLsbD n)) = [0, 3]
    ∧ (full.gangOf matStrand).map (fun g => (g.accMap.getD 0 none, g.accMap.getD 3 none)) = some (none, none)
    ∧ 2 ≤ ((List.range 8).filter (fun t => full.tileFree 0 0 t)).length
    ∧ (let none4 := { matGang with accMap := [none, some 0, some 1, none, some 2, some 3, some 4, some 5] }
       let other := { matGang with gang := 5, accMap := [some 6] ++ List.replicate 7 none }
       let z := { s with gangs := [none4, other] }
       ((List.range 8).filter (fun t => z.tileFree 0 0 t)).length = 1 ∧ z.gangOf matStrand = some none4)
    ∧ s.mfreeReady matGang (matStrand.wreg 14) = true ∧ busy.mfreeReady matGang (matStrand.wreg 14) = false
    ∧ (∃ e ∈ busy.mxEntries, e.who = some matStrand.who) := by unfold Ready; decide +kernel
/-- A strand with owner words of names 2, 6 and none. -/
def frzStrand : Strand := { uniStrand with w := twoWords 0x1000000000010000 ++ [0x82FFFFFE, 0x02FFFFFE, 1, 300, 9] ++ List.replicate 57 0 }
def frzState (es : List MxEntry) : State := matState frzStrand { matGang with frozen := true } es
/-- The state is calm. -/
def calmly (s : State) : Bool :=
  s.partials.isEmpty && s.deadDies.isEmpty && s.dieReset.isNone && s.vaultUpsets.isEmpty && s.stalled.isEmpty && s.l2.all (fun l => l.pins == 0)
    && [(0 : Die), 1, 2, 3].all (fun v => decide ((field (s.reg (.ubpart v)) 27 16 + 255) / 256 < 16))
theorem calmly_spec {s : State} (h : calmly s = true) : s.Calm := by
  simp only [calmly, Bool.and_eq_true, List.isEmpty_iff, Option.isNone_iff_eq_none, List.all_eq_true, beq_iff_eq, decide_eq_true_eq] at h
  obtain ⟨⟨⟨⟨⟨⟨h1, h2⟩, h3⟩, h4⟩, h5⟩, h6⟩, h7⟩ := h
  exact ⟨h1, h2, h3, h4, h5, h6, h7⟩
def frameRun (kind : AccessKind) : Bool :=
  ansThen ((frzState []).framePlaces frzStrand kind 128 ((List.range 512).map (fun j => frzStrand.wpair 0 + BitVec.ofNat 64 (128 * j))))
    (fun s1 xs => xs == (List.range 512).map (fun j => 0x1000000 + 128 * j) && calmly s1)
theorem witness_FrozenTilesMove :
    let s := frzState []
    (∀ i ∈ [Instr.mdrainFrz nop 40 0 2, .mdrainFrz nop 40 0 5, .mloadFrz nop 40 0 2 6, .mloadFrz nop 40 0 3 6], Ready i s frzStrand 0)
    ∧ s.mayMatrix frzStrand = true ∧ s.reqs = []
    ∧ (∀ h ∈ s.gangs, h.accMap.contains (some 5) = false)
    ∧ s.gangs.find? (fun h => h.die == frzStrand.core.die && h.quad == frzStrand.core.quad && h.frozen && h.accMap.contains (some 2))
        = some { matGang with frozen := true }
    ∧ matGang.accMap.findIdx? (· == some 2) = some 3 ∧ (frzStrand.wreg 3).getLsbD 31 = false ∧ (frzStrand.wreg 2).getLsbD 31 = true
    ∧ s.tileFree 0 0 6 = true ∧ s.ownerGang (frzStrand.wreg 2) = some { matGang with frozen := true }
    ∧ matGang.accMap.getD (bits (frzStrand.wreg 2) 26 24) none = none := by unfold Ready; decide +kernel
/-- No piece of a run of places in a calm state is held back. -/
theorem frameRun_spec {kind : AccessKind} (h : frameRun kind = true) :
    ∃ s1 xs, (frzState []).framePlaces frzStrand kind 128 ((List.range 512).map (fun j => frzStrand.wpair 0 + BitVec.ofNat 64 (128 * j))) = (s1, .ok xs)
      ∧ xs = (List.range 512).map (fun j => 0x1000000 + 128 * j) ∧ s1.partials = [] ∧ (s1.readPieces 128 xs).1.stalled = []
      ∧ (s1.writePieces frzStrand (frzStrand.wpair 0) 128 xs (tileBytes s1 0 0 2)).stalled = [] := by
  unfold frameRun ansThen at h
  split at h
  next s1 xs heq =>
    simp only [Bool.and_eq_true, beq_iff_eq] at h
    have c := calmly_spec h.2
    exact ⟨s1, xs, heq, h.1, c.partials, (c.readPieces _ _).stalled.trans c.stalled, (c.writePieces _ _ _ _ _).stalled.trans c.stalled⟩
  · cases h
theorem witness_FrozenTilesMove_places : frameRun .read = true ∧ frameRun .write = true
    ∧ Apart ((List.range 512).map (fun j => 0x1000000 + 128 * j)) 128 :=
  ⟨by decide +kernel, by decide +kernel, apart_run _ _ _⟩
def frzEntry : MxEntry := { loneEntry .mz 3 0 0 with tile := 2, frozen := true }
/-- Two pieces read back as the entries of records. -/
def recordsBack (bs : List Byte) (n : Nat) (p : State → Option (List MxEntry) → Bool) : Bool :=
  let s := { frzState [frzEntry] with mem := (frzState []).mem.put 0x1000000 bs }
  ansThen (s.framePlaces frzStrand .read 32 ((List.range n).map (fun j => frzStrand.wpair 0 + BitVec.ofNat 64 (32 * j))))
    (fun s1 xs => let r := s1.readPieces 32 xs; r.1.stalled.isEmpty && p r.1 (r.1.entriesOfRecords 0 0 n r.2))
theorem witness_FrozenEntriesMove :
    let s := frzState [frzEntry]
    (∀ i ∈ [Instr.mdrainFrzq nop 40 0 2, .mloadFrzq nop 40 0 4, .mloadFrzq nop 40 0 5], Ready i s frzStrand 0 ∧ Ready i (frzState (someEntries 32)) frzStrand 0)
    ∧ s.mayMatrix frzStrand = true ∧ s.reqs = [] ∧ s.ownerGang (frzStrand.wreg 2) = some { matGang with frozen := true }
    ∧ (s.entryRecords frzEntry).length / 32 = 1
    ∧ ansThen (s.framePlaces frzStrand .write 32 ((List.range 1).map (fun j => frzStrand.wpair 0 + BitVec.ofNat 64 (32 * j))))
        (fun s1 xs => xs == (List.range 1).map (fun j => 0x1000000 + 32 * j) && s1.partials.isEmpty
          && (s1.writePieces frzStrand (frzStrand.wpair 0) 32 xs (s.entryRecords frzEntry)).stalled.isEmpty) = true
    ∧ 288 < (frzStrand.wreg 5).toNat ∧ (frzStrand.wreg 4).toNat = 1
    ∧ recordsBack (s.entryRecords frzEntry) 1 (fun t es => (es.map (·.length)) == some 1 && decide ((t.mxTable 0 0).length + 1 ≤ 32)) = true
    ∧ recordsBack (List.replicate 32 0xFF) 1 (fun _ es => es.isNone) = true := by unfold Ready; decide +kernel

/-! #### Rays and light walks -/

/-- One, a half, minus one, ten. -/
def f1 : Nat := 0x3F800000
def fHalf : Nat := 0x3F000000
def fMinus : Nat := 0xBF800000
/-- The scene of the example after R335, with its header at 0x10000, its node at 0x10080 and its triangles at 0x10200. -/
def sceneMem : Memory :=
  ((probe.mem.put 0x1000000 (leBytes 8 0x10080 ++ leBytes 8 0x10200 ++ leBytes 4 0x40000000)).put 0x1000080
      (([0, 0, 0, f1, f1, 0].flatMap (leBytes 4)) ++ List.replicate 72 0 ++ leBytes 4 0x84000000)).put 0x1000200
    ([0, 0, 0, f1, 0, 0, 0, f1, 0, f1, 0, 0, f1, f1, 0, 0, f1, 0].flatMap (leBytes 4))
/-- The tree of the example after R337, with its header at 0x10400 and its nodes at 0x10420. -/
def treeMem : Memory :=
  (sceneMem.put 0x1000400 (leBytes 8 0x10420 ++ leBytes 4 5)).put 0x1000420
    (([0, 0, 0, 0, 0, 1, 0, 0, 0x40000000, 0, 0, 0, 0x40800000, 0x80000007, 0, 0, 0, f1, 0, fHalf, 0x40400000, 3, 0, 0,
       0, f1, fHalf, 0, f1, 0x80000002, 0, 0, 0, f1, 0xBF000000, 0, 0x40000000, 0x80000005, 0, 0]).flatMap (leBytes 4))
def rayGroup (tmax : Word) : List Word := [0x3F000000, 0x3F000000, 0x3F800000, 0, 0, 0, 0xBF800000, tmax]
def rayFormats : List W64 := 0x8000000000000000 :: List.replicate 15 0

def rayOp (kind : RayKind) (a b : List Word) : RayOp := ⟨7, probeStrand.who, probeStrand.core, 1, 0, kind, 8, [⟨3, a, b, none, none⟩]⟩
def rayResult : Result := ⟨7, probeStrand.who, [8, 9, 10, 11, 12, 13, 14, 15], [], [], [], [], [], [7], 0, 0⟩
def rayState (r : RayOp) : State :=
  { probe with mem := treeMem, rayOps := [r], results := [rayResult], rayTables := [⟨probeStrand.core, 1, rayFormats, none⟩], nextId := 8 }
/-- What a lane's unit answers. -/
def rayAnswer (kind : RayKind) (a b : List Word) : Option (List Word) :=
  let r := rayOp kind a b
  match (rayState r).rayLaneRun r ⟨3, a, b, none, none⟩ rayFormats with
  | (_, .ok ws) => some ws
  | _ => none
/-- The example after R335: trace, traceocc and trres, and a trace that ends before the triangles. -/
theorem test_trace : rayAnswer .trace (rayGroup 0x41200000) [0x10000, 0] = some [0x3F800000, 0, 0xFFFFFFFF, 0x80000000, 0x10000, 0, 0, 0] := by decide +kernel
theorem test_trace_misses : rayAnswer .trace (rayGroup 0x3F000000) [0x10000, 0]
    = some [0x7F800000, 0xFFFFFFFF, 0xFFFFFFFF, 0, 0x10000, 0, 0, 0] := by decide +kernel
theorem test_traceocc : rayAnswer .traceocc (rayGroup 0x41200000) [0x10000, 0] = some [0x80000000] := by decide +kernel
theorem test_trres : rayAnswer .trres (rayGroup 0x41200000) [0x3F800000, 0, 0xFFFFFFFF, 0x80000000, 0x10000, 0, 0, 0]
    = some [0x3F000000, 0x3F000000, 0, 0x80000000] := by decide +kernel
/-- The example after R337. -/
theorem test_ltwalk : rayAnswer .ltwalk [0, 0, 0, 0x3F200000] [0x10400, 0] = some [5, 0x3F000000] := by decide +kernel

def rayStrand : Strand := { uniStrand with m := [0xF, 3, 2, 3, 4, 5, 6, 7] }
def rayPosted : Strand := { rayStrand with posted := 1 }
theorem witness_RaysStart :
    let none_ := { rayStrand with m := List.replicate 8 0 }
    (∀ i ∈ [Instr.trace nop 8 0 16, .traceocc nop 8 0 16, .trres nop 20 0 8, .ltwalk nop 24 28 16, .trace (ext { noExt with ub := true }) 8 0 16],
      Ready i (withSt rayStrand) rayStrand 0 ∧ Ready i (withSt rayPosted) rayPosted 0 ∧ Ready i (withSt none_) none_ 0)
    ∧ rayStrand.active nop ≠ 0 ∧ none_.active nop = 0 ∧ rayStrand.posted = 0 ∧ rayPosted.posted ≠ 0 ∧ (withSt rayStrand).reqs = [] := by
  unfold Ready; decide +kernel
theorem witness_RayLanesEnd :
    let a := rayGroup 0x41200000
    let b : List Word := [0x10000, 0]
    let r := rayOp .trace a b
    let l : RayLane := ⟨3, a, b, none, none⟩
    let s := rayState r
    let two : RayOp := { r with lanes := [l, { l with lane := 4 }] }
    let env : RayEnv := ⟨engineReq 1 0 0 0 .read, rayFormats⟩
    s.rayOps.find? (fun o => o.result == 7) = some r ∧ r.lanes.find? (fun y => y.lane == 3 && y.answer.isNone) = some l
    ∧ s.rayTables.find? (fun t => t.core == r.core && t.ctx == r.ctx) = some ⟨r.core, r.ctx, rayFormats, none⟩
    ∧ (match (s.paidBy 1 r.who.gang r.core.die).rayLaneRun r l rayFormats with
        | (s1, .ok _) => decide (s1.rayOps = s.rayOps) && decide (s1.results = s.results)
        | _ => false) = true
    ∧ (∃ y ∈ two.lanes, y.lane ≠ 3 ∧ y.answer = none) ∧ two.lanes.find? (fun y => y.lane == 3 && y.answer.isNone) = some l
    ∧ rayOf (rayGroup 0x7FC00000) = none ∧ (rayOf a).isSome = true
    ∧ (match rayOf a with
        | some y => (match (s.paidBy 1 r.who.gang r.core.die).traverse env false 0x10000 y, (s.paidBy 1 r.who.gang r.core.die).traverse env true 0x10000 y,
            (s.paidBy 1 r.who.gang r.core.die).traverse env false 0x10001 y with
          | (_, .ok w), (_, .ok _), (_, .error (.code n)) => w.best.isSome && n == 3
          | _, _, _ => false)
        | none => false) = true
    ∧ (match (s.paidBy 1 r.who.gang r.core.die).lightWalk env.q 0x10400 [0, 0, 0, 0x3F200000],
          (s.paidBy 1 r.who.gang r.core.die).lightWalk env.q 0x10400 [0, 0, 0, 0x3F800000] with
        | (_, .ok _), (_, .error (.code _)) => true
        | _, _ => false) = true := by decide +kernel
theorem witness_TriangleTest :
    (vecOf [0, 0, 0]).isSome = true ∧ (vecOf [0x3F800000, 0, 0]).isSome = true ∧ (vecOf [0, 0x3F800000, 0]).isSome = true := by decide +kernel

/-! #### Reservoirs and the Twill engines -/

def rsvStrand : Strand := { uniStrand with m := [0xF, 3, 2, 3, 4, 5, 6, 7] }
theorem witness_ReservoirInstructions :
    let none_ := { rsvStrand with m := List.replicate 8 0 }
    (∀ i ∈ [Instr.rsvinit nop 8, .rsvupd nop 8 16 24, .rsvmrg nop 8 16 24, .rsvnrm nop 8, .rng nop 8 2 4, .rsvld nop 8 1 0 0, .rsvst nop 8 1 0 0],
      Ready i (withSt rsvStrand) rsvStrand 0 ∧ Ready i (withSt none_) none_ 0)
    ∧ rsvStrand.active nop ≠ 0 ∧ none_.active nop = 0 := by unfold Ready; decide +kernel
/-- 1.0, minus 1.0, a NaN, an infinity and the largest number as WSUM, weight, draw or count. -/
def recW (wsum : Word) (m : Word) : Record := ⟨5, 0x3F800000, wsum, 0x3F800000, m, 1, 2, 3⟩
theorem witness_ReservoirSteps :
    (unitsOf 0x3F800000).isSome = true ∧ ((unitsOf 0xBF800000).map (fun n => decide (n < 0))) = some true ∧ unitsOf 0x80000000 = some 0
    ∧ (num32 0x7FC00000).isNan = true ∧ (num32 0x7F800000).isInf = true ∧ (num32 0xBF000000).neg = true ∧ (num32 0x3F000000).neg = false
    ∧ ((unitsOf 0x3F800000).map (fun n => decide (0 < n))) = some true ∧ rnAdd 0x7F7FFFFF 0x7F7FFFFF = 0x7F800000 ∧ rnAdd 0x3F800000 0x3F800000 ≠ 0x7F800000
    ∧ numCmp (num32 (rnMul (clampDraw 0x3E800000) 0x40000000)) (num32 0x3F800000) < 0
    ∧ ¬numCmp (num32 (rnMul (clampDraw 0x3F700000) 0x40000000)) (num32 0x3F800000) < 0
    ∧ (recW 0x3F800000 1).clean.1.id ≠ 0xFFFFFFFF ∧ (recW 0x3F800000 1).clean.1.m ≠ 0 ∧ (recW 0x3F800000 0).clean.1.m = 0
    ∧ (recW 0 1).clean.1.wsum = 0 ∧ rnMulInt (rnMul 0x3F800000 0x3F800000) 1 = 0x3F800000 ∧ rnMulInt (rnMul 0x3F800000 0) 1 = 0 := by decide +kernel
/-- R347: draws are clamped to [0, 1). -/
theorem test_draw_clamps : clampDraw 0x3F800000 = 0x3F7FFFFF ∧ clampDraw 0x3F000000 = 0x3F000000 ∧ clampDraw 0xBF000000 = 0 := by decide +kernel
/-- A candidate of weight w, and the example after R349, step by step. -/
def candW (id w : Word) : Record := ⟨id, 0x3F800000, w, 0, 1, 0, 0, 0⟩
def rsv3 : Record := ((((Record.mk 0xFFFFFFFF 0 0 0 0 0 0 0).update (candW 0 0x40000000) 0x3F000000).1.update (candW 1 0x3F800000) 0x3F400000).1.update
  (candW 2 0x40800000) 0x3E800000).1
theorem test_rsvupd : (rsv3.id, rsv3.wsum, rsv3.m) = (2, 0x40E00000, 3) := by decide +kernel
theorem test_rsvnrm :
    let r := ((rsv3.merge ⟨9, 0, 0, 0x3F000000, 5, 0, 0, 0⟩ 0x40000000 0x3E000000 4).1)
    (r.id, r.phat, r.wsum, r.m) = (9, 0x40000000, 0x41300000, 7) ∧ (r.normalise).1.w = 0x3F492492 := by decide +kernel

/-- A descriptor (R352): a frame of one tile, CUR at 0x12000, OUT at 0x14000, OWN at 0x1E000, one spatial neighbour of radius 1. -/
def twillBytes : List Byte :=
  leBytes 8 0x0001000000010101 ++ leBytes 8 0x12000 ++ leBytes 8 0 ++ leBytes 8 0x14000 ++ leBytes 8 0 ++ leBytes 8 0x1E000 ++ leBytes 8 0 ++ leBytes 8 77
    ++ leBytes 8 0 ++ leBytes 2 0 ++ leBytes 2 0 ++ leBytes 2 1 ++ leBytes 2 1 ++ leBytes 2 16 ++ leBytes 2 16 ++ List.replicate 44 0
/-- A gang with a callable table at 0x10800, whose entry 0 is `exit` at 0x10900. -/
def twillGangOf : Gang := { probeGang with kernel := { probeKernel with calltab := 0x10800 } }
def twillMem : Memory :=
  ((probe.mem.put 0x1000800 (leBytes 8 0x8000000000000900)).put 0x1000900 (leBytes 4 ((encode (.exitL nop)).getD 0 0).toNat)).put 0x1000080 twillBytes
def twillWho : Who := probeStrand.who
def twillOp (started : Bool) (pixel : Nat) (work : Option TwillWork) (bs : List Byte) : TwillOp :=
  ⟨9, 0, 0, twillWho, 2, 1, 0, 0x1000000000010080, bs, 0x10000, started, pixel, work, [], false⟩
def twlStrand : Strand :=
  { uniStrand with
    w := twoWords 0x1000000000010080 ++ [2, 0, 9, 0] ++ List.replicate 58 0
    tickets := [none, none, some ⟨twillBytes, 0x10000, false, false⟩] ++ List.replicate 5 none }
def twillState (st : Strand) (o : TwillOp) : State :=
  { withSt st with mem := twillMem, gangs := [twillGangOf], twills := [o], nextId := 20, rayTables := [⟨probeStrand.core, 1, rayFormats, none⟩] }
theorem witness_TwillTickets :
    let s := { twillState twlStrand (twillOp false 0 none twillBytes) with twills := [] }
    let full := { twlStrand with tickets := List.replicate 8 (some ⟨twillBytes, 0x10000, false, false⟩) }
    let fin := { twlStrand with tickets := [none, none, some ⟨twillBytes, 0x10000, true, false⟩] ++ List.replicate 5 none }
    Ready (.twl nop 20 0) s twlStrand 0 ∧ Ready (.twl nop 20 0) { s with strands := [full] } full 0
    ∧ (∀ a ∈ [2, 4, 5], Ready (.twlwait nop 20 a) s twlStrand 0) ∧ Ready (.twlwait nop 20 2) { s with strands := [fin] } fin 0
    ∧ (∀ z ∈ [s, { s with strands := [full] }], ansThen (z.placeObject twlStrand (twlStrand.wpair 0) 128 .read [0, 1])
        (fun s1 _ => decide (s1.strands = z.strands) && s1.cur == z.cur && s1.reqs.isEmpty && (s1.gangOf twlStrand).isSome && s1.twills.isEmpty
          && seriesOk (s1.series (.twl nop 20 0) twlStrand (twlStrand.wpair 0) 128 [0, 1] (.read 128) 128)
              (fun s3 _ => decide (s3.strands = z.strands) && s3.cur == z.cur && (s3.gangOf twlStrand).isSome)) = true)
    ∧ (twlStrand.tickets.getD 0 none).isSome = false ∧ twlStrand.posted = 0 ∧ twlStrand.script = []
    ∧ (∀ m < 8, (full.tickets.getD m none).map (·.done) = some false)
    ∧ bits (twlStrand.wreg 4) 31 3 ≠ 0 ∧ bits (twlStrand.wreg 2) 31 3 = 0 ∧ bits (twlStrand.wreg 2) 2 0 = 2
    ∧ (twlStrand.tickets.getD (bits (twlStrand.wreg 5) 2 0) none).isSome = false := by unfold Ready; decide +kernel
/-- An answer of the engine, and a condition on it. -/
def rayThen {α : Type} (r : RayRes α) (p : State → α → Bool) : Bool := match r with | (t, .ok x) => p t x | _ => false
theorem rayThen_spec {α : Type} {r : RayRes α} {p : State → α → Bool} (h : rayThen r p = true) : ∃ t x, r = (t, .ok x) ∧ p t x = true := by
  unfold rayThen at h
  split at h
  · exact ⟨_, _, rfl, h⟩
  · cases h
def cand0 (ph : Option Word) : TwillCand := ⟨[5, 0x3F800000, 0x3F800000, 0x3F800000, 1, 0, 0, 0], 1, 0, 0, ph⟩
def work0 (ph : Option Word) : TwillWork := ⟨3, [0xFFFFFFFF, 0, 0, 0, 0, 0, 0, 0], [cand0 ph]⟩
def opAt (s : State) (o : TwillOp) : Prop := s.twills = [o] ∧ o.die = 0 ∧ o.quad = 0 ∧ s.findGang o.ctx o.who.gang = some twillGangOf ∧ twillGangOf.frozen = false
  ∧ o.fixups = [] ∧ o.failed = false
theorem witness_TwillOperations_start :
    let t := twillOf twillBytes
    let o := twillOp false 0 none twillBytes
    let z := twillOp false 0 none (List.replicate 128 0)
    let s := twillState twlStrand o
    opAt (twillState twlStrand z) z ∧ (twillOf z.descriptor).refused 0 = true
    ∧ opAt s o ∧ t.refused 0 = false ∧ (List.range (t.ntx * t.nty)).map (fun k => (t.ty0 + k / t.ntx) * (t.width / 16) + t.tx0 + k % t.ntx) = [0]
    ∧ rayThen ((s.paidBy 1 o.who.gang 0).callEntry o t) (fun s1 e => e == 0x10900
        && rayThen (ownedBy o t 0 [0] s1) (fun s2 _ => decide (s2.twills = s.twills))) = true := by unfold opAt; decide +kernel
theorem witness_TwillOperations_pixel :
    let t := twillOf twillBytes
    let o := twillOp true 3 none twillBytes
    let s := twillState twlStrand o
    let o' : TwillOp := { o with pixel := 4 }
    let w := twillOp true 4 (some (work0 (some 0x3F800000))) twillBytes
    let z := twillState twlStrand w
    opAt s o ∧ o.started = true ∧ o.work = none ∧ o.pixel < t.pixels
    ∧ rayThen (((s.paidBy 1 o.who.gang 0).modTwill o.id (fun x => { x with pixel := x.pixel + 1 })).pixelBegin o' t
        (t.tx0 * 16 + 3 % (t.ntx * 16)) (t.ty0 * 16 + 3 / (t.ntx * 16))) (fun s1 _ => decide (s1.twills = [o'])) = true
    ∧ opAt z w ∧ (∀ c ∈ (work0 (some 0x3F800000)).cands, c.ph ≠ none) ∧ t.pixel 3 = (3, 0)
    ∧ rayThen ((z.paidBy 1 w.who.gang 0).twillPlace w .write (t.out + 96) 32) (fun s1 p =>
        p.2.2.isNone && rayThen (ownedBy w t p.2.1 (t.pageTiles (s1.pageSpan w (t.out + 96)) t.out (t.out + 96)) s1) (fun s2 _ => decide (s2.twills = z.twills) && s2.partials.isEmpty)) = true := by
  unfold opAt; decide +kernel
theorem witness_TwillOperations_batch :
    let t := twillOf twillBytes
    let o := twillOp true 4 (some (work0 none)) twillBytes
    let s := twillState twlStrand o
    opAt s o ∧ o.work = some (work0 none) ∧ cand0 none ∈ (work0 none).cands ∧ (cand0 none).ph = none
    ∧ s.rayTables.find? (fun r => r.core == s.twillCore o && r.ctx == o.ctx) = some ⟨s.twillCore o, o.ctx, rayFormats, none⟩
    ∧ rayThen ((s.paidBy 1 o.who.gang 0).callBatch o t [[5, 0, 0, 0, 3, 0, 1, 0]]) (fun s1 st =>
        rayThen (batchPh o t rayFormats st 0 (work0 none).cands s1) (fun s2 _ => decide (s2.twills = s.twills))) = true := by
  unfold opAt; decide +kernel
theorem witness_TwillOperations_end :
    let o := twillOp true 256 none twillBytes
    let st := { twlStrand with state := .parked, park := some .twl, waiting := some (.twlwait nop 20 2) }
    let s := twillState st o
    opAt s o ∧ o.started = true ∧ o.work = none ∧ (twillOf twillBytes).pixels ≤ o.pixel ∧ s.strands = [st] ∧ st.who = o.who
    ∧ st.tickets.getD o.ticket none = some ⟨twillBytes, 0x10000, false, false⟩ ∧ st.tickets.length = 8 ∧ st.isFirmware = false
    ∧ bits (st.wreg 2) 2 0 = o.ticket ∧ st.w.length = 64 ∧ (twillOp true 256 none twillBytes).ticket < 8 := by unfold opAt; decide +kernel

/-! #### Boot, power, memory errors, the host -/

def bootState (n : Nat) (why : List (BitVec 2)) : State :=
  { probe with regs := (.bootst, BitVec.ofNat 64 n) :: probe.regs, boot := { probe.boot with why := why } }
theorem witness_BootStages :
    (∀ n ∈ [1, 2, 3, 5, 6], AtStage (bootState n [0, 0, 0, 0]) n) ∧ ¬AtStage (bootState 6 [0, 0, 0, 0]) 5
    ∧ (bootState 6 [0, 0, 0, 0]).mem.nat imageAddr 4 ≠ 0x574D5246 ∧ (List.replicate 32 (7 : Byte)).length = 32
    ∧ (bootState 5 [0, 0, 0, 0]).boot.report.length = 256 ∨ (bootState 5 [0, 0, 0, 0]).boot.report = [] := by unfold AtStage; decide +kernel
/-- Stage 4 with all dies, with one missing and with two missing. -/
theorem witness_BootStages_memory :
    AtStage (bootState 3 [0, 0, 0, 0]) 3 ∧ AtStage (bootState 3 [0, 0, 2, 0]) 3 ∧ AtStage (bootState 3 [1, 2, 0, 0]) 3
    ∧ (∀ p < 4, (bootState 3 [0, 0, 0, 0]).boot.why.getD p 0 = 0)
    ∧ (let why := (bootState 3 [0, 0, 2, 0]).boot.why; why.getD 2 0 ≠ 0 ∧ ∀ p < 4, p ≠ 2 → why.getD p 0 = 0)
    ∧ (let why := (bootState 3 [1, 2, 0, 0]).boot.why; why.getD 0 0 ≠ 0 ∧ why.getD 1 0 ≠ 0) := by unfold AtStage; decide +kernel
/-- An image of no body. Whether a signature is valid, and what a digest is, are free values (log entry 4): where they accept it, it is accepted. -/
def imageBytes : List Byte := leBytes 4 0x574D5246 ++ leBytes 4 1 ++ leBytes 4 3 ++ leBytes 4 0 ++ List.replicate 16 0 ++ leBytes 32 5 ++ List.replicate 128 0
def imageState : State := { bootState 6 [0, 0, 0, 0] with mem := (bootState 6 [0, 0, 0, 0]).mem.put imageAddr imageBytes }
/-- Its root key. -/
def imageKey : List Byte := List.replicate 64 0
theorem witness_BootStages_accepted (h1 : Config.sm3 [] = 5) (h2 : Config.sm3 imageKey = Config.rootKeyDigest)
    (h3 : ∀ bs, Config.signatureValid bs = true) (h4 : Config.minVersion.toNat ≤ 3) :
    AtStage imageState 6 ∧ imageState.acceptImage = some (5, 3) := by
  have e : imageState.mem.read imageAddr imageHeader = imageBytes := by decide +kernel
  have e0 : imageState.mem.read (imageAddr + imageHeader) 0 = [] := by decide +kernel
  have b0 : bytesAt imageBytes 0 4 = 0x574D5246 := by decide +kernel
  have b1 : bytesAt imageBytes 4 4 = 1 := by decide +kernel
  have b2 : bytesAt imageBytes 16 16 = 0 := by decide +kernel
  have b3 : bytesAt imageBytes 12 4 = 0 := by decide +kernel
  have b4 : bytesAt imageBytes 8 4 = 3 := by decide +kernel
  have b5 : bytesAt imageBytes 32 32 = 5 := by decide +kernel
  have b6 : imageBytes.drop 128 = imageKey := by decide +kernel
  refine ⟨by unfold AtStage; decide +kernel, ?_⟩
  simp [State.acceptImage, e, b0, b1, b2, b3, b4, b5, b6, e0, h1, h2, h3, h4, imageMost]
def bindState : State := { probe with gangs := [], mem := [(Config.devAddr 0 0x1000000, 5)], slots := [⟨0, 1, 1, 0, 0x40, 0, 1⟩] }
theorem witness_BindingsAndDieResets :
    bits (0x0F1B : W64) 30 16 = 0 ∧ bindState.gangs = [] ∧ wellBound 0x0F1B = true ∧ bindState.partials = [] ∧ probe.gangs ≠ [] ∧ wellBound 0x0F00 = false
    ∧ bindState.dieValid 0 = true ∧ (bindState.virtAt (bindState.phys 0)).isSome = true
    ∧ (bindState.reg .dierst).getLsbD 31 = false ∧ bits (0x80000002 : W64) 28 2 = 0 ∧ bindState.dieValid 2 = true ∧ bindState.ctxRun = none
    ∧ (bindState.reg .pwrctl).getLsbD 31 = false ∧ ({ bindState with dieReset := some 2 } : State).dieReset = some 2
    ∧ (∀ p ∈ bindState.slots, p.die ≠ 2) ∧ ([8] : List Nat).getD (bindState.phys 0) 0 = 8 ∧ ([7] : List Nat).getD (bindState.phys 0) 0 < 8 := by decide +kernel
theorem witness_PowerAndRecords :
    bits (5 : W64) 3 0 = 5 ∧ bits (1 : W64) 28 4 = 0 ∧ (probe.reg .pwrctl).getLsbD 31 = false ∧ (probe.reg .pwrctl).getLsbD 29 = false
    ∧ ({ probe with clockPending := some 2 } : State).clockPending = some 2 ∧ probe.dieValid 0 = true ∧ bits (probe.reg (.therm 0)) 23 16 ≤ 300
    ∧ ({ probe with regs := (.vdmap, 0x0100) :: probe.regs } : State).validDies = [0] := by decide +kernel
theorem witness_ConfigRegisterWrites :
    bits (0x8000000000000000 : W64) 38 0 = 0 ∧ bits (0x8000000000000000 : W64) 1 0 = 0 ∧ bits (1 : W64) 1 0 ≠ 0 ∧ bits (1 : W64) 38 0 ≠ 0 ∧ bits (1 : W64) 31 20 = 0
    ∧ bits (0xFFF00000 : W64) 31 20 ≠ 0 ∧ bits (0xF0 : W64) 31 8 = 0 ∧ bits (0x100 : W64) 31 8 ≠ 0 := by decide +kernel
/-- A sector not tried, one after eight failed attempts, and MEMERR free and taken. -/
theorem witness_MemoryAttemptsComplete :
    let a := Config.devAddr 0 0x1000020
    let tried := { probe with memTries := [(2 * a, 8), (2 * a + 1, 8)] }
    probe.dieValid 0 = true ∧ 0x1000020 < Config.populated ∧ 0x1000020 % 32 = 0 ∧ probe.partials = [] ∧ (probe.l2Alloc (lineOf a)).isSome = true
    ∧ probe.memTries.get 0 (2 * a) < 8 ∧ probe.memTries.get 0 (2 * a + 1) < 8 ∧ tried.memTries.get 0 (2 * a) = 8 ∧ tried.memTries.get 0 (2 * a + 1) = 8
    ∧ (probe.reg (.memerr 0)).getLsbD 63 = false
    ∧ (({ probe with regs := (.memerr 0, 0x8001000000001000) :: probe.regs } : State).reg (.memerr 0)).getLsbD 63 = true
    ∧ bits (0x8001000000000000 : W64) 39 37 = 0 ∧ bits (0x8001000000000000 : W64) 4 0 = 0 ∧ bits (1 : W64) 4 0 ≠ 0
    ∧ probe.l2Line (lineOf a) = none
    ∧ (match (probe.homeWrite a [1]).l2Line (lineOf a) with
        | some l => l.dirty.getLsbD (a % 128 / 32) && l.valid.getLsbD (a % 128 / 32) | none => false) = true := by decide +kernel
def vaultReq (x : Access) (path : BitVec 4) : Req := ⟨7, probeStrand.who, probeStrand.core, 1, Config.vaultAddr 0 0 0x100, 4, x, some ⟨3, none, [4], none⟩, 0, path⟩
theorem witness_LinkAndVaultAccesses :
    (∀ r ∈ [vaultReq (.write [1, 2, 3, 4]) 2, vaultReq (.read 4) 2], let s : State := { probe with reqs := [r] }
      s.reqs.find? (fun q => q.id == 7) = some r ∧ isVault r.addr = true ∧ blocked s.reqs r = false ∧ s.vaultWaits = [] ∧ s.partials = []
      ∧ r.path ≠ 0 ∧ r.path ≠ 4 ∧ r.access.special = false)
    ∧ ({ probe with linkFails := [(3, 15)] } : State).linkFails.get 0 3 = 15 := by decide +kernel
def windowState (r : List (CReg × W64)) (w : List CReg) : State := { probe with regs := r ++ probe.regs, pendingWrites := w }
theorem witness_WindowsAndAllocations :
    let s := windowState [(.fwbase 0 1, 0x20000), (.fwlimit 0 1, 0x40000), (.fwscale 0 1, 0x100000), (.vat 0 2 4, 0x80000403)] []
    let on := windowState [(.fwctl 0 1, 0x12), (.fwbase 0 1, 0x20000), (.fwlimit 0 1, 0x40000)] [.fwctl 0 1]
    s.pendingWrites.contains (.fwctl 0 1) = false ∧ on.pendingWrites.contains (.fwctl 0 1) = true
    ∧ bits (0x20 : W64) 30 5 ≠ 0 ∧ bits (0x10 : W64) 30 5 = 0 ∧ (s.reg (.fwctl 0 1)).getLsbD 4 = false ∧ s.windowOk 0 1 1 = true ∧ bits (0x11 : W64) 30 5 = 0 ∧ s.windowOk 0 1 0 = false
    ∧ bits ((windowState [(.fwbase 0 1, 0x60000), (.fwlimit 0 1, 0x40000)] []).reg (.fwlimit 0 1)) 36 16
        < bits ((windowState [(.fwbase 0 1, 0x60000), (.fwlimit 0 1, 0x40000)] []).reg (.fwbase 0 1)) 36 16
    ∧ bits (0x30000 : W64) 63 37 = 0 ∧ bits (0x30000 : W64) 15 0 = 0 ∧ bits (0x30001 : W64) 15 0 ≠ 0
    ∧ bits (0x80000105 : W64) 30 29 = 0 ∧ bits (0x80000105 : W64) 16 8 = 1 ∧ bits (0x80000105 : W64) 7 0 = 5
    ∧ (bits (s.reg (.vat 0 2 4)) 7 0 < 5 + 1 ∧ 5 < bits (s.reg (.vat 0 2 4)) 7 0 + bits (s.reg (.vat 0 2 4)) 16 8)
    ∧ ((s.reg (.vat 0 2 3)).getLsbD 31 = false) ∧ 256 < 5 + bits (0x80010005 : W64) 16 8 := by decide +kernel
theorem witness_HostAccesses :
    let z : State := { probe with hostOut := [] }
    z.dpaValid 0x1000000 4 = true ∧ z.l2Ready 0x1000000 4 = true ∧ z.deadDies = [] ∧ z.partials = []
    ∧ z.dpaValid 0x1000000 8 = true ∧ z.l2Ready 0x1000000 8 = true ∧ z.dpaValid 0xFFFFFFFFFFFFFF00 4 = false
    ∧ z.dpaValid 0xFFFFFFFFFFFFFF00 8 = false ∧ (5 : BitVec 4).toNat ≤ 9
    ∧ (z.reg .uinva).getLsbD 63 = false ∧ bits (0x9000000000001000 : W64) 45 41 = 0 ∧ ((0x9000000000001000 : W64).extractLsb' 60 2 : BitVec 2) = 1
    ∧ ((0xB000000000001000 : W64).extractLsb' 60 2 : BitVec 2) = 3 := by decide +kernel

/-! #### Translation, rounds, frames -/

/-- Refused and accepted roots, and a fetch that walks to a leaf and to a fault. -/
theorem witness_RootsAndWalks :
    let far := { probeStrand with pc := 0x10000 + 2 ^ 40 }
    (probe.reg (.trbase 0)).getLsbD 63 = true ∧ (∃ g ∈ probe.gangs, g.ctxSlot = 0) ∧ (probe.reg (.trbase 2)).getLsbD 63 = false
    ∧ probe.dieValid ((0x8002000000200000 : W64).extractLsb' 37 2) = true ∧ bits (0x8002000000200000 : W64) 36 21 * 0x200000 + 0x200000 ≤ Config.populated
    ∧ bits (0x8002000000200000 : W64) 59 48 = 2 ∧ (∀ j : Slot, (probe.reg (.trbase j)).getLsbD 63 = true → bits (probe.reg (.trbase j)) 59 48 = 1)
    ∧ bits (0x8002000000200000 : W64) 61 60 = 0 ∧ bits (0x8002000000200000 : W64) 47 39 = 0 ∧ bits (0x8002000000200000 : W64) 20 0 = 0
    ∧ probe.strands[0]? = some probeStrand ∧ probeStrand.state = .active ∧ bits probeStrand.pc 63 60 = 0 ∧ bits probeStrand.pc 59 57 = 0
    ∧ ansThen (probe.translate probeStrand.fetchReq (bits probeStrand.pc 56 0)) (fun _ _ => true) = true
    ∧ bits far.pc 63 60 = 0 ∧ isBad (probe.translate far.fetchReq (bits far.pc 56 0)) = true
    ∧ (probe.translate far.fetchReq (bits far.pc 56 0)).1.strands = probe.strands := by decide +kernel
def aRound (kind : BitVec 2) (by_ : RoundBy) (received : List (Agent × Nat)) (acked counted : List Agent) : Round :=
  { id := 3, by_ := by_, kind := kind, ctx := 1, vpn := 1, count := 1, pod := false, received := received, acked := acked, counted := counted, peers := [] }
theorem witness_RoundsRun :
    let d0 := Agent.die 0
    let four : List Agent := [.die 1, .die 2, .die 3, .cacheDie]
    let st := { probeStrand with state := .held, park := some .round, waiting := some (.tlbinv nop 0 2 0 0) }
    let s := { withSt st with nextId := 9 }
    s.isAgent d0 = true ∧ (∀ x ∈ (aRound 0 .host [] [] []).received, x.1 ≠ d0)
    ∧ (aRound 0 .host [(d0, 5)] [] []).received.find? (fun x => x.1 == d0) = some (d0, 5) ∧ s.reqs = [] ∧ s.peerReqs = [] ∧ s.channels = []
    ∧ d0 ∈ (aRound 0 .host [(d0, 5)] [d0] []).acked ∧ d0 ∉ four ∧ four.length + 1 = s.validDies.length + 1
    ∧ ([] : List Agent).length + 1 < s.validDies.length + 1
    ∧ (aRound 1 (.strand st.who) [(d0, 5)] [d0] four).by_ = .strand st.who ∧ s.strands = [st] := by decide +kernel
def sweepState (e on : Nat) : State := { probe with
  regs := [(.ftbase 0, 0x2000000), (.swctl 0, BitVec.ofNat 64 (on + 5 * 2 ^ 32 + 2 * 2 ^ 16 + 0x100)), (.rqbase 0, 0x3000000), (.rqptr 0, 0x0000000100000003)] ++ probe.regs
  mem := probe.mem.put (Config.devAddr 0 0x2000000) (leBytes 8 e) }
/-- An assigned frame referenced and not, a free frame with room in the ready queue and without, the sweeper on and off. -/
theorem witness_FramesAreSwept :
    let entry := fun (s : State) => (BitVec.ofNat 64 (s.mem.nat (Config.devAddr 0 (bits (s.reg (.ftbase 0)) 36 16 * 65536 + s.hands.get 0 0 * 8)) 8) : W64)
    let full := { sweepState 0 1 with regs := (.rqptr 0, 0x0000000100000009) :: (sweepState 0 1).regs }
    ((sweepState 0 1).reg (.swctl 0)).getLsbD 0 = true ∧ ((sweepState 0 0).reg (.swctl 0)).getLsbD 0 = false ∧ (sweepState 0 1).partials = []
    ∧ bits (entry (sweepState 0x0005400000000123 1)) 47 45 = 2 ∧ (entry (sweepState 0x0005400000000123 1)).getLsbD 48 = true
    ∧ bits (entry (sweepState 0x0004400000000123 1)) 47 45 = 2 ∧ (entry (sweepState 0x0004400000000123 1)).getLsbD 48 = false
    ∧ bits (entry (sweepState 0 1)) 47 45 = 0 ∧ (bits ((sweepState 0 1).reg (.rqptr 0)) 31 0 + 2 ^ 32 - bits ((sweepState 0 1).reg (.rqptr 0)) 63 32) % 2 ^ 32 = 2
    ∧ bits ((sweepState 0 1).reg (.swctl 0)) 47 32 = 5 ∧ (bits (full.reg (.rqptr 0)) 31 0 + 2 ^ 32 - bits (full.reg (.rqptr 0)) 63 32) % 2 ^ 32 = 8
    ∧ (let v : W64 := 0x0000000500020101
       bits v 60 48 = 0 ∧ bits v 7 1 = 0 ∧ bits v 15 8 ≠ 0 ∧ bits v 31 16 < bits v 47 32 ∧ bits v 47 32 ≤ 2 ^ (bits ((sweepState 0 0).reg (.rqbase 0)) 3 0 + 10)
       ∧ bits ((sweepState 0 0).reg (.rqbase 0)) 36 12 * 4096 + 4 * 2 ^ (bits ((sweepState 0 0).reg (.rqbase 0)) 3 0 + 10) ≤ Config.populated
       ∧ bits ((sweepState 0 0).reg (.ftbase 0)) 36 16 * 65536 + 8 * 1572864 ≤ Config.populated)
    ∧ (let z : State := { sweepState 1 1 with regs := (.ftbase 0, 0) :: (sweepState 1 1).regs, mem := [(Config.devAddr 0 0, 1)] }
       entry z = 1 ∧ Config.devAddr 0 0 ≤ Config.devAddr 0 (bits (z.reg (.ftbase 0)) 36 16 * 65536))
    ∧ (2 : Nat) ≤ 2 ∧ (bits (0x0000000200000003 : W64) 31 0 + 2 ^ 32 - bits (0x0000000200000003 : W64) 63 32) % 2 ^ 32 < 2
    ∧ bits ((sweepState 0 0).reg (.swctl 0)) 31 16 = 2
    ∧ bits (0x1000000000000 : W64) 60 48 ≠ 0 ∧ bits (0x3000001 : W64) 63 37 = 0 ∧ bits (0x3000001 : W64) 11 4 = 0 ∧ bits (0x3000010 : W64) 11 4 ≠ 0 := by
  decide +kernel
def partState (r : List (CReg × W64)) : State := { probe with regs := r ++ probe.regs, slots := [⟨0, 1, 1, 0, 0x40, 0, 1⟩] }
theorem witness_PartitionsAndReservations :
    let s := partState [(.ubpart 0, 0x00400000), (.ubrsv 0 0, 0x00100002)]
    let total := fun (but : Option Slot) => ((List.range 16).map (BitVec.ofNat 4)).foldl (fun n (j : Slot) =>
      if but = some j then n else n + bits (s.reg (.ubrsv 0 j)) 27 16) 0
    total none = 16 ∧ total (some 0) = 0 ∧ bits (s.reg (.ubpart 0)) 27 16 = 64 ∧ bits (0x00200000 : W64) 27 16 = 32 ∧ bits (0x00800000 : W64) 27 16 = 128
    ∧ bits (0x00080000 : W64) 27 16 < total none ∧ bits (0x00200000 : W64) 30 28 = 0 ∧ bits (0x00200000 : W64) 15 12 = 0
    ∧ ({ s with resizes := [(0, 500)] } : State).resizes = [(0, 500)] ∧ s.partials = [] ∧ s.l2 = []
    ∧ bits (s.reg (.ubrsv 0 0)) 11 0 = 2 ∧ (s.reg (.ubrsv 0 0)).getLsbD 30 = false ∧ (s.reg (.trbase 0)).getLsbD 63 = true ∧ bits (0x00010000 : W64) 27 16 = 1
    ∧ bits (0x00010000 : W64) 29 28 = 0 ∧ bits (0x10000000 : W64) 29 28 ≠ 0 ∧ bits (0x00010000 : W64) 30 16 ≠ 0 ∧ bits (0x80000000 : W64) 30 16 = 0 := by
  decide +kernel
/-- A page whose first and third lines are written, with a frame in the ready queue of die 1 and without. -/
def lateState (q : W64) : State := { probe with
  slots := [⟨0, 1, 7, 0, 0x4000, 0, 5⟩], moves := [⟨0, 1, 7, 1, false⟩]
  regs := [(.vdmap, 0x0FE4), (.ftbase 1, 0x2000000), (.rqbase 1, 0x3000000), (.rqptr 1, q)] ++ probe.regs
  mem := (probe.mem.put (Config.pageAddr 0 1 7) [1, 2, 3]).put (Config.devAddr 1 0x3000004) [9] }
theorem witness_FramesAreAssignedLate :
    (∀ q ∈ ([0x0000000100000003, 0x0000000300000003] : List Nat), let s := lateState (BitVec.ofNat 64 q)
      s.slots.find? (fun x => x.die == 0 && x.ctx == 1 && x.vpn == 7) = some ⟨0, 1, 7, 0, 0x4000, 0, 5⟩ ∧ s.moves = [⟨0, 1, 7, 1, false⟩] ∧ s.reqs = []
      ∧ s.partials = [])
    ∧ (let s := lateState 0x0000000100000003
       let head := bits (s.reg (.rqptr 1)) 63 32
       (bits (s.reg (.rqptr 1)) 31 0 + 2 ^ 32 - head) % 2 ^ 32 = 2 ∧ head % 2 ^ (bits (s.reg (.rqbase 1)) 3 0 + 10) = 1
       ∧ s.mem.nat (Config.devAddr 1 (bits (s.reg (.rqbase 1)) 36 12 * 4096 + 1 * 4)) 4 % 2 ^ 21 = 9
       ∧ isDevice (Config.devAddr 1 (9 * 65536)) = true ∧ Config.devAddr 0 0x4000 + 8 ≤ Config.devAddr 1 (9 * 65536)
       ∧ Config.devAddr 1 (9 * 65536) + 65536 ≤ Config.devAddr 1 (bits (s.reg (.ftbase 1)) 36 16 * 65536 + 9 * 8))
    ∧ (let s := lateState 0x0000000300000003
       (bits (s.reg (.rqptr 1)) 31 0 + 2 ^ 32 - bits (s.reg (.rqptr 1)) 63 32) % 2 ^ 32 = 0) := by decide +kernel

/-! #### The copy engines -/

/-- A copy packet (R109, Table 3). -/
def packetOf (kind ntf src dst sp dp w h notify : Nat) (args : List Byte) : List Byte :=
  leBytes 4 (kind * 4096 + ntf * 64) ++ leBytes 8 src ++ leBytes 8 dst ++ leBytes 4 sp ++ leBytes 4 dp ++ leBytes 4 w ++ leBytes 4 h ++ args ++ leBytes 8 notify
/-- A copy of two rows of 16 bytes with a notification, a fill, one of no kind, and one whose source page has no leaf. -/
def copyPk : List Byte := packetOf 1 1 0x10500 0x10700 16 32 16 2 0x10600 (List.replicate 20 0)
def fillPk : List Byte := packetOf 2 0 0 0x10701 0 20 9 3 0 (leBytes 4 0x11223344 ++ List.replicate 16 0)
def badPk : List Byte := packetOf 15 0 0 0x10701 0 20 9 3 0 (List.replicate 20 0)
def lostPk : List Byte := packetOf 1 0 0x30500 0x10700 16 32 16 2 0 (List.replicate 20 0)
def outPk : List Byte := packetOf 1 0 0x5000000000010500 0x10700 16 32 16 2 0 (List.replicate 20 0)
/-- Queue 1 of die 0 in context 1, with its ring's entry 5 published or not. -/
def cqState (p : List Byte) (tag : Nat) : State := { probe with
  regs := [(.cqctl 0 1, 0x4001), (.cqhdr 0 1, 0x10000)] ++ probe.regs
  mem := (((probe.mem.put 0x1000000 (leBytes 8 6 ++ leBytes 8 5 ++ leBytes 8 5 ++ leBytes 8 0x10400 ++ leBytes 8 0x10300
    ++ leBytes 4 (2 + 6 * 256 + 65536) ++ leBytes 20 0)).put 0x1000300 ([0, tag, 0, 0].flatMap (leBytes 4))).put (0x1000400 + 64) p).put 0x1000500 [1, 2, 3] }
/-- The header and the tag at ACQUIRE of a queue's ring, read by its agent, and a condition on what follows. -/
def takeThen (s : State) (key : AgentKey) (q : Xreq) (d : Die) (p : State → Ring → Nat → Bool) : Bool :=
  seriesOk ((s.workFor 1 none d).agent key q none 0x10000 64 (.read 64) 64) (fun s1 head =>
    match ringOf 0 head with
    | some r => r.logsz == 6 && decide (r.logn ≤ 16) && decide (s1.regs = s.regs)
        && seriesOk (s1.agent key q none (r.tags + BitVec.ofNat 64 (r.acquire % 2 ^ r.logn * 4)) 4 (.read 4) 4)
            (fun s2 tag => decide (s2.regs = s.regs) && p s2 r (leNat tag))
    | none => false)
theorem witness_CopyEntriesAreTaken :
    let s := cqState copyPk 6
    s.pendingWrites.contains (.cqctl 0 1) = false ∧ bits (0x10000000 : W64) 28 26 ≠ 0 ∧ bits (0x40000001 : W64) 28 26 = 0
    ∧ (s.reg (.cqctl 0 1)).getLsbD 0 = true ∧ (s.reg (.cqctl 0 1)).getLsbD 30 = false ∧ s.channels.filter (fun c => c.die == 0 && c.queue == 1) = []
    ∧ s.dieValid 0 = true ∧ s.channels = [] ∧ s.queueWaits = [] ∧ (s.reg (.trbase 0)).getLsbD 63 = true ∧ bits (s.reg (.trbase 0)) 59 48 = 1
    ∧ s.agentBusy (.copyQueue 0 1) = false ∧ s.armed = []
    ∧ takeThen s (.copyQueue 0 1) (s.cqReq 0 1 .read) 0 (fun s2 r tag => r.cq && r.acquire == 5 && tag == 6
        && seriesOk (s2.agent (.copyQueue 0 1) (s.cqReq 0 1 .read) none (r.base + BitVec.ofNat 64 (r.acquire % 2 ^ r.logn * 2 ^ r.logsz)) 64 (.read 64) 64)
            (fun s3 pkt => pkt == copyPk && decide (s3.regs = s.regs)
              && atMem (s3.route { s.cqReq 0 1 .read with kind := .write } none (0x10000 + 8) 8) (fun s4 => s4.channels.isEmpty && s4.partials.isEmpty))) = true
    ∧ takeThen (cqState copyPk 2) (.copyQueue 0 1) (s.cqReq 0 1 .read) 0 (fun _ r tag => r.cq && r.acquire == 5 && tag == 2) = true := by decide +kernel
def chanOf (p : List Byte) (segs : List CopySeg) (started : Bool) : Channel :=
  { id := 5, die := 0, ch := 0, queue := 1, index := 5, ctx := 1, slot := 0, quad := 0, header := 0x10000, packet := p, payQ := none
    by_ := some probeStrand.who, started := started, segs := segs, dst := (copyPacket p).dst, ring := none, published := false, notified := false
    post := none, postFor := 0, stuck := false, command := none, applied := false, code := 0, halted := false, complete := false }
/-- The record of a failed channel's queue, made. -/
def haltOk (u : State) (c : Channel) : Bool :=
  match ({ u with channels := [c] } : State).haltRecord c.haltKey (c.xreq .write) c.header c.code c.index.toNat with
  | (v, .ok _) => decide (v.channels = [c])
  | _ => false
/-- The segments of a packet, in a state. -/
def segsOf (p : List Byte) (x : SegState) : List CopySeg := ((copyPacket p).segments (copyPacket p).dst).map (fun y => { y with state := x })
def chState (p : List Byte) (c : Channel) : State := { cqState p 6 with channels := [c] }
theorem witness_CopyPacketsStart :
    (∀ p ∈ [copyPk, fillPk, badPk, lostPk], let c := chanOf p [] false; (chState p c).channels = [c] ∧ c.post = none ∧ c.code = 0 ∧ c.halted = false ∧ c.complete = false
        ∧ (chState p c).armed = [])
    ∧ (let c := chanOf badPk [] false; haltOk ((chState badPk c).paidByChannel c) (failed c 1) = true)
    ∧ (copyPacket badPk).code1 = true ∧ (copyPacket copyPk).code1 = false ∧ (copyPacket copyPk).code2 true = false ∧ (copyPacket copyPk).ring = false
    ∧ (copyPacket copyPk).kind = 1 ∧ (copyPacket fillPk).code1 = false
    ∧ (copyPacket (packetOf 1 1 0x10500 0x10700 16 32 16 2 0x10601 (List.replicate 20 0))).code1 = false
    ∧ (copyPacket (packetOf 1 1 0x10500 0x10700 16 8 16 2 0x10600 (List.replicate 20 0))).code1 = false
    ∧ ((copyPacket (packetOf 1 1 0x10500 0x10700 16 8 16 2 0x10600 (List.replicate 20 0))).code2 true = true
      ∨ (copyPacket (packetOf 1 1 0x10500 0x10700 16 32 16 2 0x10601 (List.replicate 20 0))).code2 true = true) := by decide +kernel
theorem witness_CopyPacketsEnd :
    let c := chanOf copyPk (segsOf copyPk .done) true
    let c1 : Channel := { c with published := true }
    let c2 : Channel := { c with published := true, notified := true }
    let st := { probeStrand with openBatch := ⟨[⟨0, 1, 5, false⟩, ⟨0, 1, 6, false⟩], false, false⟩ }
    let s2 := ({ chState copyPk c2 with strands := [st] } : State).paidByChannel c2
    let marked : State := { s2 with
      channels := [{ c2 with complete := true }]
      strands := s2.strands.map (fun st => st.markBatch 0 c2.queue c2.index false)
      launches := s2.launches.map (fun l => { l with waits := l.waits.filter (fun w => w != (0, c2.queue, c2.index)) }) }
    (∀ y ∈ c.segs, y.state = .done) ∧ (chState copyPk c).peerReqs = [] ∧ (copyPacket copyPk).kind ≠ 5 ∧ c.ring = none
    ∧ (∀ y ∈ c.segs, (List.range y.len).all (fun i => !c.readsByte (copyPacket copyPk) (flatKey ((copyPacket copyPk).dstAt c.dst y.row y.off) + i)) = true)
    ∧ (copyPacket copyPk).ntf = 1 ∧ (copyPacket copyPk).notify.toNat % 8 = 0 ∧ c.by_.isSome = true
    ∧ ((chState copyPk c1).paidByChannel c1).vaultHeld c1 (copyPacket copyPk).notify = false
    ∧ atMem (((chState copyPk c1).paidByChannel c1).route (c1.xreq .write) (((chState copyPk c1).paidByChannel c1).channelGang c1) (copyPacket copyPk).notify 8)
        (fun s1 => decide (s1.channels = [c1]) && s1.partials.isEmpty) = true
    ∧ (s2.reg (.cqctl 0 1)).getLsbD 29 = false
    ∧ seriesOk (marked.agent c2.key (c2.xreq .read) none (c2.header + 16) 8 (.read 8) 8) (fun s1 b1 => leNat b1 == c2.index.toNat
        && seriesOk (s1.agent c2.key (c2.xreq .write) none (c2.header + 16) 8 (.write (leBytes 8 (c2.index.toNat + 1))) 8)
            (fun s2 _ => decide (s2.channels = marked.channels) && decide (s2.strands = marked.strands))) = true
    ∧ (∀ st ∈ s2.strands, st.park ≠ some .cwait) ∧ (∀ e ∈ st.openBatch.entries, e.queue = 1) := by decide +kernel
/-- The places of a segment, or its fault. -/
def segThen (s : State) (c : Channel) (p : List Byte) (x : CopySeg) (good : State → Option (Nat × Bool) → Nat → Bool) (bad : State → AFault → Bool) : Bool :=
  match s.segPlaces c (copyPacket p) x with
  | (s1, .ok (some (.mem y, f), (.mem b, _)), _) => good s1 (some (y, f)) b
  | (s1, .ok (none, (.mem b, _)), _) => good s1 none b
  | (s1, .bad f, _) => bad s1 f
  | _ => false
def chAt (p : List Byte) (x : SegState) : Channel := chanOf p (segsOf p x) true
def firstSeg (p : List Byte) (x : SegState) : CopySeg := (segsOf p x).getD 0 ⟨0, 0, 0, 0, 0, x, false, none, none, []⟩
def goodSeg (x : CopySeg) (chs : List Channel) (s1 : State) (src : Option (Nat × Bool)) (b : Nat) : Bool :=
  decide (s1.channels = chs) && s1.partials.isEmpty && s1.l2Ready b x.len && (match src with | some y => s1.l2Ready y.1 x.len | none => true)
theorem witness_CopySegmentsMove :
    (∀ p ∈ [copyPk, fillPk], let c := chAt p .todo; let x := firstSeg p .todo
      (chState p c).channels = [c] ∧ c.segs[0]? = some x ∧ (copyPacket p).kind ≠ 3 ∧ (copyPacket p).kind ≠ 6
      ∧ ((chState p c).paidByChannel c).segHeld c (copyPacket p) x = false
      ∧ segThen ((chState p c).paidByChannel c) c p x (goodSeg x [c]) (fun _ _ => false) = true
      ∧ (∀ i < x.len, c.readsByte (copyPacket p) (flatKey ((copyPacket p).dstAt c.dst x.row x.off) + i) = false))
    ∧ (let c := chAt lostPk .todo
       segThen ((chState lostPk c).paidByChannel c) c lostPk (firstSeg lostPk .todo) (fun _ _ _ => false)
         (fun s1 f => f.posts && decide (s1.channels = [c]) && decide (s1.copyFixups 0 < 64)) = true
       ∧ ((chState lostPk c).paidByChannel c).segHeld c (copyPacket lostPk) (firstSeg lostPk .todo) = false)
    ∧ (let c := chAt outPk .todo
       segThen ((chState outPk c).paidByChannel c) c outPk (firstSeg outPk .todo) (fun _ _ _ => false)
         (fun s1 f => !f.posts && decide (s1.channels = [c]) && haltOk s1 (failed c 3)) = true
       ∧ ((chState outPk c).paidByChannel c).segHeld c (copyPacket outPk) (firstSeg outPk .todo) = false) := by decide +kernel
/-- One segment set aside, with its answer. -/
theorem witness_CopySegmentsMove_replay :
    let x := firstSeg fillPk (.posted 7)
    let c := chanOf fillPk [x] true
    let q := fun (a : PostState) => (⟨7, 0, 0, 1, 0, 1, 0, 0x10, 0, 0, 0, 0, a⟩ : Post)
    let c1 := segIs c 0 x .todo
    (∀ a ∈ [PostState.fixed, .unfixable], let s := { chState fillPk c with posts := [q a] }
      s.channels = [c] ∧ c.segs = [x] ∧ haltOk ((s.paidByChannel c).dropPost 7) (failed c 3) = true ∧ (s.paidByChannel c).posts = [q a] ∧ (s.paidByChannel c).segHeld c (copyPacket fillPk) x = false
      ∧ segThen { (s.paidByChannel c).dropPost 7 with channels := [c1] } c1 fillPk x (goodSeg x [c1]) (fun _ _ => false) = true
      ∧ (∀ i < x.len, c.readsByte (copyPacket fillPk) (flatKey ((copyPacket fillPk).dstAt c.dst x.row x.off) + i) = false)) := by decide +kernel
/-- A COPYMMA packet for the gang, with INT8 vectors and tiles of the name 3; with the other operand at a vector, and out of its vault. -/
def mmaPk (other : Nat) : List Byte := packetOf 5 0 0x10800 0x10900 64 64 64 2 0 (leBytes 4 0xFFFFFE ++ leBytes 8 (mcwWord 3 7 7) ++ leBytes 8 other)
def mmaChan (other : Nat) : Channel := { chanOf (mmaPk other) (segsOf (mmaPk other) .done) true with published := true }
def mmaEntryOf (other : Nat) : MxEntry :=
  let c := mmaChan other
  { id := 0, die := 0, quad := 0, who := none, chan := some 5, via := none, core := ⟨0, 0, 0⟩, ctx := 1, slot := 0, gang := 0xFFFFFE, tile := 2, kind := .mma
    mcw := (copyPacket (mmaPk other)).mcw, opa := c.dst, opb := (copyPacket (mmaPk other)).other, lanes := 0, rows := [], segs := [], held := [], pins := []
    code := 0, aged := false, frozen := false, readyAt := none }
theorem witness_CopyCommandsAndAnswers :
    (∀ o ∈ [0x1000000000018000, 0x3000000000000000], let c := mmaChan o; let p := copyPacket (mmaPk o)
      let s := { chState (mmaPk o) c with gangs := [matGang] }
      s.channels = [c] ∧ p.kind = 5 ∧ (∀ y ∈ c.segs, y.state = .done) ∧ c.published = true ∧ s.findGang c.ctx p.gang = some matGang
      ∧ matGang.frozen = false ∧ s.mxRoom 0 0 = true ∧ matGang.kernel.matrix = true ∧ matGang.tileOf (mcwAcc p.mcw) = some 2 ∧ c.halted = false
      ∧ p.mcw.getLsbD 3 = false ∧ ¬(bits c.dst 63 60 = 2 ∨ bits c.dst 63 60 = 3) ∧ c.command = none ∧ c.post = none ∧ c.code = 0 ∧ c.started = true)
    ∧ ({ chState (mmaPk 0x1000000000018000) (mmaChan 0x1000000000018000) with gangs := [matGang] } : State).entryCheck (some matGang) (mmaEntryOf 0x1000000000018000) = none
    ∧ ({ chState (mmaPk 0x3000000000000000) (mmaChan 0x3000000000000000) with gangs := [matGang] } : State).entryCheck (some matGang) (mmaEntryOf 0x3000000000000000) ≠ none
    ∧ (let c := mmaChan 0x3000000000000000
       haltOk (({ chState (mmaPk 0x3000000000000000) c with gangs := [matGang] } : State).paidByChannel c) (failed c 7) = true)
    ∧ (let x : Post := ⟨7, 0, 0, 0, 0, 1, 0, 0x10, 0, 0, 0, 0, .pending 0x1000600⟩
       let s := { probe with posts := [x] }
       let t := { s with regs := (.fixring 0 0, 0x8000000000000000) :: s.regs }
       x.state = .pending 0x1000600 ∧ s.partials = [] ∧ s.fixUsable 0 0 = false ∧ t.fixUsable 0 0 = true ∧ s.mem.nat 0x1000600 4 = 0
       ∧ t.isArmed x.waiter = false ∧ (t.armAt x.waiter 0 (.mem 0x1000600) false 1 0).isArmed x.waiter = true ∧ x.code < 1536) := by decide +kernel

/-! #### Launches and scheduling -/

/-- A kernel header (R133) of one strand of 32 registers, and launch packets (R391): a launch of two gangs, a NOP, a malformed one. -/
def kernelBytes : List Byte :=
  leBytes 4 0x4C4E524B ++ leBytes 2 1 ++ leBytes 2 0 ++ [4, 0] ++ leBytes 2 1 ++ [1, 0] ++ List.replicate 10 0 ++ leBytes 4 64 ++ leBytes 4 128 ++ List.replicate 32 0
def launchPk (kind gangs : Nat) (signal : Nat) : List Byte :=
  leBytes 4 (kind * 4096) ++ leBytes 4 gangs ++ leBytes 8 0 ++ leBytes 8 (if kind = 0 then 0 else 0x10800) ++ leBytes 8 (if kind = 0 then 0 else 0x10880)
    ++ leBytes 8 signal ++ List.replicate 24 0
def lqState (p : List Byte) : State := { probe with
  gangs := [], strands := []
  regs := [(.lqctl 1, 0x4001), (.lqhdr 1, 0x10000)] ++ probe.regs
  mem := (((probe.mem.put 0x1000000 (leBytes 8 6 ++ leBytes 8 5 ++ leBytes 8 5 ++ leBytes 8 0x10400 ++ leBytes 8 0x10300
    ++ leBytes 4 (2 + 6 * 256) ++ leBytes 20 0)).put 0x1000300 ([0, 6, 0, 0].flatMap (leBytes 4))).put (0x1000400 + 64) p).put 0x1000800 kernelBytes }
/-- The entry in hand. -/
def handOf (p : List Byte) (status : Option Nat) (capped : Bool) : LaunchTaken := entryInHand 1 1 0 0x10000 5 p status capped
def launchTake (s : State) (p : State → List Byte → Bool) : Bool :=
  takeThen s (.launchQueue 1) (s.lqReq 1 .read) s.agentDie (fun s2 r tag => !r.cq && r.acquire == 5 && tag == 6
    && seriesOk (s2.agent (.launchQueue 1) (s.lqReq 1 .read) none (r.base + BitVec.ofNat 64 (r.acquire % 2 ^ r.logn * 2 ^ r.logsz)) 64 (.read 64) 64)
        (fun s3 bs => s3.taken.isEmpty && decide (s3.regs = s.regs) && p { s3.endScript (.launchQueue 1) with taken := [handOf bs none false] } bs))
/-- The release of the entry from a state. -/
def releaseOk (u : State) (x : LaunchTaken) : Bool :=
  let q := u.agentReq x.ctx x.slot .write
  let u1 : State := { u.endScript (.launchQueue x.queue) with taken := [x] }
  !(u.reg (.lqctl x.queue)).getLsbD 27
    && (match u1.route q none (x.header + 8) 8 with
      | (v, .ok (.mem a, _)) => atMem ((v.homeWrite a (leBytes 8 (x.index + 1))).route q none (x.header + 16) 8) (fun w => w.partials.isEmpty)
      | _ => false)
theorem witness_LaunchEntriesAreTaken :
    let s := lqState (launchPk 1 2 0)
    (0x04000000 : BitVec 32).getLsbD 26 = true ∧ (s.reg (.lqctl 1)).getLsbD 0 = true ∧ (0x4001 : BitVec 32).getLsbD 26 = false ∧ bits (0x4001 : W64) 13 1 = 0
    ∧ s.validDies ≠ [] ∧ (s.reg (.lqctl 1)).getLsbD 30 = false ∧ s.launches.length < 256 ∧ s.queueWaits = [] ∧ s.armed = [] ∧ s.taken = []
    ∧ s.agentBusy (.launchQueue 1) = false
    ∧ (s.reg (.trbase 0)).getLsbD 63 = true ∧ bits (s.reg (.trbase 0)) 59 48 = 1
    ∧ launchTake (lqState (launchPk 0 0 0)) (fun u p => !u.launchBad p && lpKind p == 0 && lpSignal p == 0 && releaseOk u (handOf p (some 0) true)) = true
    ∧ launchTake (lqState (launchPk 0 1 0)) (fun u p => u.launchBad p && lpSignal p == 0 && releaseOk u (handOf p (some 1) true)) = true
    ∧ takeThen { s with mem := s.mem.put 0x1000300 (List.replicate 16 0) } (.launchQueue 1) (s.lqReq 1 .read) s.agentDie
        (fun s2 r tag => !r.cq && r.acquire == 5 && tag == 0 && s2.taken.isEmpty) = true
    ∧ launchTake s (fun u p => !u.launchBad p && lpKind p == 1 && (match launchStructures (.launchQueue 1) (u.agentReq 1 (s.lqReq 1 .read).slot .read) p u with
        | (s4, .ok k roles []) => decide (s4.taken = u.taken) && s4.lowestBase 1 2 == some 0 && decide (s4.lbars.length < 64)
            && (match s4.accept (handOf p none false) k roles [] with
              | some s5 => releaseOk s5 (handOf p none true)
              | none => false)
        | _ => false)) = true := by decide +kernel
def placeKernel (lbar : Bool) (vault : Nat) : Kernel := { probeKernel with lbar := lbar, vregs := 32, vault := vault }
def placeState (lbar : Bool) (n : Nat) (vault : Nat) : State :=
  { lqState (launchPk 1 2 0) with launches := [{ aLaunch [] with kernel := placeKernel lbar vault, n := n, packet := launchPk 1 2 0 }] }
theorem witness_GangsArePlaced :
    let l := { aLaunch [] with kernel := placeKernel false 0, n := 2, packet := launchPk 1 2 0 }
    let s := placeState false 2 0
    let m := { aLaunch [] with kernel := placeKernel true 0, n := 1, packet := launchPk 1 2 0 }
    let t := placeState true 1 0
    let big := { aLaunch [] with kernel := placeKernel true 300, n := 1, packet := launchPk 1 2 0 }
    let u := placeState true 1 300
    s.launches = [l] ∧ t.launches = [m] ∧ u.launches = [big] ∧ l.next < l.n ∧ l.closing = none ∧ l.nodes = [] ∧ s.monitors = [] ∧ s.exhausted 1 = false
    ∧ (s.reg (.lqctl 1)).getLsbD 29 = false ∧ s.dieValid 0 = true ∧ (⟨0, 2, 0⟩ : CoreId) ∉ s.stopped ∧ lpAff l.packet = 0 ∧ 0 ∈ s.launchDies l.packet
    ∧ s.betterDie l 0 = false ∧ l.lastOn = [] ∧ (s.fits 0 1 0 2 l.kernel).isSome = true ∧ m.n = 1 ∧ (t.launchDies m.packet).head? = some 0
    ∧ (t.fits 0 1 0 0 m.kernel).isSome = true ∧ (1 : BitVec 12) ∉ t.ctxHeld ∧ (∀ e ∈ u.launchDies big.packet, ∀ q, u.fits 0 1 e q big.kernel = none)
    ∧ lpSignal big.packet = 0 := by decide +kernel
def retireState (signal : Nat) (next : Nat) : State :=
  { probe with
    strands := [{ probeStrand with state := .ended }]
    launches := [{ aLaunch [] with packet := launchPk 1 1 signal, next := next }] }
theorem witness_GangsRetireAndLaunchesEnd :
    let s := retireState 0 1
    let l := { aLaunch [] with packet := launchPk 1 1 0, next := 1 }
    s.gangs = [probeGang] ∧ s.launches = [l] ∧ l.ticket = probeGang.ticket ∧ probeGang.isNode = false ∧ lpRel l.packet = false ∧ probeGang.frozen = false
    ∧ (∀ st ∈ s.strands, st.state = .ended) ∧ s.mxEntries = [] ∧ s.twills = [] ∧ s.vaultPackets probeGang = false ∧ s.reqs = []
    ∧ (let t := { retireState 0x10600 1 with gangs := [], strands := [] }
       let m := { aLaunch [] with packet := launchPk 1 1 0x10600, next := 1 }
       t.launches = [m] ∧ t.rootOf m.slot m.ctx ≠ none ∧ m.n ≤ m.next ∧ t.gangs = [] ∧ t.swapped = [] ∧ m.nodeGangs = 0 ∧ m.nodes = [] ∧ m.waits = [] ∧ m.closing = none ∧ t.scripts = []
       ∧ t.peerReqs = [] ∧ lpSignal m.packet ≠ 0 ∧ lpAddrBad (lpSignal m.packet) 8 = false
       ∧ atMem (t.route (t.agentReq m.ctx m.slot .write) none (lpSignal m.packet) 8) (fun s1 => decide (s1.launches = [m]) && s1.partials.isEmpty) = true)
    ∧ lpSignal l.packet = 0 := by decide +kernel
def budgetState : State := { probe with
  charges := [⟨2, 3⟩, ⟨1, 200⟩]
  launches := [{ aLaunch [{ aNode 2 with taken := 1 }] with ticket := 0 }]
  regs := [(.lqctl 1, 0x10000001), (.lqbud 1, 100), (.lqref 1, 0x0005000000000003)] ++ probe.regs }
theorem witness_BudgetsAndHeadroom :
    budgetState.charges[1]? = some ⟨1, 200⟩ ∧ -2 ^ 63 ≤ (budgetState.reg (.lqbud 1)).toInt - 200 ∧ (budgetState.reg (.lqctl 1)).getLsbD 28 = true
    ∧ (budgetState.reg (.lqbud 1)).toInt - 200 ≤ 0 ∧ budgetState.charges[0]? = some ⟨2, 3⟩ ∧ (budgetState.reg (.lqctl 2)).getLsbD 28 = false
    ∧ budgetState.queueOf probeStrand = some 1 ∧ budgetState.strands[0]? = some probeStrand ∧ probeStrand.state = .active
    ∧ bits (budgetState.reg (.lqref 1)) 63 48 ≠ 0 ∧ bits (budgetState.reg (.lqref 2)) 63 48 = 0
    ∧ ((bits (budgetState.reg (.lqref 1)) 47 0 : Nat) : Int) * 1000000 < 2 ^ 62 ∧ budgetState.dieValid 0 = true
    ∧ (aNode 2).appended = 2 ∧ ({ aNode 2 with taken := 1 } : Node).taken < (aNode 2).appended := by decide +kernel
def schedState (losses : Nat) (xs : List (StrandState × Nat × Nat)) : State := { probe with
  strands := xs.mapIdx (fun j x => { probeStrand with
    who := ⟨1, 0xFFFFFE, 0, BitVec.ofNat 9 j⟩, slot := j, state := x.1, waitSince := x.2.1, leaseLines := x.2.2, leaseDecl := true })
  losses := [(probeCore, losses)] }
theorem witness_StrandsAreScheduled :
    let s := schedState 0 [(.active, 0, 1500), (.waiting, 5, 600)]
    let t := schedState 0 [(.active, 0, 10), (.waiting, 7, 20), (.waiting, 5, 20)]
    (coreGet t.thresholds 256 probeCore).toNat = 256 ∧ coreGet (schedState 300 []).losses 0 probeCore = 300 ∧ coreGet (schedState 100 []).losses 0 probeCore = 100
    ∧ coreGet t.losses 0 probeCore = 0 ∧ coreGet t.budgets 2048 probeCore = 2048
    ∧ t.nextAdmission probeCore = some 2 ∧ (t.strands[2]?).isSome = true
    ∧ s.strands.length = 2 ∧ (s.strands.map (fun x => (x.state, x.isFirmware, x.core))) = [(.active, false, probeCore), (.waiting, false, probeCore)]
    ∧ (∀ x ∈ s.strands, s.budgetHeld x = false) ∧ 2048 < 1500 + 600 := by decide +kernel

/-! #### Context commands -/

/-- Command `op` on the gang of the tests, with the save address in page 1. -/
def cmdState (s : State) (op : Nat) (run : CtxRun) : State :=
  { s with ctxRun := some run, regs := [(.ctxcmd, BitVec.ofNat 64 (2 ^ 63 + op * 2 ^ 56 + 0xFFFFFE * 2 ^ 28)), (.ctxsave, 0x10800)] ++ s.regs }
def running : CtxRun := ⟨none, none, 0⟩
def ctxKernel : Kernel := { probeKernel with lbar := false, vregs := 32 }
def ctxGang : Gang := { probeGang with kernel := ctxKernel, frozen := true }
def ctxStrand : Strand := { probeStrand with state := .frozen, before := .waiting, v := probeStrand.v.take 32, sr := { probeStrand.sr with hnd := false } }
/-- A state whose gang is frozen. -/
def frozenState (op : Nat) (run : CtxRun) : State := cmdState { probe with gangs := [ctxGang], strands := [ctxStrand], lbars := [] } op run
theorem witness_ContextsFreezeAndThaw :
    let none1 := cmdState { probe with gangs := [] } 1 running
    let g := { ctxGang with frozen := false }
    let s := cmdState { probe with gangs := [g], strands := [{ userStrand with state := .waiting }], lbars := [] } 1 running
    Commanded none1 1 1 0 0xFFFFFE ∧ none1.findGang 1 0xFFFFFE = none ∧ Commanded s 1 1 0 0xFFFFFE ∧ s.findGang 1 0xFFFFFE = some g
    ∧ s.lbars = [] ∧ (frozenState 2 running).lbars = [] ∧ (frozenState 2 running).partials = [] ∧ ctxStrand.before ≠ .frozen
    ∧ (∀ st ∈ s.strands, ¬(st.state = .active ∧ st.sr.hnd = true ∧ st.rptAt ≠ 0))
    ∧ Commanded (frozenState 2 running) 2 1 0 0xFFFFFE ∧ (frozenState 2 running).findGang 1 0xFFFFFE = some ctxGang ∧ ctxGang.frozen = true
    ∧ (frozenState 2 ⟨some true, none, 0⟩).ctxRun = some ⟨some true, none, 0⟩ ∧ bits ((frozenState 2 running).reg .ctxcmd) 59 56 ≠ 7
    ∧ bits ((frozenState 2 running).reg .ctxcmd) 55 52 = (0 : Slot).toNat ∧ ((frozenState 2 running).reg (.ctxstat 0)).getLsbD 63 = false := by
  refine ⟨⟨⟨0, ?_⟩, ?_⟩, ?_, ⟨⟨0, ?_⟩, ?_⟩, ?_, ?_, ?_, ?_, ?_, ?_, ⟨⟨0, ?_⟩, ?_⟩, ?_⟩ <;> decide +kernel
/-- The places of an area, or the bytes of one. -/
def ctxOk {α : Type} (r : State × CtxRes α) (p : State → α → Bool) : Bool := match r with | (s, .ok a) => p s a | _ => false
theorem witness_ContextsAreSavedAndRestored_swapOut :
    let s := frozenState 3 running
    let u := (s.finishClaims ctxGang).settleGang ctxGang
    Commanded s 3 1 0 0xFFFFFE ∧ s.findGang 1 0xFFFFFE = some ctxGang ∧ u.gangQuiet ctxGang = true
    ∧ ctxOk (areaOf (engineReq 1 0 0 0 .write).system u.saveAddr (u.gangImage ctxGang).2.length (u.gangImage ctxGang).1)
        (fun s2 l => match l with | [(_, m)] => decide ((u.gangImage ctxGang).2.length ≤ m) && s2.partials.isEmpty && s2.ctxRun.isSome | _ => false) = true := by
  refine ⟨⟨⟨0, ?_⟩, ?_⟩, ?_⟩ <;> decide +kernel
/-- The state after that swap out, with the gang's launch, and with none. -/
def swapInState (l : List Launch) : State :=
  match nextOf .ctxSwapOut (frozenState 3 running) with
  | some t => { cmdState { t with regs := probe.regs } 4 running with launches := l }
  | none => probe
theorem witness_ContextsAreSavedAndRestored_swapIn :
    Commanded (swapInState [{ aLaunch [] with kernel := ctxKernel }]) 4 1 0 0xFFFFFE ∧ Commanded (swapInState []) 4 1 0 0xFFFFFE
    ∧ (let s := swapInState [{ aLaunch [] with kernel := ctxKernel }]
       ctxOk (s.swapInAt false 1 0 s.saveAddr) (fun s1 g => decide (g ∈ s1.gangs) && s1.lbars.isEmpty && s1.ctxRun.isSome) = true)
    ∧ (match (swapInState []).swapInAt false 1 0 (swapInState []).saveAddr with | (_, .fail) => true | _ => false) = true := by
  refine ⟨⟨⟨0, ?_⟩, ?_⟩, ⟨⟨0, ?_⟩, ?_⟩, ?_⟩ <;> decide +kernel
/-- A save area of one region, and one with a wrong magic number. -/
def restoreState (magic : Nat) : State :=
  let h := leBytes 4 magic ++ leBytes 4 1 ++ leBytes 4 1 ++ leBytes 8 0 ++ leBytes 4 1 ++ List.replicate 16 0 ++ leBytes 8 128 ++ leBytes 8 128
  cmdState { probe with gangs := [], mem := (probe.mem.put 0x1000800 h).put 0x1000880 (leBytes 8 0x20000 ++ leBytes 8 0x30000 ++ [3]) } 6 running
theorem witness_ContextsAreSavedAndRestored_restore :
    let q := fun (s : State) => (s.agentReq 1 0 .read).system
    Commanded (restoreState 0x56415343) 6 1 0 0xFFFFFE ∧ Commanded (restoreState 5) 6 1 0 0xFFFFFE
    ∧ (let s := restoreState 0x56415343
       ctxOk (readArea (q s) s.saveAddr 128 s) (fun s1 h => saveClear h && num h 0 4 == 0x56415343 && num h 4 4 == 1 && num h 8 4 == 1 && num h 16 4 == 0 && num h 20 4 == 1
         && num h 24 4 == 0 && num h 28 4 == 0 && num h 32 4 == 0 && num h 36 4 == 0
         && ctxOk (readArea (q s) (s.saveAddr + BitVec.ofNat 64 (num h 48 8)) (32 * 1) s1) (fun s2 bs => s2.ctxRun.isSome && num bs 0 8 == 0x20000
           && (recordsOf bs 32 1).all regionClear)) = true)
    ∧ (let s := restoreState 5; ctxOk (readArea (q s) s.saveAddr 128 s) (fun _ h => num h 0 4 != 0x56415343) = true) := by
  refine ⟨⟨⟨0, ?_⟩, ?_⟩, ⟨⟨0, ?_⟩, ?_⟩, ?_⟩ <;> decide +kernel
/-- A context with a frozen gang and no queue, to save; and to kill. -/
theorem witness_ContextsAreSavedAndRestored_save :
    Commanded (frozenState 5 running) 5 1 0 0xFFFFFE ∧ Commanded (frozenState 7 running) 7 1 0 0xFFFFFE
    ∧ ctxOk ((frozenState 5 running).saveContext 1 0) (fun s1 _ => s1.ctxRun.isSome) = true := by
  refine ⟨⟨⟨0, ?_⟩, ?_⟩, ⟨⟨0, ?_⟩, ?_⟩, ?_⟩ <;> decide +kernel

/-! #### The worked examples of the spec -/

/-- A strand with a mask m0, and registers that hold values in its low lanes. -/
def exStrand (m0 : Word) (xs : List (Nat × List Word)) : Strand :=
  { probeStrand with
    m := probeStrand.m.set 0 m0
    v := xs.foldl (fun v x => v.set x.1 (x.2 ++ List.replicate (32 - x.2.length) 0)) probeStrand.v }
/-- Lanes 0 to n - 1 of a register afterwards. -/
def lanesAfter (i : Instr) (st : Strand) (r n : Nat) : Option (List Word) := (after i (withSt st)).map (fun x => (List.range n).map (x.lane r))
/-- Lane 0 of v6 and the floating-point flags (bit 0 NV, 4 NX) after an instruction that reads v7 and v8. -/
def lane0 (i : Instr) (a b d : Word) : Option (Word × Word) :=
  (after i (withSt (exStrand 1 [(6, [d]), (7, [a]), (8, [b])]))).map (fun x => (x.lane 6 0, x.sr.fpflags))
def satExt : Pfx := ext { noExt with sat := true }
/-- R182, R187, R181, R188. -/
theorem test_imad_sat : lane0 (.imad satExt 6 7 8) 0x10000 0x10000 0xFFFFFFFF = some (0x7FFFFFFF, 0)
    ∧ lane0 (.imad nop 6 7 8) 0x10000 0x10000 0xFFFFFFFF = some (0xFFFFFFFF, 0) := by decide +kernel
theorem test_fields : lane0 (.bfe nop 6 7 8) 0xDEADBEEF 0xC10 0 = some (0x0EAD, 0) ∧ lane0 (.bfes nop 6 7 8) 0xDEADBEEF 0xC10 0 = some (0xFFFFFEAD, 0)
    ∧ lane0 (.bfi nop 6 7 8) 0xABC 0xC10 0x12345678 = some (0x1ABC5678, 0) ∧ lane0 (.bfes nop 6 7 8) 0xDEADBEEF 0x818 0 = some (0xFFFFFFDE, 0) := by
  decide +kernel
theorem test_iaddc :
    let st := exStrand 3 [(4, [0xFFFFFFFF, 0x80000000]), (5, [1, 0x7FFFFFFF]), (6, [2, 0x80000000]), (7, [0, 0x80000000])]
    let low := { st with m := st.m.set 7 0 }
    let high := { st with m := st.m.set 7 3 }
    lanesAfter (.iaddc nop 8 4 6) low 8 2 = some [1, 0] ∧ (after (.iaddc nop 8 4 6) (withSt low)).map (fun x => x.mask 7) = some 3
    ∧ lanesAfter (.iaddc nop 9 5 7) high 9 2 = some [2, 0] ∧ (after (.iaddc nop 9 5 7) (withSt high)).map (fun x => x.mask 7) = some 2 := by decide +kernel
/-- R195, R199, R201. -/
theorem test_float : lane0 (.fadd satExt 6 7 8) 0x3F400000 0x3F000000 0 = some (0x3F800000, 0)
    ∧ lane0 (.ffma satExt 6 7 8) 0xBF800000 0x40000000 0x3F800000 = some (0, 0)
    ∧ lane0 (.ffrac nop 6 7) 0xB0800000 0 0 = some (0x3F7FFFFF, 0x10)
    ∧ lane0 (.badd2 nop 6 7 8) 0x3F803F80 0x3B804000 0 = some (0x3F804040, 0x10) := by decide +kernel
/-- The conversions of R204. -/
theorem test_cvt : lane0 (.cvt nop 6 7 3 0) 0x3F808000 0 5 = some (0x3F80, 0x10) ∧ lane0 (.cvt nop 6 7 3 0) 0x3F818000 0 5 = some (0x3F82, 0x10)
    ∧ lane0 (.cvt nop 6 7 11 0) 0x4F32D05E 0 5 = some (0x7FFFFFFF, 1) ∧ lane0 (.cvt (ext { noExt with rmo := 5 }) 6 7 11 0) 0xC0200000 0 5 = some (0xFFFFFFFE, 0x10)
    ∧ lane0 (.cvt nop 6 7 6 0) 0x3F4CCCCD 0 0x7F000000 = some (0x7F0000A0, 0x10) ∧ lane0 (.cvt nop 6 7 0 6) 0xA0 0 0x80000000 = some (0x3FC00000, 0) := by
  decide +kernel
/-- R205. -/
theorem test_derivatives :
    let st := exStrand 7 [(1, [0x3F800000, 0x3FC00000, 0x40400000, 0x40E00000]), (2, [9, 9, 9, 9]), (3, [9, 9, 9, 9])]
    lanesAfter (.ddx nop 2 1) st 2 4 = some [0x3F000000, 0x3F000000, 0, 9] ∧ lanesAfter (.ddy nop 3 1) st 3 4 = some [0x40000000, 0, 0x40000000, 9]
    ∧ (after (.ddx nop 2 1) (withSt st)).map (fun x => x.sr.fpflags) = some 0x20 := by decide +kernel
/-- R215, R216. -/
theorem test_scans :
    let st := exStrand 0x3F [(4, [9, 3, 7, 3, 12, 5]), (5, [0, 1, 2, 3, 4, 5]), (8, List.replicate 32 8)]
    lanesAfter (.redminIdx nop 6 4 5) st 6 7 = some [3, 3, 3, 3, 3, 3, 0] ∧ lanesAfter (.redminIdx nop 6 4 5) st 7 7 = some [1, 1, 1, 1, 1, 1, 0]
    ∧ lanesAfter (.scanadd nop 7 4) st 7 6 = some [9, 12, 19, 22, 34, 39]
    ∧ (after (.icmp nop 6 2 4 8) (withSt { st with m := st.m.set 2 0 })).map (fun x => x.mask 2) = some 0x2E
    ∧ lanesAfter (.mcount nop 9 2) { st with m := st.m.set 2 0x2E } 9 6 = some [0, 0, 1, 2, 3, 3] := by decide +kernel
/-- The indices of a walk (R35); the place of a scale (R30); the home of a line (R71). -/
theorem test_places : [3, 2, 1, 0].map (fun k => walkIndex k 0x7F1234568000) = [254, 72, 418, 22]
    ∧ (let s := windowState [(.fwctl 1 2, 0x11), (.fwbase 1 2, 0x400000), (.fwlimit 1 2, 0x7F0000), (.fwscale 1 2, 0x1000000)] []
       s.scaleOff 1 2 0x412080 = 0x1000482 ∧ s.scaleOff 1 2 0x4120C0 = 0x1000483)
    ∧ State.reset.homeSlot (Config.devAddr 1 0x412080) = (7, 8336) := by decide +kernel
/-- R174, R173: two groups on one element; and R176: a gated group. -/
theorem test_groups :
    let z : Machine.Num := .fin false 0 0
    let n := fun (m : Nat) (e : Int) => Machine.Num.fin false m e
    let ones := List.replicate 3 (n 1 0) ++ List.replicate 61 z
    let s0 := passFloat none ones ([n 1 24, n 1 0, n 1 0] ++ List.replicate 61 z) 0
    s0.1 = 0x4B800001
    ∧ (passFloat none ones ([n 1 0] ++ List.replicate 63 z) s0.1).1 = 0x4B800002
    ∧ passFloat (some 4) ([n 1 0, n 3 (-2), n 1 (-1), .fin true 1 0] ++ List.replicate 60 z) ([n 8 0, n 1 (-2), n 1 0, n 3 (-3)] ++ List.replicate 60 z) 0x3F800000
        = (0x41180000, 62) := by decide +kernel
/-- A strand at the `regroup` of R217's example: v16 is the key, v17 names the strand and the lane. -/
def regroupStrand (n : Nat) (m0 : Word) : Strand :=
  { probeStrand with
    who := { probeStrand.who with widx := BitVec.ofNat 9 n }
    m := probeStrand.m.set 0 m0
    waiting := some (.regroup nop 16 16 23)
    v := (probeStrand.v.set 16 ((List.range 32).map (fun l => if l / 4 % 2 = 1 then 0 else 1))).set 17 ((List.range 32).map (fun l => BitVec.ofNat 32 (100 * n + l))) }
/-- v17 and the quad-coherence bits of strand i after the exchange. -/
def regrouped (m0 : Word) (i : Nat) : Option (List Word × BitVec 8) :=
  (({ probe with strands := [regroupStrand 0 m0, regroupStrand 1 0xFFFFFFFF] } : State).exchange [1, 0]).strands[i]?.map (fun st => (st.row 17, st.quadCoherent))
theorem test_regroup : regrouped 0xFFFFFFFF 0 = some ([4, 5, 6, 7, 12, 13, 14, 15, 20, 21, 22, 23, 28, 29, 30, 31, 104, 105, 106, 107, 112, 113, 114, 115,
      120, 121, 122, 123, 128, 129, 130, 131], 0xFF)
    ∧ regrouped 0xFFFFFFDF 0 = some ([4, 6, 7, 12, 13, 5, 14, 15, 20, 21, 22, 23, 28, 29, 30, 31, 104, 105, 106, 107, 112, 113, 114, 115,
      120, 121, 122, 123, 128, 129, 130, 131], 0xFC)
    ∧ (regrouped 0xFFFFFFDF 1).map (·.2) = some 0xFF := by decide +kernel
/-- R464: position 2 excluded for authentication. -/
theorem test_binding :
    let s := bootState 3 [0, 0, 1, 0]
    (match exec (.memoryTrainingDone 0) s with | .next t => decide (t.reg .vdmap = 0x4731) && decide (t.reg .cap = 0x1000007460) | _ => false) = true := by
  decide +kernel

/-! #### The Zotan fabric, and RAYTAB -/

/-- A packet from package 7 to this one (R446). -/
def hdrOf (kind len addr op ctx esize ftype tag : Nat) : BitVec 256 :=
  BitVec.ofNat 256 (ftype * 2 ^ 116 + esize * 2 ^ 112 + ctx * 2 ^ 100 + op * 2 ^ 84 + addr * 2 ^ 45 + (len - 1) * 2 ^ 38 + tag * 2 ^ 22 + kind * 2 ^ 18 + 7 * 2 ^ 9)
/-- A state with a port up that leads to package 7, whose requests are enabled or not; and one in which package 7 is down. -/
def peerState (enabled : Bool) : State := { probe with
  portsUp := 1, strands := [userStrand]
  regs := (.zroute 7, if enabled then 0xC0000001 else 0x80000001) :: probe.regs
  mem := [(0x1000000, 0x78), (0x1000001, 0x56), (0x1000002, 0x34), (0x1000003, 0x12)] }
def downState : State := { peerState true with regs := (.zdown 0, 0x80) :: (peerState true).regs }
theorem witness_PeerRequestsAreServed :
    let s := peerState true
    let a := 0x1000000
    Received s 0 (hdrOf 0 64 a 0 1 0 0 5) [] ∧ Served s (hdrOf 0 64 a 0 1 0 0 5) 64
    ∧ Received s 1 (hdrOf 1 4 a 0 1 0 0 5) [1, 2, 3, 4] ∧ Served s (hdrOf 1 4 a 0 1 0 0 5) 4
    ∧ Received s 2 (hdrOf 2 4 a 0 1 2 0 5) [1, 2, 3, 4] ∧ redRow 0 2 0 = some (4, .int false 0, false) ∧ Served s (hdrOf 2 4 a 0 1 2 0 5) 4
    ∧ Received s 2 (hdrOf 2 8 a 0x30 1 4 3 5) [1, 2, 3, 4, 5, 6, 7, 8] ∧ redRow 0x30 4 3 = some (8, .float 3 0 false, true)
    ∧ Served s (hdrOf 2 8 a 0x30 1 4 3 5) 16
    ∧ Received s 3 (hdrOf 3 4 a 0 1 2 0 5) [1, 2, 3, 4] ∧ atomRow 0 2 0 = some (4, false) ∧ Served s (hdrOf 3 4 a 0 1 2 0 5) 4
    ∧ Received s 3 (hdrOf 3 8 a 0x10 1 2 0 5) [1, 2, 3, 4, 5, 6, 7, 8] ∧ atomRow 0x10 2 0 = some (4, true) ∧ Served s (hdrOf 3 8 a 0x10 1 2 0 5) 4 := by
  unfold Received Served
  refine ⟨?_, ?_, ?_, ?_, ?_, ?_, ?_, ?_, ?_, ?_, ?_⟩ <;> decide +kernel
theorem witness_PeerRequestsAreServed_refused :
    Received (peerState false) 0 (hdrOf 0 64 0x1000000 0 1 0 0 5) [] ∧ ((peerState false).reg (.zroute 7)).getLsbD 30 = false ∧ (peerState false).portsTo 7 ≠ []
    ∧ Received (peerState true) 0 (hdrOf 0 64 0x7FFFFFFF80 0 1 0 0 5) [] ∧ (peerState true).dpaValid 0x7FFFFFFF80 64 = false
    ∧ Received (peerState true) 1 (hdrOf 1 4 0x7FFFFFFF80 0 1 0 0 5) [1, 2, 3, 4] ∧ (peerState true).dpaValid 0x7FFFFFFF80 4 = false
    ∧ downState.isDown 7 = true ∧ payloadFits (hdrOf 0 64 0x1000000 0 1 0 0 5) [] = true ∧ (peerState true).isDown 7 = false
    ∧ packetBad (hdrOf 3 4 0x1000000 0x20 1 2 0 5) [1, 2, 3, 4] = true ∧ payloadFits (hdrOf 3 4 0x1000000 0x20 1 2 0 5) [1, 2, 3, 4] = true
    ∧ 13 ≤ bits (hdrOf 13 1 0 0 0 0 0 5) 21 18 ∧ payloadFits (hdrOf 13 1 0 0 0 0 0 5) [] = true := by unfold Received; decide +kernel
/-- An arm for EQ against a value, of a waiter of package 7. -/
def armPayload (val : Nat) : List Byte := leBytes 8 val ++ [0] ++ leBytes 5 (3 * 2 ^ 11 + 5) ++ List.replicate 18 0
def armHdr (kind : Nat) : BitVec 256 := hdrOf kind 32 0x1000000 0 1 0 0 5
def homeMon (s : State) (way : Nat) : Monitor :=
  ⟨(s.homeSlot 0x1000000).1, (s.homeSlot 0x1000000).2 % 1024, way, 0x1000000, false, 0, 9, 1, 7, armWho 1 (armPayload 9), false⟩
theorem witness_PeerMonitors :
    let s := peerState true
    let full := { s with monitors := (List.range 8).map (homeMon s) }
    let armed := { s with monitors := [homeMon s 2] }
    Received s 10 (armHdr 10) (armPayload 0x12345678) ∧ Served s (armHdr 10) 4 ∧ (hdrSrc (armHdr 10)).toNat ≠ s.package
    ∧ monHolds (armWide (armPayload 0x12345678)) (armCond (armPayload 0x12345678)) (armVal (armPayload 0x12345678)) (s.mem.nat 0x1000000 4) = true
    ∧ Received s 10 (armHdr 10) (armPayload 9) ∧ monHolds (armWide (armPayload 9)) (armCond (armPayload 9)) (armVal (armPayload 9)) (s.mem.nat 0x1000000 4) = false
    ∧ s.monitorWay (s.homeSlot 0x1000000).1 ((s.homeSlot 0x1000000).2 % 1024) = some 0
    ∧ full.monitorWay (s.homeSlot 0x1000000).1 ((s.homeSlot 0x1000000).2 % 1024) = none ∧ Received full 10 (armHdr 10) (armPayload 9) ∧ Served full (armHdr 10) 4
    ∧ Received armed 12 (armHdr 12) (armPayload 9)
    ∧ armed.monitors.find? (fun y => y.pkg == hdrSrc (armHdr 12) && y.ctx == hdrCtx (armHdr 12) && y.who == armWho (hdrCtx (armHdr 12)) (armPayload 9)
        && y.addr == bits (armHdr 12) 83 45) = some (homeMon s 2)
    ∧ armed.partials = [] ∧ armed.portsTo 7 ≠ [] := by unfold Received Served; decide +kernel
theorem witness_PeerMonitors_wake :
    let p := leBytes 8 9 ++ leBytes 5 (0xFFFFFE * 2 ^ 11) ++ List.replicate 19 0
    let u := waiterOf (hdrCtx (armHdr 11)) (bytesAt p 8 5 % 2 ^ 35)
    let s := { peerState true with peerArms := [⟨probeWho, 7, 0x1000000, false⟩] }
    Received s 11 (armHdr 11) p ∧ u = probeWho ∧ (∃ y ∈ s.peerArms, y.who = u ∧ y.pkg = hdrSrc (armHdr 11)) := by unfold Received; decide +kernel
/-- A request to package 7 under way. -/
def peerReqOf (kind : BitVec 4) (posted script : Bool) (reply : Option Reply) : PeerReq := ⟨5, 7, kind, posted, some probeWho, reply, 4, 0x10000, 0x1000000, 0, none, script, none⟩
def askedState (r : PeerReq) (st : Strand) : State := { peerState true with strands := [st], peerReqs := [r] }
theorem witness_PeerAnswersArrive :
    let rep : Option Reply := some ⟨3, none, [4], none⟩
    let held := { userStrand with state := .held, park := some .posted, posted := 1 }
    let armed := { userStrand with state := .waiting, park := some (.waitc none) }
    let full := { userStrand with sr := { userStrand.sr with rfault := 0x8000000000000000 } }
    (∀ x ∈ [(peerReqOf 0 false true none, userStrand), (peerReqOf 0 false false rep, userStrand), (peerReqOf 1 true false none, held),
        (peerReqOf 1 true false none, userStrand), (peerReqOf 1 true false none, full), (peerReqOf 10 false false none, armed)],
      let s := askedState x.1 x.2
      (∀ k ∈ [4, 5, 6], s.requestOf (hdrOf k 4 0 0 1 0 0 5) = some x.1) ∧ x.1.engine = none ∧ x.1.agent = none ∧ x.1.who = some probeWho ∧ s.findStrand probeWho = some 0
      ∧ s.strands[0]? = some x.2 ∧ x.2.remote = none)
    ∧ Received (askedState (peerReqOf 0 false true none) userStrand) 4 (hdrOf 4 4 0 0 1 0 0 5) [1, 2, 3, 4]
    ∧ Received (askedState (peerReqOf 1 true false none) held) 5 (hdrOf 5 1 0 0 1 0 0 5) [0]
    ∧ Received (askedState (peerReqOf 1 true false none) full) 6 (hdrOf 6 1 0 0 1 0 0 5 ||| ((0x16 : BitVec 256) <<< 92)) []
    ∧ Received (askedState (peerReqOf 10 false false none) armed) 5 (hdrOf 5 1 0 0 1 0 0 5) [1] ∧ bytesAt [(1 : Byte)] 0 1 % 2 = 1 ∧ bytesAt [(0 : Byte)] 0 1 % 2 = 0
    ∧ armed.park = some (.waitc none) ∧ armed.awaitsWake = true ∧ (askedState (peerReqOf 10 false false none) armed).peerArms = [] := by
  unfold Received; decide +kernel
theorem witness_RoundsPortsAndDownDeclarations :
    let s := askedState { peerReqOf 1 true false none with who := none } userStrand
    let r := { peerReqOf 1 true false none with who := none }
    Received s 9 (hdrOf 9 2 0 0 0 0 0 5) [7, 0] ∧ BitVec.ofNat 9 (bytesAt [(7 : Byte), 0] 0 2) = 7
    ∧ s.isDown 7 = false ∧ (7 : BitVec 9).toNat ≠ s.package ∧ (∀ y ∈ s.peerReqs, y.dst = 7 → y.engine = none ∧ y.agent = none ∧ y.posted = true ∧ y.who = none)
    ∧ (∀ y ∈ s.peerArms, y.pkg ≠ 7) ∧ s.rounds = [] ∧ s.peerReqs.find? (fun y => y.tag == 5) = some r
    ∧ (let t := { downState with peerReqs := [r], clock := 20, regs := (.ztmo, 5) :: downState.regs }
       t.peerReqs.find? (fun y => y.tag == 5) = some r ∧ t.isDown r.dst = true ∧ bits (t.reg .ztmo) 19 0 ≠ 0 ∧ t.clock = 20)
    ∧ Received s 7 (hdrOf 7 32 0 0 0xFFF 0 0 5) (leBytes 32 0x4008)
    ∧ (let y : Round := { aRound 0 .host [] [] [] with peers := [(7, 5)] }
       let t := { s with rounds := [y] }
       Received t 8 (hdrOf 8 1 0 0 0xFFF 0 0 5) [] ∧ t.rounds = [y] ∧ y.peers = [(hdrSrc (hdrOf 8 1 0 0 0xFFF 0 0 5), hdrTag (hdrOf 8 1 0 0 0xFFF 0 0 5))]) := by
  unfold Received; decide +kernel
theorem witness_RoundsPortsAndDownDeclarations_ports :
    let s := peerState true
    let alone := { probe with portsUp := 1, portFails := [(0, 15)] }
    s.portsUp.getLsbD 0 = true ∧ s.portFails.get 0 0 + 1 < 16 ∧ 16 ≤ alone.portFails.get 0 0 + 1 ∧ alone.portsUp.getLsbD 0 = true
    ∧ alone.livePeers = [] ∧ s.portsUp.getLsbD 3 = false ∧ s.boot.opticalFailed.getLsbD 0 = false
    ∧ (let t := { s with routeStale := [7] }; (7 : BitVec 9) ∈ t.routeStale ∧ (∀ y ∈ t.peerReqs, y.dst ≠ 7))
    ∧ bits (0x200 : BitVec 32) 30 9 ≠ 0 ∧ bits (0x5 : BitVec 32) 30 9 = 0 ∧ (probe.reg (.trbase 0)).getLsbD 63 = true
    ∧ (∀ k : Slot, (State.reset.reg (.trbase k)).getLsbD 63 = false) := by decide +kernel
theorem witness_RaytabWrites :
    let free := { probe with gangs := [], strands := [] }
    probe.slotBusy 0 = true ∧ free.slotBusy 0 = false ∧ (0x8200000000000000 : W64).getLsbD 63 = true ∧ bits (0x8200000000000000 : W64) 59 57 ≠ 0
    ∧ bits (0x8000000000010000 : W64) 59 57 = 0 ∧ bits (0x8000000000010000 : W64) 61 60 = 0 ∧ bits (0x8000000000010000 : W64) 6 0 = 0
    ∧ bits (0x9000000000000000 : W64) 61 60 ≠ 0 ∧ bits (0x8000000000000001 : W64) 6 0 ≠ 0 := by decide +kernel

end Sys2Proof.Tests
end

/-! PROOF. The per-lane integer, logic, shift, count and field instructions (R178 to R187): what an iteration that only changes its
strand leaves, the operands that the fields of form LA name, and the value of each operation as the spec writes it. -/

namespace Sys2Proof.Proofs

open Sys2Proof Sys2Proof.Machine Sys2Proof.Claims

/-! ### An iteration that only changes its strand -/

/-- Such an iteration completes, and leaves the strand that its effect gives. -/
theorem gives_of_pure {i : Instr} {f : Nat → Strand → Strand} {s : State} {st : Strand} {k : Nat}
    (he : exec i s = issue i (pureBody f) s) (h : Ready i s st k) : Gives i s st k (f k st) := by
  obtain ⟨hst, howed, hgo⟩ := h
  rw [Gives, he, issue_pure hst howed hgo, withCur]
  congr 3
  unfold settled
  by_cases hk : k + 1 < seqCount i.px
  · simp [hk, Strand.stepRpt]
  · simp [hk, Strand.retire, nextPc]

/-- Writing the active lanes of a register (R126, R178), in the words of `Lanes`. -/
theorem putV_eq_lanes (st : Strand) (r : Nat) (act : Word) (f : Nat → Word) :
    st.putV r act f =
      if act = 0 then st
      else { st with
        v := st.v.set r (buildRow (fun l => if act.getLsbD l then f l else st.lane r l))
        emptyV := st.emptyV.filter (· != r) } := by
  by_cases hact : act = 0
  · simp [Strand.putV, hact]
  · simp [Strand.putV, Strand.setV, mergeRow, dropFrom, Strand.lane]

/-! ### The operands of one iteration (R142, R143, R145) -/

/-- The field names the v register `r`. -/
def NamesV (f : Fld) (r : BitVec 8) : Prop := f.cls = .v ∧ f.reg = r.toNat

theorem fieldsAt_d_reg {i : Instr} {d : BitVec 8} (hd : NamesV (opInfo i).d d) (k : Nat) :
    (fieldsAt i k).d.reg = dstOf i.px d k := by
  obtain ⟨hcls, hreg⟩ := hd
  simp [fieldsAt, strideFld, hcls, hreg, dstOf, strided]

theorem srcA_eq_opA {i : Instr} {a : BitVec 8} (ha : NamesV (opInfo i).a a) (k : Nat) (st : Strand) (l : Nat) :
    srcA i.px (fieldsAt i k) st l = opA i.px a k st l := by
  obtain ⟨hcls, hreg⟩ := ha
  cases hua : i.px.extD.ua <;> simp [srcA, opA, fieldsAt, strideFld, asW, strided, hua, hcls, hreg]

theorem srcB_eq_opB {i : Instr} {b : BitVec 8} (hform : (opInfo i).form = .la) (hb : NamesV (opInfo i).b b)
    (k : Nat) (st : Strand) (l : Nat) : srcB i.px (fieldsAt i k) st l = opB i.px b k st l := by
  obtain ⟨hcls, hreg⟩ := hb
  unfold srcB opB
  cases hlit : i.px.lit with
  | some x => rfl
  | none => cases hub : i.px.extD.ub <;> simp [fieldsAt, strideFld, asW, strided, hlit, hub, hcls, hreg, hform]

/-! ### Per-lane results

An instruction of form LA is known by its fields and by the arm of `exec` that gives its meaning; for each instruction both hold
by computation, so the lemmas below find them by themselves and ask only that the model's value is the one stated. -/

/-- An instruction whose effect is one write of vd in the active lanes has the per-lane result that the write gives. -/
theorem lanes_of_putV {i : Instr} {d : BitVec 8} {f val : Nat → Strand → Nat → Word} (hd : NamesV (opInfo i).d d)
    (he : ∀ s, exec i s = issue i (pureBody (fun k st => st.putV (fieldsAt i k).d.reg (st.active i.px) (f k st))) s)
    (hval : ∀ k st l, f k st l = val k st l) : Lanes i d val := by
  intro s st k h
  have hgives := gives_of_pure (he s) h
  rw [fieldsAt_d_reg hd, putV_eq_lanes] at hgives
  simpa only [hval] using hgives

theorem lanes1_of_exec {i : Instr} {d a : BitVec 8} {f g : Word → Word} (hfg : ∀ x, f x = g x)
    (he : ∀ s, exec i s = laneInstr1 i f s := by exact fun _ => rfl)
    (hd : NamesV (opInfo i).d d := by exact ⟨rfl, rfl⟩) (ha : NamesV (opInfo i).a a := by exact ⟨rfl, rfl⟩) :
    Lanes1 i d a g := by
  refine lanes_of_putV hd he fun k st l => ?_
  rw [srcA_eq_opA ha, hfg]

theorem lanes2_of_exec {i : Instr} {d a b : BitVec 8} {f g : Word → Word → Word} (hfg : ∀ x y, f x y = g x y)
    (he : ∀ s, exec i s = laneInstr2 i f s := by exact fun _ => rfl) (hform : (opInfo i).form = .la := by exact rfl)
    (hd : NamesV (opInfo i).d d := by exact ⟨rfl, rfl⟩) (ha : NamesV (opInfo i).a a := by exact ⟨rfl, rfl⟩)
    (hb : NamesV (opInfo i).b b := by exact ⟨rfl, rfl⟩) : Lanes2 i d a b g := by
  refine lanes_of_putV hd he fun k st l => ?_
  rw [srcA_eq_opA ha, srcB_eq_opB hform hb, hfg]

theorem lanes3_of_exec {i : Instr} {d a b : BitVec 8} {f g : Word → Word → Word → Word} (hfg : ∀ x y z, f x y z = g x y z)
    (he : ∀ s, exec i s = laneInstr3 i f s := by exact fun _ => rfl) (hform : (opInfo i).form = .la := by exact rfl)
    (hd : NamesV (opInfo i).d d := by exact ⟨rfl, rfl⟩) (ha : NamesV (opInfo i).a a := by exact ⟨rfl, rfl⟩)
    (hb : NamesV (opInfo i).b b := by exact ⟨rfl, rfl⟩) : Lanes3 i d a b g := by
  refine lanes_of_putV hd he fun k st l => ?_
  rw [srcA_eq_opA ha, srcB_eq_opB hform hb, fieldsAt_d_reg hd, hfg]

/-! ### Arithmetic values (R172, R180, R182, R183) -/

theorem sat32_eq_clamp32 (x : Int) : sat32 x = clamp32 x := by
  unfold sat32 clamp32
  by_cases hhi : 2147483647 < x
  · rw [if_pos hhi, min_eq_left (by omega), max_eq_right (by omega)]
    rfl
  · rw [if_neg hhi, min_eq_right (by omega)]
    by_cases hlo : x < -2147483648
    · rw [if_pos hlo, max_eq_left (by omega)]
      rfl
    · rw [if_neg hlo, max_eq_right (by omega)]

theorem arith_eq_modOrSat (sat : Bool) (x : Int) : arith sat x = modOrSat sat x := by
  rw [arith, modOrSat, sat32_eq_clamp32]

theorem mulhOp_eq (x y : Word) : mulhOp x y = (x.signExtend 64 * y.signExtend 64).extractLsb' 32 32 := by
  rw [mulhOp, BitVec.ofInt_mul]
  rfl

theorem mulhnOp_eq (x y : Word) : mulhnOp x y = (x.setWidth 64 * y.setWidth 64).extractLsb' 32 32 := by
  rw [mulhnOp, BitVec.ofNat_mul, BitVec.ofNat_toNat, BitVec.ofNat_toNat]

theorem absOp_eq (x : Word) : absOp x = BitVec.ofInt 32 x.toInt.natAbs := by
  unfold absOp
  by_cases hneg : x.slt 0
  · have hlt : x.toInt < 0 := by simpa [BitVec.slt] using hneg
    rw [if_pos hneg, Int.ofNat_natAbs_of_nonpos hlt.le, BitVec.ofInt_neg, BitVec.ofInt_toInt]
  · have hge : 0 ≤ x.toInt := by simpa [BitVec.slt] using hneg
    rw [if_neg hneg, Int.natAbs_of_nonneg hge, BitVec.ofInt_toInt]

/-- The lesser by a strict test of the second operand, and by a test of the first. -/
theorem minOp_eq {n : Nat} (x y : BitVec n) : minOp x y = if x.toInt ≤ y.toInt then x else y := by
  simp only [minOp, BitVec.slt, decide_eq_true_eq, ← not_le, ite_not]

theorem minnOp_eq {n : Nat} (x y : BitVec n) : minnOp x y = if x.toNat ≤ y.toNat then x else y := by
  simp only [minnOp, BitVec.ult, decide_eq_true_eq, ← not_le, ite_not]

/-- Two operands that are equal give their common value, whichever the test takes. -/
theorem maxOp_eq {n : Nat} (x y : BitVec n) : maxOp x y = if x.toInt ≤ y.toInt then y else x := by
  rcases lt_trichotomy x.toInt y.toInt with hlt | heq | hgt
  · simp [maxOp, BitVec.slt, hlt, hlt.le]
  · simp [BitVec.eq_of_toInt_eq heq, maxOp]
  · simp [maxOp, BitVec.slt, hgt.not_gt, hgt.not_ge]

theorem maxnOp_eq {n : Nat} (x y : BitVec n) : maxnOp x y = if x.toNat ≤ y.toNat then y else x := by
  rcases lt_trichotomy x.toNat y.toNat with hlt | heq | hgt
  · simp [maxnOp, BitVec.ult, hlt, hlt.le]
  · simp [BitVec.eq_of_toNat_eq heq, maxnOp]
  · simp [maxnOp, BitVec.ult, hgt.not_gt, hgt.not_ge]

/-! ### Shifts (R185) -/

theorem sraOp_eq (x n : Word) :
    sraOp x n = if n.toNat < 32 then x.sshiftRight n.toNat else if x.getLsbD 31 then 0xFFFFFFFF else 0 := by
  unfold sraOp
  by_cases hn : n.toNat < 32
  · rw [if_pos hn, min_eq_left hn.le]
  · rw [if_neg hn, min_eq_right (by omega)]
    refine BitVec.eq_of_getLsbD_eq fun j hj => ?_
    rw [BitVec.getLsbD_sshiftRight, BitVec.msb_eq_getLsbD_last]
    cases x.getLsbD 31
    · simp
    · rw [if_pos rfl, show (0xFFFFFFFF : Word) = BitVec.allOnes 32 from rfl, BitVec.getLsbD_allOnes]
      simp [hj]

theorem rotlOp_eq (x n : Word) :
    rotlOp x n = (x <<< (n.toNat % 32)) ||| (x >>> ((32 - n.toNat % 32) % 32)) := by
  rw [rotlOp, BitVec.rotateLeft_def, Nat.mod_mod]
  rcases Nat.eq_zero_or_pos (n.toNat % 32) with h0 | hpos
  · simp [h0, BitVec.ushiftRight_eq_zero]
  · rw [Nat.mod_eq_of_lt (a := 32 - n.toNat % 32) (by omega)]

/-! ### Bit counts and reversal (R186) -/

theorem foldl_count_eq (p : Nat → Bool) (l : List Nat) (n : Nat) :
    l.foldl (fun k j => if p j then k + 1 else k) n = n + (l.filter p).length := by
  induction l generalizing n with
  | nil => rfl
  | cons j l ih => cases hj : p j <;> simp [hj, ih, Nat.add_comm, Nat.add_left_comm]

theorem popCount_eq {n : Nat} (x : BitVec n) : popCount x = ((List.range n).filter (fun j => x.getLsbD j)).length := by
  rw [popCount, foldl_count_eq, Nat.zero_add]

/-- A run of `m` numbers that pass, ended by one that does not or by the end of the range. -/
theorem length_takeWhile_range {p : Nat → Bool} {n m : Nat} (hmn : m ≤ n) (hpass : ∀ j < m, p j = true)
    (hend : m < n → p m = false) : ((List.range n).takeWhile p).length = m := by
  obtain ⟨k, rfl⟩ := Nat.exists_eq_add_of_le hmn
  have hrun : ∀ j ∈ List.range m, p j = true := fun j hj => hpass j (List.mem_range.mp hj)
  rw [List.range_add, List.takeWhile_append_of_pos hrun]
  cases k with
  | zero => simp
  | succ k => simp [List.range_succ_eq_map, hend (by omega)]

theorem clz_eq_zerosAbove (x : Word) : 32 - bitLen x.toNat = zerosAbove x := by
  unfold bitLen zerosAbove
  rcases eq_or_ne x.toNat 0 with h0 | hne
  · rw [if_pos (by simpa using h0)]
    refine (length_takeWhile_range le_rfl (fun j _ => ?_) (fun h => absurd h (by omega))).symm
    simp [BitVec.getLsbD, h0]
  · rw [if_neg (by simpa using hne)]
    have htop : x.toNat.log2 < 32 := (Nat.log2_lt hne).mpr x.isLt
    refine (length_takeWhile_range (by omega) (fun j hj => ?_) (fun _ => ?_)).symm
    · have hbit : x.toNat.testBit (31 - j) = false :=
        Nat.testBit_lt_two_pow ((Nat.log2_lt hne).mp (by omega))
      simp [BitVec.getLsbD, hbit]
    · have hbit : x.toNat.testBit x.toNat.log2 = true := Nat.testBit_log2 hne
      rw [show 31 - (32 - (x.toNat.log2 + 1)) = x.toNat.log2 by omega, BitVec.getLsbD, hbit]
      rfl

theorem trailing_eq (x n : Nat) : trailing x n = ((List.range n).takeWhile (fun j => !x.testBit j)).length := by
  induction n generalizing x with
  | zero => rfl
  | succ n ih =>
    rw [trailing, List.range_succ_eq_map, List.takeWhile_cons, List.takeWhile_map]
    rcases Nat.mod_two_eq_zero_or_one x with hx | hx
    · simp [hx, ih, Nat.testBit_zero, Function.comp_def, Nat.testBit_succ]
    · simp [hx, Nat.testBit_zero]

/-- The number that `buildMask` sums over the first `n` lanes. -/
def maskSum (f : Nat → Bool) (n : Nat) : Nat := (List.range n).foldl (fun m j => if f j then m + 2 ^ j else m) 0

theorem maskSum_succ (f : Nat → Bool) (n : Nat) :
    maskSum f (n + 1) = if f n then maskSum f n + 2 ^ n else maskSum f n := by
  rw [maskSum, List.range_succ, List.foldl_append]
  rfl

theorem maskSum_lt (f : Nat → Bool) (n : Nat) : maskSum f n < 2 ^ n := by
  induction n with
  | zero => exact Nat.one_pos
  | succ n ih =>
    rw [maskSum_succ, Nat.pow_succ]
    split <;> omega

/-- Each lane adds a bit above those of the lanes before it. -/
theorem testBit_maskSum (f : Nat → Bool) (n i : Nat) : (maskSum f n).testBit i = (decide (i < n) && f i) := by
  induction n with
  | zero => simp [maskSum]
  | succ n ih =>
    have hor : maskSum f n + 2 ^ n = 2 ^ n ||| maskSum f n := by
      simpa [Nat.add_comm] using Nat.two_pow_add_eq_or_of_lt (maskSum_lt f n) 1
    rw [maskSum_succ, hor, apply_ite (Nat.testBit · i), Nat.testBit_or, Nat.testBit_two_pow, ih]
    rcases lt_trichotomy i n with hlt | rfl | hgt
    · simp [hlt, hlt.ne', hlt.le]
    · cases hi : f i <;> simp
    · simp [hgt.ne, hgt.not_gt, hgt.not_ge]

theorem getLsbD_buildMask (f : Nat → Bool) (i : Nat) : (buildMask f).getLsbD i = (decide (i < 32) && f i) := by
  rw [buildMask, ← maskSum, BitVec.getLsbD_ofNat, testBit_maskSum, ← Bool.and_assoc, Bool.and_self]

theorem brevOp_eq (x : Word) : brevOp x = x.reverse := by
  refine BitVec.eq_of_getLsbD_eq fun j hj => ?_
  rw [brevOp, getLsbD_buildMask, BitVec.getLsbD_reverse, BitVec.getMsbD_eq_getLsbD]

theorem popcOp_eq (x : Word) : popcOp x = BitVec.ofNat 32 ((List.range 32).filter (fun j => x.getLsbD j)).length := by
  rw [popcOp, popCount_eq]

theorem clzOp_eq (x : Word) : clzOp x = BitVec.ofNat 32 (zerosAbove x) := by
  rw [clzOp, clz_eq_zerosAbove]

theorem ctzOp_eq (x : Word) : ctzOp x = BitVec.ofNat 32 (zerosBelow x) := by
  rw [ctzOp, trailing_eq]
  rfl

/-! ### Bit fields (R187) -/

theorem fieldControl_eq (c : Word) : fieldControl c = (fieldPos c, fieldWidth c) := by
  simp [fieldControl, field, fieldPos, fieldWidth, BitVec.extractLsb'_toNat, Nat.shiftRight_eq_div_pow]

theorem fieldWidth_le (c : Word) : fieldWidth c ≤ 32 := Nat.min_le_right _ _

theorem bfeOp_eq (x c : Word) : bfeOp x c = ((x >>> fieldPos c).setWidth (fieldWidth c)).setWidth 32 := by
  apply BitVec.eq_of_toNat_eq
  simp [bfeOp, fieldControl_eq, Nat.shiftRight_eq_div_pow]

/-- A narrower word read as signed is the wider one taken modulo its range, balanced about zero. -/
theorem toInt_setWidth_of_le {w n : Nat} (hw : w ≤ n) (y : BitVec n) : (y.setWidth w).toInt = y.toInt.bmod (2 ^ w) := by
  rw [BitVec.toInt_setWidth, BitVec.toInt_eq_toNat_bmod, Int.bmod_bmod_of_dvd (Nat.pow_dvd_pow 2 hw)]

/-- Taking the sign from the top bit of a field of `w` bits. -/
theorem bmod_two_pow_eq {w : Nat} (hw : 0 < w) (x : Int) :
    x.bmod (2 ^ w) = if x % 2 ^ w ≥ 2 ^ (w - 1) then x % 2 ^ w - 2 ^ w else x % 2 ^ w := by
  obtain ⟨v, rfl⟩ := Nat.exists_eq_add_of_lt hw
  have hhalf : (((2 ^ (v + 1) : Nat) : Int) + 1) / 2 = 2 ^ v := by
    push_cast [Nat.pow_succ]
    omega
  rw [Int.bmod_eq_emod, Nat.zero_add, hhalf]
  push_cast
  split <;> simp_all

theorem bfesOp_eq (x c : Word) : bfesOp x c = ((x.sshiftRight (fieldPos c)).setWidth (fieldWidth c)).signExtend 32 := by
  have hvalue : ((x.sshiftRight (fieldPos c)).setWidth (fieldWidth c)).toInt =
      (x.toInt / 2 ^ fieldPos c).bmod (2 ^ fieldWidth c) := by
    rw [toInt_setWidth_of_le (fieldWidth_le c), BitVec.toInt_sshiftRight, Int.shiftRight_eq_div_pow]
    push_cast
    rfl
  rw [BitVec.signExtend, hvalue, bfesOp, fieldControl_eq]
  rcases Nat.eq_zero_or_pos (fieldWidth c) with h0 | hpos
  · simp [h0]
  · simp [hpos.ne', bmod_two_pow_eq hpos]

theorem bfiOp_eq (x c z : Word) :
    bfiOp x c z =
      (z &&& ~~~((BitVec.allOnes (fieldWidth c)).setWidth 32 <<< fieldPos c)) |||
        ((x <<< fieldPos c) &&& ((BitVec.allOnes (fieldWidth c)).setWidth 32 <<< fieldPos c)) := by
  have hmask : BitVec.ofNat 32 ((2 ^ fieldWidth c - 1) * 2 ^ fieldPos c) =
      (BitVec.allOnes (fieldWidth c)).setWidth 32 <<< fieldPos c := by
    apply BitVec.eq_of_toNat_eq
    simp [Nat.shiftLeft_eq]
  have hfield : BitVec.ofNat 32 (x.toNat * 2 ^ fieldPos c) = x <<< fieldPos c := by
    apply BitVec.eq_of_toNat_eq
    simp [Nat.shiftLeft_eq]
  rw [← hmask, ← hfield, bfiOp, fieldControl_eq]

/-! ### The obligations -/

/-- Settles O1: each instruction is one write of vd, with the value that its lemma above gives. -/
theorem laneIntegerArithmetic : Obligations.LaneIntegerArithmetic := by
  intro px d a b
  exact ⟨lanes2_of_exec fun _ _ => arith_eq_modOrSat _ _, lanes2_of_exec fun _ _ => arith_eq_modOrSat _ _,
    lanes2_of_exec fun _ _ => arith_eq_modOrSat _ _, lanes3_of_exec fun _ _ _ => arith_eq_modOrSat _ _,
    lanes2_of_exec mulhOp_eq, lanes2_of_exec mulhnOp_eq, lanes1_of_exec absOp_eq, lanes2_of_exec minOp_eq,
    lanes2_of_exec maxOp_eq, lanes2_of_exec minnOp_eq, lanes2_of_exec maxnOp_eq⟩

theorem laneLogicAndShifts : LaneLogicAndShifts := by
  intro px d a b
  exact ⟨lanes2_of_exec fun _ _ => rfl, lanes2_of_exec fun _ _ => rfl, lanes2_of_exec fun _ _ => rfl,
    lanes2_of_exec fun _ _ => rfl, lanes1_of_exec fun _ => rfl, lanes2_of_exec fun _ _ => rfl, lanes2_of_exec fun _ _ => rfl,
    lanes2_of_exec sraOp_eq, lanes2_of_exec rotlOp_eq⟩

theorem laneBitsAndFields : LaneBitsAndFields := by
  intro px d a b
  exact ⟨lanes1_of_exec popcOp_eq, lanes1_of_exec clzOp_eq, lanes1_of_exec ctzOp_eq, lanes1_of_exec brevOp_eq,
    lanes2_of_exec bfeOp_eq, lanes2_of_exec bfesOp_eq, lanes3_of_exec bfiOp_eq⟩

/-- Settles O2: the logic and shifts, and the counts and fields. -/
theorem laneLogicAndBits : Obligations.LaneLogicAndBits := ⟨laneLogicAndShifts, laneBitsAndFields⟩

end Sys2Proof.Proofs

/-! PROOF. The cross-lane instructions (R211 to R216): the source lanes of the shuffles, the list of values that votes, reductions,
scans and counts combine, and the value that each combination of them gives. -/

namespace Sys2Proof.Proofs

open Sys2Proof Sys2Proof.Machine Sys2Proof.Claims

/-! ### The lanes that take part (R126, R209) -/

theorem mem_taking {i : Instr} {st : Strand} {l : Nat} : l ∈ taking i st ↔ (st.active i.px).getLsbD l = true := by
  simpa [taking] using BitVec.lt_of_getLsbD

/-- The values that a reduction combines are the operands of the lanes that take part, in ascending lane order. -/
theorem valuesOf_eq {i : Instr} {a : BitVec 8} (ha : NamesV (opInfo i).a a) (k : Nat) (st : Strand) :
    valuesOf i st (fieldsAt i k) = (taking i st).map (opA i.px a k st) :=
  List.map_congr_left fun l _ => srcA_eq_opA ha k st l

/-! ### The shape of an instruction's effect

Each lemma takes the arm of `exec` that gives the instruction its meaning, and the operand fields; for each instruction they hold by
computation. -/

/-- A source lane in range is its own remainder, so the model's test of the lane is the one of R211. -/
theorem shuffles_of_exec {i : Instr} {d a : BitVec 8} {srcM : Strand → Fields → Nat → Int} {src : Nat → Strand → Nat → Int}
    (he : ∀ s, exec i s = issue i (shuffleBody i srcM) s) (hsrc : ∀ k st l, srcM st (fieldsAt i k) l = src k st l)
    (hd : NamesV (opInfo i).d d := by exact ⟨rfl, rfl⟩) (ha : NamesV (opInfo i).a a := by exact ⟨rfl, rfl⟩) :
    Shuffles i d a src := by
  refine lanes_of_putV hd he fun k st l => ?_
  rw [srcA_eq_opA ha, hsrc, apply_ite (opA i.px a k st)]
  refine if_congr (and_congr_right fun _ => and_congr_right fun _ => ?_) rfl rfl
  rw [Nat.mod_eq_of_lt (by omega)]

theorem reduces_of_exec {i : Instr} {d a : BitVec 8} {f : List Word → Word} {is : Nat → Strand → Word → Prop}
    (he : ∀ s, exec i s = issue i (reduceBody i f) s) (his : ∀ k st, is k st (f ((taking i st).map (opA i.px a k st))))
    (hd : NamesV (opInfo i).d d := by exact ⟨rfl, rfl⟩) (ha : NamesV (opInfo i).a a := by exact ⟨rfl, rfl⟩) :
    Reduces i d is := by
  intro s st k h
  have hgives := gives_of_pure (he s) h
  simp only [fieldsAt_d_reg hd, valuesOf_eq ha] at hgives
  exact ⟨_, hgives, his k st⟩

/-! ### Votes (R212) -/

theorem ofBool_any_ne_zero (l : List Nat) (g : Nat → Word) [Decidable (∃ j ∈ l, g j ≠ 0)] :
    Word.ofBool ((l.map g).any (· != 0)) = if ∃ j ∈ l, g j ≠ 0 then 1 else 0 := by
  simp [Word.ofBool]

theorem ofBool_all_ne_zero (l : List Nat) (g : Nat → Word) [Decidable (∀ j ∈ l, g j ≠ 0)] :
    Word.ofBool ((l.map g).all (· != 0)) = if ∀ j ∈ l, g j ≠ 0 then 1 else 0 := by
  simp [Word.ofBool]

theorem ballot_gives (px : Pfx) (m : BitVec 3) (a : BitVec 8) (s : State) (st : Strand) (k : Nat)
    (h : Ready (.ballot px m a) s st k) :
    Gives (.ballot px m a) s st k
      (if st.active px = 0 then st
       else st.setM m.toNat (buildMask (fun l => decide (l ∈ taking (.ballot px m a) st ∧ opA px a k st l ≠ 0)))) := by
  have hbit : ∀ l, ((st.active px).getLsbD l && srcA px (fieldsAt (.ballot px m a) k) st l != 0) =
      decide (l ∈ taking (.ballot px m a) st ∧ opA px a k st l ≠ 0) := fun l => by
    have hsrc : srcA px _ st l = opA px a k st l := srcA_eq_opA (i := .ballot px m a) ⟨rfl, rfl⟩ k st l
    rw [hsrc, Bool.eq_iff_iff, decide_eq_true_iff, mem_taking, Bool.and_eq_true, bne_iff_ne]
    rfl
  simpa only [hbit, beq_iff_eq] using gives_of_pure (i := .ballot px m a) rfl h

/-! ### Sums and counts (R213, R216) -/

theorem foldl_add_eq_ofNat_sum (l : List Nat) (g : Nat → Word) :
    (l.map g).foldl (· + ·) 0 = BitVec.ofNat 32 (l.map (fun j => (g j).toNat)).sum := by
  rw [← List.sum_eq_foldl]
  induction l with
  | nil => rfl
  | cons j l ih => simp [ih, BitVec.ofNat_add]

theorem sumUpTo_eq {i : Instr} {a : BitVec 8} (ha : NamesV (opInfo i).a a) (k : Nat) (st : Strand) (l : Nat) :
    sumUpTo i st (fieldsAt i k) l =
      BitVec.ofNat 32 (((taking i st).filter (· ≤ l)).map (fun j => (opA i.px a k st j).toNat)).sum := by
  rw [sumUpTo, funext (srcA_eq_opA ha k st), foldl_add_eq_ofNat_sum]
  rfl

/-- A mask has no bit past lane 31, so its bits below a lane are those among the lanes below it. -/
theorem countBelow_eq (m : Word) (l : Nat) :
    countBelow m l = BitVec.ofNat 32 ((List.range l).filter (fun j => m.getLsbD j)).length := by
  have hlanes : (lanesOf m).filter (fun j => decide (j < l)) = (List.range l).filter (fun j => m.getLsbD j) := by
    refine ((List.pairwise_lt_range.filter _).filter _).eq_of_mem_iff (List.pairwise_lt_range.filter _) fun j => ?_
    have hlt : m.getLsbD j = true → j < 32 := BitVec.lt_of_getLsbD
    simp only [List.mem_filter, List.mem_range, decide_eq_true_eq]
    tauto
  rw [countBelow, hlanes]

/-! ### The exact sum (R214) -/

theorem roundMode_eq_modeOf (px : Pfx) (st : Strand) : roundMode px st = modeOf px st := by
  simp only [roundMode, modeOf, beq_iff_eq]
  generalize (if px.extD.rmo = 0 then _ else _ : BitVec 2) = code
  revert code
  decide

theorem redfadd_gives (px : Pfx) (d a : BitVec 8) (s : State) (st : Strand) (k : Nat) (h : Ready (.redfadd px d a) s st k) :
    let r := rndProducts fp32 (modeOf px st) [] ((taking (.redfadd px d a) st).map (fun l => fp32.decode (opA px a k st l).toNat))
    Gives (.redfadd px d a) s st k
      (if st.active px = 0 then st
       else flagged (st.putV (dstOf px d k) (st.active px) (fun _ => BitVec.ofNat 32 r.bits)) r.flags) := by
  have hgives := gives_of_pure (i := .redfadd px d a) rfl h
  simp only [fieldsAt_d_reg (i := .redfadd px d a) (d := d) ⟨rfl, rfl⟩, valuesOf_eq (i := .redfadd px d a) (a := a) ⟨rfl, rfl⟩,
    roundMode_eq_modeOf, sumFloats, List.map_map, beq_iff_eq] at hgives
  exact hgives

/-! ### The least of the lanes' values (R213, R215)

The minima and maxima, with and without an index, keep of two values the one with the smaller key: the signed value, or the unsigned
one before the index; the maxima order their values downwards. -/

section Least

variable {α β : Type} [LinearOrder β] {key : α → β} {op : α → α → α}

/-- Keeping the value of smaller key, from the first to the last, is Mathlib's `argmin`. -/
theorem argmin_cons_eq_foldl (hop : ∀ x y, op x y = if key y < key x then y else x) (e : α) (vs : List α) :
    List.argmin key (e :: vs) = some (vs.foldl op e) := by
  refine List.foldl_hom some fun x y => ?_
  rw [hop, apply_ite some]
  rfl

theorem key_foldl_le (hop : ∀ x y, op x y = if key y < key x then y else x) (e : α) (vs : List α) {x : α} (hx : x ∈ vs) :
    key (vs.foldl op e) ≤ key x :=
  List.le_of_mem_argmin (List.mem_cons_of_mem e hx) (argmin_cons_eq_foldl hop e vs)

theorem foldl_eq_or_mem (hop : ∀ x y, op x y = if key y < key x then y else x) (e : α) (vs : List α) :
    vs.foldl op e = e ∨ vs.foldl op e ∈ vs :=
  List.mem_cons.mp (List.argmin_mem (argmin_cons_eq_foldl hop e vs))

end Least

open OrderDual (toDual)

/-- A reduction that keeps the value of smallest key gives one that no lane's is below, and that is the identity or a lane's. -/
theorem reduces_least {i : Instr} {d a : BitVec 8} {β : Type} [LinearOrder β] {key : Word → β} {op : Word → Word → Word} {e : Word}
    (hop : ∀ x y, op x y = if key y < key x then y else x)
    (he : ∀ s, exec i s = issue i (reduceBody i (fun vs => vs.foldl op e)) s := by exact fun _ => rfl)
    (hd : NamesV (opInfo i).d d := by exact ⟨rfl, rfl⟩) (ha : NamesV (opInfo i).a a := by exact ⟨rfl, rfl⟩) :
    Reduces i d (fun k st r =>
      (∀ l ∈ taking i st, key r ≤ key (opA i.px a k st l)) ∧ (r = e ∨ ∃ l ∈ taking i st, r = opA i.px a k st l)) := by
  refine reduces_of_exec he (fun k st => ⟨fun l hl => key_foldl_le hop e _ (List.mem_map_of_mem hl), ?_⟩) hd ha
  refine (foldl_eq_or_mem hop e _).imp_right fun hmem => ?_
  obtain ⟨l, hl, hval⟩ := List.mem_map.mp hmem
  exact ⟨l, hl, hval.symm⟩

theorem minOp_eq_least (x y : Word) : minOp x y = if y.toInt < x.toInt then y else x := by
  simp only [minOp, BitVec.slt, decide_eq_true_eq]

theorem maxOp_eq_least (x y : Word) : maxOp x y = if toDual y.toInt < toDual x.toInt then y else x := by
  simp only [maxOp, BitVec.slt, decide_eq_true_eq, OrderDual.toDual_lt_toDual]

/-- The key of a value with its index (R215): the value's own, then the index. -/
def idxKey {β : Type} (key : Word → β) (p : Word × Word) : β ×ₗ Nat := toLex (key p.1, p.2.toNat)

/-- One lane against the best so far (R215). -/
def betterIdx (better : Word → Word → Bool) (best x : Word × Word) : Word × Word :=
  if better x.1 best.1 || (x.1 == best.1 && x.2.ult best.2) then x else best

theorem bestIdx_eq_foldl (better : Word → Word → Bool) (xs : List (Word × Word)) (best : Word × Word) :
    bestIdx better xs best = xs.foldl (betterIdx better) best := by
  induction xs generalizing best with
  | nil => rfl
  | cons x xs ih => exact ih _

section Idx

variable {β : Type} [LinearOrder β] {key : Word → β} {better : Word → Word → Bool}

theorem betterIdx_eq_least (hinj : Function.Injective key) (hbetter : ∀ x y, better x y = true ↔ key x < key y) (p q : Word × Word) :
    betterIdx better p q = if idxKey key q < idxKey key p then q else p := by
  refine if_congr ?_ rfl rfl
  simp only [idxKey, Prod.Lex.toLex_lt_toLex, hinj.eq_iff, Bool.or_eq_true, Bool.and_eq_true, hbetter, beq_iff_eq, BitVec.ult,
    decide_eq_true_eq]

theorem reducesIdx_of_exec {i : Instr} {d a b : BitVec 8} {identity : Word} (hinj : Function.Injective key)
    (hbetter : ∀ x y, better x y = true ↔ key x < key y)
    (he : ∀ s, exec i s = issue i (redIdxBody i better identity) s := by exact fun _ => rfl)
    (hform : (opInfo i).form = .la := by exact rfl) (hd : NamesV (opInfo i).d d := by exact ⟨rfl, rfl⟩)
    (ha : NamesV (opInfo i).a a := by exact ⟨rfl, rfl⟩) (hb : NamesV (opInfo i).b b := by exact ⟨rfl, rfl⟩) :
    ReducesIdx i d a b (fun x y => key x < key y) identity := by
  intro s st k h
  have hgives := gives_of_pure (he s) h
  simp only [fieldsAt_d_reg hd, srcA_eq_opA ha, srcB_eq_opB hform hb, bestIdx_eq_foldl] at hgives
  have hop := betterIdx_eq_least hinj hbetter
  have hleast := fun l (hl : l ∈ taking i st) => key_foldl_le hop (identity, 0xFFFFFFFF) _
    (List.mem_map_of_mem (f := fun l => (opA i.px a k st l, opB i.px b k st l)) hl)
  simp only [idxKey, Prod.Lex.toLex_le_toLex, hinj.eq_iff] at hleast
  refine ⟨_, _, hgives, fun l hl hne => ?_, fun l hl heq => ?_, ?_⟩
  · exact (hleast l hl).resolve_right fun ⟨heq, _⟩ => hne heq.symm
  · exact ((hleast l hl).resolve_left fun hlt => hlt.ne (congrArg key heq.symm)).2
  · refine (foldl_eq_or_mem hop (identity, 0xFFFFFFFF) _).imp Prod.ext_iff.mp fun hmem => ?_
    obtain ⟨l, hl, hval⟩ := List.mem_map.mp hmem
    exact ⟨l, hl, Prod.ext_iff.mp hval.symm⟩

end Idx

/-! ### The obligation -/

theorem shuffleResults : ShuffleResults := by
  intro px d a b n
  have hb : ∀ k st l, ((srcB px (fieldsAt (.shfl px d a b) k) st l).toNat : Int) = (opB px b k st l).toNat := fun k st l =>
    congrArg (fun x : Word => (x.toNat : Int)) (srcB_eq_opB (i := .shfl px d a b) rfl ⟨rfl, rfl⟩ k st l)
  exact ⟨shuffles_of_exec (fun _ => rfl) hb, shuffles_of_exec (fun _ => rfl) fun _ _ _ => rfl,
    shuffles_of_exec (fun _ => rfl) fun _ _ _ => rfl, shuffles_of_exec (fun _ => rfl) fun _ _ _ => rfl,
    shuffles_of_exec (fun _ => rfl) fun _ _ _ => rfl⟩

theorem votesReductionsScans : VotesReductionsScans := by
  intro px d a b m
  refine ⟨?vany, ?vall, ?redadd, ?redmin, ?redmax, ?redminIdx, ?redmaxIdx, redfadd_gives px d a, ?scanadd, ?mcount,
    ballot_gives px m a⟩
  case vany => exact reduces_of_exec (fun _ => rfl) fun _ _ => ofBool_any_ne_zero _ _
  case vall => exact reduces_of_exec (fun _ => rfl) fun _ _ => ofBool_all_ne_zero _ _
  case redadd => exact reduces_of_exec (fun _ => rfl) fun _ _ => foldl_add_eq_ofNat_sum _ _
  case redmin => exact reduces_least minOp_eq_least
  case redmax => exact reduces_least maxOp_eq_least
  case redminIdx => exact reducesIdx_of_exec (key := BitVec.toNat) (fun _ _ => BitVec.eq_of_toNat_eq) fun _ _ => decide_eq_true_iff
  case redmaxIdx =>
    exact reducesIdx_of_exec (key := fun x => toDual x.toNat) (fun _ _ => BitVec.eq_of_toNat_eq) fun _ _ => decide_eq_true_iff
  case scanadd => exact lanes_of_putV ⟨rfl, rfl⟩ (fun _ => rfl) (sumUpTo_eq ⟨rfl, rfl⟩)
  case mcount => exact lanes_of_putV ⟨rfl, rfl⟩ (fun _ => rfl) fun _ st _ => countBelow_eq (st.mask m.toNat) _

/-- Settles O6: the shuffles, and what votes, reductions, scans and counts make of the lanes that take part. -/
theorem crossLaneResults : Obligations.CrossLaneResults := ⟨shuffleResults, votesReductionsScans⟩

end Sys2Proof.Proofs

/-! PROOF. The uniform instructions (R239 to R253): what an iteration that completes leaves, whether its effect is a change of the
strand, a jump or a deferred result; the masks and branches; and the values of the scalar instructions. -/

namespace Sys2Proof.Proofs

open Sys2Proof Sys2Proof.Machine Sys2Proof.Claims

/-! ### What follows an iteration's effect -/

theorem settled_eq (i : Instr) (k : Nat) (st st' : Strand) :
    settled i k st st' = if k + 1 < seqCount i.px then st'.stepRpt k else st'.retire (nextPc i st) := by
  unfold settled
  split <;> rfl

/-- A complete iteration settles its strand, whatever its effect has made of it. -/
theorem finish_done (i : Instr) (idx k : Nat) (before : Strand) (s : State) :
    finish i idx k before s .done = s.modStrand idx (settled i k before) := by
  rw [funext (settled_eq i k before), finish]
  split <;> rfl

theorem modCur_const_eq_withCur {s : State} {st : Strand} (hst : s.strands[s.cur]? = some st) (st' : Strand) :
    s.modCur (fun _ => st') = withCur s st' :=
  State.modStrand_some hst _

theorem modStrand_withCur {s : State} {st : Strand} (hst : s.strands[s.cur]? = some st) (st' : Strand) (f : Strand → Strand) :
    (withCur s st').modStrand s.cur f = withCur s (f st') := by
  rw [← modCur_const_eq_withCur hst, ← modCur_const_eq_withCur hst, State.modCur, State.modStrand_modStrand]
  rfl

/-- A control instruction leaves what its effect makes of the strand, and goes on as it says. -/
theorem exec_of_control {i : Instr} {f : Strand → Strand × After} {s : State} {st : Strand} {k : Nat}
    (he : exec i s = control i f s) (h : Ready i s st k) :
    exec i s = .next (finish i s.cur k st (withCur s (f st).1) (f st).2) := by
  obtain ⟨hst, howed, hgo⟩ := h
  rw [he, Sys2Proof.Machine.control, issue_go hst howed hgo]
  · simp only [hst, modCur_const_eq_withCur hst]
  · simp only [hst, State.modCur_stalled]

/-- An iteration that starts a deferred result completes, the destinations empty and the result on its way (R123). -/
theorem exec_of_defer {i : Instr} {body : Body} {s : State} {st : Strand} {k : Nat} {r : Result}
    (he : exec i s = issue i body s) (h : Ready i s st k) (hbody : body k s = (s.defer st r, .done)) :
    exec i s = .next
      { withCur s (settled i k st (st.clearBits r.vregs r.wregs)) with
        results := s.results ++ [{ r with id := s.nextId, who := st.who }]
        nextId := s.nextId + 1 } := by
  obtain ⟨hst, howed, hgo⟩ := h
  have hcur : s.cur < s.strands.length := (List.getElem?_eq_some_iff.mp hst).1
  rw [he, issue_go hst howed hgo]
  · simp only [hbody, finish_done, State.defer, State.modCur, State.modStrand_some hst]
    rw [State.modStrand_some (st := st.clearBits r.vregs r.wregs) (by simp [hcur])]
    simp [withCur]
  · simp [hbody, State.defer]

theorem uni_of_exec {i : Instr} {f g : Strand → Strand} (he : ∀ s, exec i s = uniform i f s) (hfg : ∀ st, f st = g st) :
    Uni i g :=
  fun s st _ h => hfg st ▸ gives_of_pure (he s) h

/-! ### Conditions (R140) -/

theorem condHolds_iff {n : Nat} (c : BitVec 4) (a b : BitVec n) : condHolds c a b = true ↔ condN c a b := by
  unfold condHolds condN
  generalize c.toNat = code
  match code with
  | 0 => exact beq_iff_eq
  | 1 => exact bne_iff_ne
  | 2 => exact decide_eq_true_iff
  | 3 => exact decide_eq_true_iff
  | 4 => exact decide_eq_true_iff
  | 5 => exact decide_eq_true_iff
  | 6 => exact decide_eq_true_iff
  | 7 => exact decide_eq_true_iff
  | 8 => exact decide_eq_true_iff
  | 9 => exact decide_eq_true_iff
  | _ + 10 => exact iff_of_false Bool.false_ne_true id

/-! ### Branches (R248) -/

theorem branchTo_eq {n : Nat} (st : Strand) (disp : BitVec n) : branchTo st disp = st.pc + 4 * disp.signExtend 64 := by
  rw [branchTo, BitVec.ofInt_mul]
  rfl

theorem branches_of_exec {i : Instr} {n : Nat} {disp : BitVec n} {taken : Strand → Bool} {P : Strand → Prop}
    (htaken : ∀ st, taken st = true ↔ P st) (he : ∀ s, exec i s = branch i disp taken s := by exact fun _ => rfl) :
    Branches i disp P := by
  intro s st k h
  have hexec := exec_of_control (he s) h
  refine ⟨fun hP => ?_, fun hP => ?_⟩
  · rw [hexec, if_pos ((htaken st).mpr hP), finish, modStrand_withCur h.1, branchTo_eq]
    rfl
  · rw [Gives, hexec, if_neg (mt (htaken st).mp hP), finish_done, modStrand_withCur h.1]

/-- Settles O14: each branch tests what R248 says, and a test is all that it does. -/
theorem branchesDecide : Obligations.BranchesDecide := by
  intro a c m d e
  refine ⟨?br, ?brw, ?brany, ?brall, ?brnone⟩
  case br => exact branches_of_exec fun _ => iff_of_true rfl trivial
  case brw => exact branches_of_exec fun st => condHolds_iff c (st.wreg a.toNat) 0
  case brany => exact branches_of_exec fun _ => bne_iff_ne
  case brall => exact branches_of_exec fun _ => beq_iff_eq
  case brnone => exact branches_of_exec fun _ => beq_iff_eq

/-! ### Masks (R253) -/

/-- Mask 0 is the one that the live mask bounds (R126). -/
theorem setM_eq (st : Strand) (d : BitVec 3) (x : Word) :
    st.setM d.toNat x = { st with m := tabSet 8 st.m d.toNat (if d = 0 then x &&& st.live else x) 0 } := by
  simp [Strand.setM, ← BitVec.toNat_inj]

theorem maskGets_of_exec {i : Instr} {d : BitVec 3} {f : Strand → Word}
    (he : ∀ s, exec i s = maskInstr i d f s := by exact fun _ => rfl) : MaskGets i d f :=
  uni_of_exec he fun st => setM_eq st d (f st)

/-- A sequence whose instruction is not per-lane takes no predicate (R141). -/
theorem wf_eq_false_of_pred {i : Instr} (hform : (opInfo i).form.perLane = false) (hpred : i.px.extD.pred ≠ 0) : i.wf = false := by
  cases hext : i.px.ext with
  | none => simp [Pfx.extD, hext] at hpred
  | some e =>
    have he : e.pred ≠ 0#3 := by simpa [Pfx.extD, hext] using hpred
    have hbad : extOk (opInfo i) i.px.lit.isSome e = false := by simp [extOk, hform, he]
    simp [Instr.wf, optAll, hext, hbad]

/-- Settles O16: each mask instruction is one write, of md or of wd, and of form UA. -/
theorem maskInstructions : Obligations.MaskInstructions := by
  intro px d a b w
  refine ⟨maskGets_of_exec, maskGets_of_exec, maskGets_of_exec, maskGets_of_exec, maskGets_of_exec, maskGets_of_exec,
    maskGets_of_exec, ?mtow, ?mpopc, ?mffs, ?unpredicated⟩
  case mtow => exact uni_of_exec (fun _ => rfl) fun _ => rfl
  case mpopc => exact uni_of_exec (fun _ => rfl) fun st => congrArg (wWritten st w.toNat) (popcOp_eq _)
  case mffs => exact uni_of_exec (fun _ => rfl) fun st => congrArg (wWritten st w.toNat) (ctzOp_eq _)
  case unpredicated =>
    intro hpred i hi
    have hua : (opInfo i).form = .ua ∧ i.px = px := by fin_cases hi <;> exact ⟨rfl, rfl⟩
    obtain ⟨hform, rfl⟩ := hua
    exact wf_eq_false_of_pred (by rw [hform]; rfl) hpred

/-! ### Scalar operands (R239) -/

theorem srcW_eq_uB (px : Pfx) (b : BitVec 6) (st : Strand) : srcW px st b = uB px b st := by
  unfold srcW uB
  cases px.lit <;> rfl

theorem srcW2_eq_uB2 (px : Pfx) (b : BitVec 6) (st : Strand) : srcW2 px st b = uB2 px b st := by
  unfold srcW2 uB2
  cases px.lit <;> rfl

/-! ### Scalar integer values (R241, R242) -/

theorem clamp_eq_ite {m : Int} (hm : 0 < m) (x : Int) :
    max (-m) (min (m - 1) x) = if m ≤ x then m - 1 else if x < -m then -m else x := by
  split_ifs <;> omega

theorem sat32_eq_clampN (x : Int) : sat32 x = clampN 32 x := by
  rw [sat32, clampN, clamp_eq_ite (by norm_num)]

theorem sat64_eq_clampN (x : Int) : sat64 x = clampN 64 x := by
  rw [sat64, clampN, clamp_eq_ite (by norm_num)]

theorem ofInt_toInt_sub {n : Nat} (p q : BitVec n) : BitVec.ofInt n (p.toInt - q.toInt) = p - q := by
  rw [Int.sub_eq_add_neg, BitVec.ofInt_add, BitVec.ofInt_neg, BitVec.ofInt_toInt, BitVec.ofInt_toInt, BitVec.sub_eq_add_neg]

theorem addOp_eq (sat : Bool) (p q : Word) : addOp sat p q = if sat then clampN 32 (p.toInt + q.toInt) else p + q := by
  rw [addOp, arith, sat32_eq_clampN, BitVec.ofInt_add, BitVec.ofInt_toInt, BitVec.ofInt_toInt]

theorem subOp_eq (sat : Bool) (p q : Word) : subOp sat p q = if sat then clampN 32 (p.toInt - q.toInt) else p - q := by
  rw [subOp, arith, sat32_eq_clampN, ofInt_toInt_sub]

theorem arith64_add_eq (sat : Bool) (p q : W64) :
    arith64 sat (p.toInt + q.toInt) = if sat then clampN 64 (p.toInt + q.toInt) else p + q := by
  rw [arith64, sat64_eq_clampN, BitVec.ofInt_add, BitVec.ofInt_toInt, BitVec.ofInt_toInt]

theorem arith64_sub_eq (sat : Bool) (p q : W64) :
    arith64 sat (p.toInt - q.toInt) = if sat then clampN 64 (p.toInt - q.toInt) else p - q := by
  rw [arith64, sat64_eq_clampN, ofInt_toInt_sub]

theorem minByN_eq {w : Nat} (n : BitVec 1) (p q : BitVec w) :
    (if n == 1 then minnOp else minOp) p q =
      if n = 1 then (if p.toNat ≤ q.toNat then p else q) else if p.toInt ≤ q.toInt then p else q := by
  simp only [beq_iff_eq, ite_apply, minnOp_eq, minOp_eq]

theorem maxByN_eq {w : Nat} (n : BitVec 1) (p q : BitVec w) :
    (if n == 1 then maxnOp else maxOp) p q =
      if n = 1 then (if p.toNat ≤ q.toNat then q else p) else if p.toInt ≤ q.toInt then q else p := by
  simp only [beq_iff_eq, ite_apply, maxnOp_eq, maxOp_eq]

theorem mulhByN_eq (n : BitVec 1) (p q : Word) :
    (if n == 1 then mulhnOp else mulhOp) p q =
      if n = 1 then (p.setWidth 64 * q.setWidth 64).extractLsb' 32 32
      else (p.signExtend 64 * q.signExtend 64).extractLsb' 32 32 := by
  simp only [beq_iff_eq, ite_apply, mulhnOp_eq, mulhOp_eq]

theorem bfeByS_eq (g : BitVec 1) (p c : Word) :
    (if g == 1 then bfesOp else bfeOp) p c =
      if g = 1 then ((p.sshiftRight (fieldPos c)).setWidth (fieldWidth c)).signExtend 32
      else ((p >>> fieldPos c).setWidth (fieldWidth c)).setWidth 32 := by
  simp only [beq_iff_eq, ite_apply, bfesOp_eq, bfeOp_eq]

/-- What `scmp` tests, in both widths. -/
theorem scmpTest_iff (px : Pfx) (a b : BitVec 6) (x : BitVec 1) (c : BitVec 4) (st : Strand) :
    (if x == 1 then condHolds c (st.wpair a.toNat) (srcW2 px st b) else condHolds c (st.wreg a.toNat) (srcW px st b)) = true ↔
      if x = 1 then condN c (st.wpair a.toNat) (uB2 px b st) else condN c (st.wreg a.toNat) (uB px b st) := by
  rw [srcW_eq_uB, srcW2_eq_uB2]
  by_cases hx : x = 1 <;> simp [hx, condHolds_iff]

theorem sraOp_eq_ite_msb {n : Nat} (x : BitVec n) (m : Word) :
    sraOp x m = if m.toNat < n then x.sshiftRight m.toNat else if x.msb then BitVec.allOnes n else 0 := by
  unfold sraOp
  by_cases hm : m.toNat < n
  · rw [if_pos hm, min_eq_left hm.le]
  · rw [if_neg hm, min_eq_right (by omega)]
    refine BitVec.eq_of_getLsbD_eq fun j hj => ?_
    rw [BitVec.getLsbD_sshiftRight]
    cases hmsb : x.msb <;> simp [hj]

theorem getLsbD_low14 (j : Nat) : (0x3FFF : Word).getLsbD j = decide (j < 14) := by
  rw [show (0x3FFF : Word) = BitVec.ofNat 32 (2 ^ 14 - 1) from rfl, BitVec.getLsbD_ofNat, Nat.testBit_two_pow_sub_one,
    ← Bool.decide_and, decide_eq_decide]
  omega

theorem append_low14_eq (imm : BitVec 18) (x : Word) :
    imm ++ x.extractLsb' 0 14 = (imm.setWidth 32 <<< 14) ||| (x &&& 0x3FFF) := by
  refine BitVec.eq_of_getLsbD_eq fun j hj => ?_
  rw [BitVec.getLsbD_append, BitVec.getLsbD_or, BitVec.getLsbD_and, BitVec.getLsbD_shiftLeft, BitVec.getLsbD_extractLsb',
    getLsbD_low14]
  by_cases hlow : j < 14
  · simp [hlow]
  · simp [hlow, hj, show j - 14 < 32 by omega]

theorem scalar_of_exec {i : Instr} {px : Pfx} {d a b : BitVec 6} {x : BitVec 1} {f : Word → Word → Word} {g : W64 → W64 → W64}
    {op : (n : Nat) → BitVec n → BitVec n → BitVec n} (hf : ∀ p q, f p q = op 32 p q) (hg : ∀ p q, g p q = op 64 p q)
    (he : ∀ s, exec i s = scalar i px d a b x f g s := by exact fun _ => rfl) : Scalar i px d a b x op := by
  refine uni_of_exec he fun st => ?_
  simp only [beq_iff_eq, srcW_eq_uB, srcW2_eq_uB2, hf, hg]
  rfl

theorem shiftBy_of_exec {i : Instr} {px : Pfx} {d a b : BitVec 6} {x : BitVec 1} {f : Word → Word → Word} {g : W64 → Word → W64}
    {op : (n : Nat) → BitVec n → Nat → BitVec n} (hf : ∀ p q, f p q = op 32 p q.toNat) (hg : ∀ p q, g p q = op 64 p q.toNat)
    (he : ∀ s, exec i s = shiftW i px d a b x f g s := by exact fun _ => rfl) : ShiftBy i px d a b x op := by
  refine uni_of_exec he fun st => ?_
  simp only [beq_iff_eq, srcW_eq_uB, hf, hg]
  rfl

/-! ### Scalar floating-point results (R243) -/

theorem uniF_of_exec {i : Instr} {d : BitVec 6} {f g : Strand → FRes} (he : ∀ s, exec i s = scalarF i d f s)
    (hfg : ∀ st, f st = g st) : UniF i d g :=
  uni_of_exec he fun st => by rw [hfg]; rfl

theorem uniLate_of_exec {i : Instr} {d : BitVec 6} {f : Strand → FRes} {r : FRes} {s : State} {st : Strand} {k : Nat}
    (he : exec i s = scalarFLate i d f s) (h : Ready i s st k) (hr : f st = r) :
    UniLate i s st k [(d.toNat, BitVec.ofNat 32 r.bits)] r.flags := by
  have hexec := exec_of_defer (r := { Result.blank st.who with
    wregs := [d.toNat], wwrites := [(d.toNat, (f st).word)], flags := (f st).flags }) he h (by simp only [h.1])
  rw [hr] at hexec
  exact hexec

/-! ### The scalar instructions -/

theorem scalarIntegerResults : ScalarIntegerResults := by
  intro px d a b c x n g cc imm
  refine ⟨?sadd, ?ssub, ?smul, ?sand, ?sor, ?sxor, ?sshl, ?sshr, ?ssra, ?smin, ?smax, ?smov, ?smulh, ?scmp, ?ssel, ?sli, ?slih,
    ?spopc, ?sclz, ?sbfe⟩
  case sadd => exact scalar_of_exec (addOp_eq px.sat) (arith64_add_eq px.sat)
  case ssub => exact scalar_of_exec (subOp_eq px.sat) (arith64_sub_eq px.sat)
  case smul => exact scalar_of_exec (fun _ _ => rfl) fun _ _ => rfl
  case sand => exact scalar_of_exec (fun _ _ => rfl) fun _ _ => rfl
  case sor => exact scalar_of_exec (fun _ _ => rfl) fun _ _ => rfl
  case sxor => exact scalar_of_exec (fun _ _ => rfl) fun _ _ => rfl
  case sshl => exact shiftBy_of_exec (fun _ _ => rfl) fun _ _ => rfl
  case sshr => exact shiftBy_of_exec (fun _ _ => rfl) fun _ _ => rfl
  case ssra => exact shiftBy_of_exec sraOp_eq_ite_msb sraOp_eq_ite_msb
  case smin => exact scalar_of_exec (minByN_eq n) (minByN_eq n)
  case smax => exact scalar_of_exec (maxByN_eq n) (maxByN_eq n)
  case smov => exact scalar_of_exec (fun _ _ => rfl) fun _ _ => rfl
  case smulh => exact uni_of_exec (fun _ => rfl) fun st => by rw [← srcW_eq_uB, ← mulhByN_eq]; rfl
  case scmp =>
    intro s st k h
    have htest := scmpTest_iff px a b x cc st
    exact ⟨_, gives_of_pure rfl h, fun hc => if_pos (htest.mpr hc), fun hc => if_neg (mt htest.mp hc)⟩
  case ssel => exact uni_of_exec (fun _ => rfl) fun st => by simp only [bne_iff_ne, srcW_eq_uB]; rfl
  case sli => exact uni_of_exec (fun _ => rfl) fun _ => rfl
  case slih => exact uni_of_exec (fun _ => rfl) fun st => by rw [append_low14_eq]; rfl
  case spopc => exact uni_of_exec (fun _ => rfl) fun st => congrArg (wWritten st d.toNat) (popcOp_eq _)
  case sclz => exact uni_of_exec (fun _ => rfl) fun st => congrArg (wWritten st d.toNat) (clzOp_eq _)
  case sbfe => exact uni_of_exec (fun _ => rfl) fun st => by rw [bfeByS_eq, srcW_eq_uB]; rfl

theorem scalarFloatResults : ScalarFloatResults := by
  intro px d a b c t f A B
  have hB : ∀ st, (srcW px st b).toNat = B st := fun st => congrArg BitVec.toNat (srcW_eq_uB px b st)
  have hmode := roundMode_eq_modeOf px
  refine ⟨?sfadd, ?sfmul, ?sffma, ?sfmin, ?sfmax, ?sfcmp, ?sfrcp, ?sfsqrt, ?sfcvt⟩
  case sfadd => exact uniF_of_exec (fun _ => rfl) fun st => by rw [hB, hmode]
  case sfmul => exact uniF_of_exec (fun _ => rfl) fun st => by rw [hB, hmode]
  case sffma => exact uniF_of_exec (fun _ => rfl) fun st => by rw [hB, hmode]
  case sfmin => exact uniF_of_exec (fun _ => rfl) fun st => by rw [hB]
  case sfmax => exact uniF_of_exec (fun _ => rfl) fun st => by rw [hB]
  case sfcmp => exact uniF_of_exec (fun _ => rfl) fun st => by rw [hB]
  case sfrcp => exact fun s st k h => uniLate_of_exec rfl h (by rw [hmode])
  case sfsqrt => exact fun s st k h => uniLate_of_exec rfl h (by rw [hmode])
  case sfcvt => exact uni_of_exec (fun _ => rfl) fun st => by simp only [beq_iff_eq, hmode]; rfl

/-- Settles O12: the integer results and the floating-point ones. -/
theorem scalarResults : Obligations.ScalarResults := ⟨scalarIntegerResults, scalarFloatResults⟩

end Sys2Proof.Proofs

/-! PROOF. Rays and triangles (R325, R327): which groups of eight words are valid rays, and the exact triangle test as Cramer's rule over the
integers. -/

namespace Sys2Proof.Proofs

open Sys2Proof Sys2Proof.Machine Sys2Proof.Claims

/-! ### Valid rays -/

theorem vecOf_eq_some_iff {l : List Word} {p : Vec3} :
    vecOf l = some p ↔ unitsOf (l.getD 0 0) = some p.x ∧ unitsOf (l.getD 1 0) = some p.y ∧ unitsOf (l.getD 2 0) = some p.z := by
  obtain ⟨px, py, pz⟩ := p
  unfold vecOf
  cases unitsOf (l.getD 0 0) with
  | none => simp
  | some x =>
    cases unitsOf (l.getD 1 0) with
    | none => simp
    | some y => cases unitsOf (l.getD 2 0) <;> simp

theorem vecOf_eq_none_iff {l : List Word} :
    vecOf l = none ↔ unitsOf (l.getD 0 0) = none ∨ unitsOf (l.getD 1 0) = none ∨ unitsOf (l.getD 2 0) = none := by
  unfold vecOf
  cases unitsOf (l.getD 0 0) with
  | none => simp
  | some x =>
    cases unitsOf (l.getD 1 0) with
    | none => simp
    | some y => cases unitsOf (l.getD 2 0) <;> simp

theorem real1_lt_iff_not_le {a b : Real1} : a.lt b = true ↔ b.le a = false := by simp [Real1.lt]

/-- R325 over the ray's four parts: an origin or direction that is not finite, a bound that is a NaN, a zero direction, or tmin > tmax. -/
theorem rayOf_eq_none_iff (g : List Word) :
    rayOf g = none ↔ (vecOf (g.take 3) = none ∨ vecOf ((g.drop 4).take 3) = none)
      ∨ realOf (g.getD 3 0) = none ∨ realOf (g.getD 7 0) = none ∨ vecOf ((g.drop 4).take 3) = some ⟨0, 0, 0⟩
      ∨ ∃ t0 t1, realOf (g.getD 3 0) = some t0 ∧ realOf (g.getD 7 0) = some t1 ∧ t0.le t1 = false := by
  unfold rayOf
  cases vecOf (g.take 3) with
  | none => simp
  | some o =>
    cases vecOf ((g.drop 4).take 3) with
    | none => simp
    | some d =>
      cases realOf (g.getD 3 0) with
      | none => simp
      | some t0 =>
        cases realOf (g.getD 7 0) with
        | none => simp
        | some t1 => simp [real1_lt_iff_not_le, or_iff_not_imp_left]

/-! ### The triangle test as Cramer's rule -/

/-- The sign that makes the denominator d · n positive. -/
def faceSign (dn : Int) : Int := if 0 < dn then 1 else -1

theorem faceSign_mul_self (dn : Int) : faceSign dn * dn = dn.natAbs := by
  unfold faceSign; split <;> omega

/-- The solution of o + t d = p0 + u e1 + v e2 as numerators over |d · n|, with the face. -/
def solveHit (o d p0 e1 e2 : Vec3) : TriHit :=
  let dn := d.dot (e1.cross e2)
  ⟨faceSign dn * (p0.sub o).dot (e1.cross e2), faceSign dn * -(o.sub p0).dot (d.cross e2), faceSign dn * (o.sub p0).dot (d.cross e1),
    dn.natAbs, decide (0 < dn)⟩

/-- R327: the conditions under which the test takes a solution as a hit. -/
abbrev HitAccepted (r : Ray) (tcur : Real1) (cull : Nat) (h : TriHit) : Prop :=
  0 ≤ h.u ∧ 0 ≤ h.v ∧ h.u + h.v ≤ h.den ∧ r.tmin.le (.fin h.t h.den) = true ∧ (Real1.fin h.t h.den).le tcur = true
    ∧ ¬(cull = 1 ∧ h.back = true) ∧ ¬(cull = 2 ∧ h.back = false)

/-- Cramer's rule in each coordinate, before the sign is taken out of the denominator. -/
theorem cramer (o d p0 e1 e2 : Vec3) :
    let dn := d.dot (e1.cross e2)
    let t := (p0.sub o).dot (e1.cross e2)
    let u := -(o.sub p0).dot (d.cross e2)
    let v := (o.sub p0).dot (d.cross e1)
    o.x * dn + t * d.x = p0.x * dn + u * e1.x + v * e2.x
      ∧ o.y * dn + t * d.y = p0.y * dn + u * e1.y + v * e2.y
      ∧ o.z * dn + t * d.z = p0.z * dn + u * e1.z + v * e2.z := by
  simp only [Vec3.dot, Vec3.cross, Vec3.sub]
  refine ⟨?x, ?y, ?z⟩ <;> ring

/-- One coordinate of the equation, multiplied by a sign that turns the denominator `dn` into `q`. -/
theorem scale_equation {c dn q o t d p u e v f : Int} (hq : c * dn = q) (h : o * dn + t * d = p * dn + u * e + v * f) :
    o * q + c * t * d = p * q + c * u * e + c * v * f := by
  linear_combination c * h - (o - p) * hq

theorem solveHit_solves (o d p0 e1 e2 : Vec3) :
    let h := solveHit o d p0 e1 e2
    o.x * h.den + h.t * d.x = p0.x * h.den + h.u * e1.x + h.v * e2.x
      ∧ o.y * h.den + h.t * d.y = p0.y * h.den + h.u * e1.y + h.v * e2.y
      ∧ o.z * h.den + h.t * d.z = p0.z * h.den + h.u * e1.z + h.v * e2.z := by
  obtain ⟨hx, hy, hz⟩ := cramer o d p0 e1 e2
  have hq := faceSign_mul_self (d.dot (e1.cross e2))
  exact ⟨scale_equation hq hx, scale_equation hq hy, scale_equation hq hz⟩

section TriTest

variable {r : Ray} {tcur : Real1} {cull : Nat} {g : List Word} {p0 p1 p2 : Vec3}
  (h0 : vecOf (g.take 3) = some p0) (h1 : vecOf ((g.drop 3).take 3) = some p1) (h2 : vecOf ((g.drop 6).take 3) = some p2)

include h0 h1 h2

theorem triTest_of_parallel (hdn : r.d.dot ((p1.sub p0).cross (p2.sub p0)) = 0) : triTest r tcur cull g = none := by
  simp [triTest, h0, h1, h2, hdn]

theorem triTest_eq_ite (hdn : r.d.dot ((p1.sub p0).cross (p2.sub p0)) ≠ 0) :
    triTest r tcur cull g =
      let h := solveHit r.o r.d p0 (p1.sub p0) (p2.sub p0)
      if HitAccepted r tcur cull h then some h else none := by
  simp only [triTest, h0, h1, h2, beq_eq_false_iff_ne.mpr hdn, Bool.false_eq_true, if_false]
  refine if_congr ?_ rfl rfl
  simp only [HitAccepted, solveHit, faceSign, Bool.and_eq_true, Bool.not_eq_true',
    Bool.eq_false_iff, ne_eq, decide_eq_true_eq, beq_iff_eq, and_assoc]

end TriTest

theorem hitAccepted_solveHit_iff {r : Ray} {tcur : Real1} {cull : Nat} {p0 e1 e2 : Vec3} (hdn : r.d.dot (e1.cross e2) ≠ 0) :
    let dn := r.d.dot (e1.cross e2)
    let h := solveHit r.o r.d p0 e1 e2
    HitAccepted r tcur cull h ↔ 0 ≤ h.u ∧ 0 ≤ h.v ∧ h.u + h.v ≤ dn.natAbs ∧ r.tmin.le (.fin h.t dn.natAbs) = true
      ∧ (Real1.fin h.t dn.natAbs).le tcur = true ∧ ¬(cull = 1 ∧ 0 < dn) ∧ ¬(cull = 2 ∧ dn < 0) := by
  have hfront : ¬ 0 < r.d.dot (e1.cross e2) ↔ r.d.dot (e1.cross e2) < 0 := by omega
  simp only [HitAccepted, solveHit, decide_eq_true_eq, decide_eq_false_iff_not, hfront]

/-- Settles O43: R325 word by word, and R327 by Cramer's rule. -/
theorem triangleTest : Obligations.TriangleTest := by
  refine ⟨fun g => ?rays, fun r tcur cull g p0 p1 p2 h0 h1 h2 => ⟨triTest_of_parallel h0 h1 h2, fun hdn => ?hits⟩⟩
  case rays => simp [rayOf_eq_none_iff, vecOf_eq_none_iff, vecOf_eq_some_iff, or_assoc]
  case hits =>
    obtain ⟨hx, hy, hz⟩ := solveHit_solves r.o r.d p0 (p1.sub p0) (p2.sub p0)
    have htest := triTest_eq_ite (tcur := tcur) (cull := cull) h0 h1 h2 hdn
    have haccept := hitAccepted_solveHit_iff (tcur := tcur) (cull := cull) (p0 := p0) hdn
    exact ⟨_, _, _, hx, hy, hz, fun h => htest.trans (if_pos (haccept.mpr h)), fun h => htest.trans (if_neg (mt haccept.mp h))⟩

end Sys2Proof.Proofs
